-- ==== Sys2Proof/Word.lean ====
section
/-! DEFINITION. The byte and the plainest arithmetic the manual's conventions use: clamping and saturation (00_scope, section 5). -/

namespace Sys2Proof

/-- One byte, as the frames and the spool hold it. -/
abbrev Byte := BitVec 8

/-- A 48-bit station address. -/
abbrev Station := BitVec 48

/-- A spool block number, 0 to 32,767 (chapter 1). -/
abbrev Block := Fin 32768

/-- A line number, 0 to 15: printer p is the printer on line p (00_scope, section 4). -/
abbrev LineNo := Fin 16

/-- An account number, 0 to 255 (00_scope, section 4). -/
abbrev AccountNo := Fin 256

/-- `v` clamped to `lo..hi` (00_scope, section 5). -/
def clamp (lo hi v : Nat) : Nat := if v < lo then lo else if hi < v then hi else v

/-- `v` saturating at `top` (00_scope, section 5). -/
def saturate (top v : Nat) : Nat := if top < v then top else v

/-- 2^48 - 1, the top of the 48-bit figures. -/
def max48 : Nat := 281474976710655

/-- 2^32 - 1, where the finish estimate saturates (R108). -/
def max32 : Nat := 4294967295

end Sys2Proof
end

