-- ==== Sys2Proof/Machine/Types.lean ====
section
/-! DEFINITION. The names and records the manual gives the part: states, kinds, statuses, table rows, sheet, job, line, account and alert records. Plain data only. -/

namespace Sys2Proof

/-- The two part states (R184). -/
inductive PartState where
  | configuring
  | live
deriving DecidableEq, Repr

/-- Binding policies (section 2.1). -/
inductive Policy where
  | spread
  | earliest
deriving DecidableEq, Repr

/-- Ingest states of a job (section 2.1). -/
inductive IngestState where
  | opened
  | closed
deriving DecidableEq, Repr

/-- Run states of a job (section 2.1). -/
inductive RunState where
  | new
  | waiting
  | queued
  | feeding
  | draining
  | leaving
  | held
  | done
  | failed
  | cancelled
deriving DecidableEq, Repr

/-- The leave target of a LEAVING job (section 2.1). -/
inductive LeaveTarget where
  | held
  | waiting
  | waitingExclude
deriving DecidableEq, Repr

/-- The hold reason of a HELD job, or of a job LEAVING toward HELD (section 2.1). -/
inductive HoldReason where
  | quota
  | operator
deriving DecidableEq, Repr

/-- Line states (chapter 5). -/
inductive LineState where
  | down
  | waking
  | ready
  | standby
  | blocked
  | retiring
  | retired
deriving DecidableEq, Repr

/-- The state a BLOCKED line left (R80, R90). -/
inductive BlockOrigin where
  | ready
  | waking
deriving DecidableEq, Repr

/-- Printer conditions (chapter 8). -/
inductive Condition where
  | jam
  | doorOpen
  | mediaOut
  | supplyLow
deriving DecidableEq, Repr

/-- The sense of a PATTERN row (R139). -/
inductive Sense where
  | raise
  | clear
deriving DecidableEq, Repr

/-- Flush purposes (section 5.6). -/
inductive Purpose where
  | block
  | cancel
  | fail
  | fault
  | move
  | retire
deriving DecidableEq, Repr

/-- The set of purposes of the pending flush; the empty set is "no flush pending" (R80, R92). -/
structure Purposes where
  block : Bool
  cancel : Bool
  fail : Bool
  fault : Bool
  move : Bool
  retire : Bool
deriving DecidableEq, Repr

/-- The condition set of a printer (R140): four members, no duplicates. -/
structure Conditions where
  jam : Bool
  doorOpen : Bool
  mediaOut : Bool
  supplyLow : Bool
deriving DecidableEq, Repr

/-- A timer (00_scope, section 5): stopped, running with the time left in ms (0 = its duration has
passed and its expiry is due), or suspended with the time it keeps. -/
inductive Timer where
  | stopped
  | running (left : Nat)
  | suspended (left : Nat)
deriving DecidableEq, Repr

/-- Alert kinds (R159). -/
inductive AlertKind where
  | jam
  | doorOpen
  | mediaOut
  | supplyLow
  | stall
  | lineDown
  | quotaHold
  | spoolLow
  | noWake
  | jobFailed
  | dataError
  | protocolFault
deriving DecidableEq, Repr

/-- The subject of an alert (R158, R159). -/
inductive Subject where
  | part
  | printer (p : LineNo)
  | account (a : AccountNo)
  | job (n : Nat)
deriving DecidableEq, Repr

/-- Alert record states (R158). -/
inductive AlertState where
  | raised
  | acked
  | cleared
deriving DecidableEq, Repr

/-- The transition an ALERT frame reports (R168, section 12.1.3). -/
inductive Transition where
  | raise
  | clear
  | reminder
  | event
  | untracked
deriving DecidableEq, Repr

/-- The sense of an UNTRACKED frame (R161, R164). -/
inductive UntrackedSense where
  | raise
  | clear
  | event
deriving DecidableEq, Repr

/-- A sheet reference: job, sheet index, copy (R169). -/
structure SheetRef where
  job : Nat
  sheet : Nat
  copy : Nat
deriving DecidableEq, Repr

/-- The detail of an alert: optional parts (R169). -/
structure Detail where
  text : Option (List Byte)
  ref : Option SheetRef
  available : Option Nat
  free : Option Nat
deriving DecidableEq, Repr

/-- An alert record (R158). -/
structure AlertRec where
  number : Nat
  kind : AlertKind
  subject : Subject
  state : AlertState
  present : Bool
  repeats : Nat
  reminders : Nat
  raisedTime : BitVec 32
  detail : Detail
  timer : Timer
deriving DecidableEq, Repr

/-- Reply statuses (R183, section 12.1.2). -/
inductive Status where
  | ok
  | duplicate
  | more
  | last
  | noSpace
  | noRecord
  | full
  | noRoute
  | order
  | gap
  | tooLarge
  | length
  | badMedia
  | unknownJob
  | jobEnded
  | badState
  | notPermitted
  | notLive
  | badRequest
  | busy
  | badWindow
  | noReadout
  | notFound
deriving DecidableEq, Repr

/-- A REPLY frame (R183): its Ethernet addresses and type, the echoed tag and sheet index, the job
number, the status, the free block count and the result body. -/
structure Reply where
  src : Station
  dst : Station
  etherType : BitVec 16
  tag : BitVec 16
  job : Nat
  sheet : BitVec 16
  status : Status
  free : Nat
  body : List Byte
deriving DecidableEq, Repr

/-- An ALERT frame (R168). -/
structure AlertFrame where
  src : Station
  dst : Station
  etherType : BitVec 16
  transition : Transition
  sense : Option UntrackedSense
  number : Nat
  kind : AlertKind
  subject : Subject
  state : AlertState
  present : Bool
  repeats : Nat
  reminders : Nat
  raisedTime : BitVec 32
  detail : Detail
deriving DecidableEq, Repr

/-- A frame the part sends on the shop port. -/
inductive ShopOut where
  | reply (r : Reply)
  | alert (a : AlertFrame)
deriving DecidableEq, Repr

/-- The control frames of the press line (R79). -/
inductive Control where
  | cancelSheets
  | standby
  | wake
  | resync
deriving DecidableEq, Repr

/-- A sheet frame of the line FIFO (R64): SHEET START or SHEET DATA. -/
inductive SheetFrame where
  | start (tag : Byte) (length media sides job sheet copy : Nat)
  | data (tag : Byte) (bytes : List Byte)
deriving DecidableEq, Repr

/-- A frame of the line transmitter (R65). -/
inductive LineFrame where
  | control (c : Control)
  | sheet (f : SheetFrame)
deriving DecidableEq, Repr

/-- A sheet's state (section 1.2). -/
inductive SheetState where
  | opened
  | complete
deriving DecidableEq, Repr

/-- A sheet record (section 1.2); the last four fields are meaningful in COMPLETE only. -/
structure Sheet where
  job : Nat
  index : Nat
  state : SheetState
  received : Nat
  chain : List Block
  media : Nat
  sides : Nat
  front : Fin 4
  back : Fin 4
deriving DecidableEq, Repr

/-- A cursor (copy, sheet index) (section 3.1). -/
structure Cursor where
  copy : Nat
  sheet : Nat
deriving DecidableEq, Repr

/-- A job record (section 2.1). -/
structure Job where
  number : Nat
  submitterRef : BitVec 16
  source : Station
  account : AccountNo
  kind : Nat
  priority : Nat
  copies : Nat
  mediaSet : BitVec 16
  retain : Bool
  moveAllowed : Bool
  group : Fin 8
  policy : Policy
  spreadShift : Nat
  ingest : IngestState
  run : RunState
  leaveTarget : Option LeaveTarget
  holdReason : Option HoldReason
  bound : Option LineNo
  excluded : Option LineNo
  sheets : List Sheet
  dispatch : Cursor
  confirm : Cursor
  noProgress : Nat
  split : Nat
  binding : Nat
  chargedCost : Nat
  confirmedCopies : Nat
  confirmedSides : Nat
deriving DecidableEq, Repr

/-- An in-flight entry (R49). -/
structure Entry where
  job : Nat
  copy : Nat
  sheet : Nat
  tag : Byte
  cost : Nat
  sides : Nat
  moved : Nat
  flushing : Bool
deriving DecidableEq, Repr

/-- A burst in progress on a line (R71, R72): its engine, the entry it serves, the block it reads, the
byte range, and whether a flush start or a line loss has discarded it. -/
structure Burst where
  engine : Fin 2
  tag : Byte
  job : Nat
  copy : Nat
  sheet : Nat
  block : Option Block
  offset : Nat
  count : Nat
  discarded : Bool
deriving DecidableEq, Repr

/-- What the part keeps for one line and its printer: the line record (R80), the feed state (chapter
4), the dispatch slice (chapter 3), the pace and stall state (chapter 6) and the status matcher's items (R140). -/
structure Line where
  state : LineState
  flush : Purposes
  readySeen : Bool
  blockOrigin : Option BlockOrigin
  flushedDuringBlock : Bool
  standbyPending : Bool
  lineDown : Bool
  settle : Timer
  wakeLimit : Timer
  minAwake : Timer
  idle : Timer
  flushLimit : Timer
  silence : Timer
  stall : Timer
  moveDelay : Timer
  stalled : Bool
  modelCode : BitVec 16
  fifo : List SheetFrame
  credits : Nat
  capacity : Nat
  burst : Option Burst
  control : List Control
  sending : Option LineFrame
  queue : List Nat
  feeding : Option Nat
  inflight : List Entry
  tagCtr : Byte
  pace : Nat
  armed : Bool
  lastDone : BitVec 32
  conditions : Conditions
  statusText : List Byte
  jamTag : Option Byte
deriving DecidableEq, Repr

/-- An account record (R114). -/
structure Account where
  cls : Nat
  limited : Bool
  limit : Nat
  tier : Bool
  chargedCost : Nat
  chargedSides : Nat
  reservedCost : Nat
  reservedSides : Nat
  period : BitVec 16
  quotaHeld : List Nat
deriving DecidableEq, Repr

/-- A printer meter record (R136). -/
structure Meter where
  sides : Vector Nat 4
  sheets : Nat
  blocks : Nat
deriving DecidableEq, Repr

/-- A ROUTE row (R23); `none` in the two optional cells is ANY. -/
structure RouteRow where
  valid : Bool
  cls : Option Nat
  kind : Option Nat
  minPriority : Nat
  group : Fin 8
  policy : Policy
  spreadShift : Nat
  moveAllowed : Bool
deriving DecidableEq, Repr

/-- A GROUP row (R27): member count and sixteen member cells. -/
structure GroupRow where
  count : Nat
  members : Vector LineNo 16
deriving DecidableEq, Repr

/-- A TIER row (R119). -/
structure TierRow where
  threshold : Nat
  discount : Nat
deriving DecidableEq, Repr

/-- A PATTERN row (R139); tag position `none` is NONE. -/
structure PatternRow where
  valid : Bool
  scope : BitVec 16
  length : Nat
  bytes : Vector Byte 8
  kind : Condition
  sense : Sense
  tagPos : Option Nat
deriving DecidableEq, Repr

/-- The writable cells of a ROSTER row (R100). -/
structure Roster where
  rateSet : Fin 4
  mediaMask : BitVec 16
  maxInFlight : Nat
  nominalPace : Nat
  settle : Nat
  minAwake : Nat
  wakeLimit : Nat
  idleToStandby : Nat
  threshold : Nat
deriving DecidableEq, Repr

/-- The shop port fields of the SETTINGS row (R181). -/
structure PortSettings where
  station : Station
  frameType : BitVec 16
  console : Station
  stations : Vector Station 4
deriving DecidableEq, Repr

/-- The SETTINGS row (section 11.7). -/
structure Settings where
  port : PortSettings
  flushLimit : Nat
  stallFactor : Nat
  stallMin : Nat
  stallMax : Nat
  moveDelay : Nat
  retryLimit : Nat
  reminderInterval : Nat
  reminderLimit : Nat
  ingestFloor : Nat
  lowWater : Nat
  highWater : Nat
  minCharge : Nat
deriving DecidableEq, Repr

/-- The tables of the table window (section 11.6). -/
inductive Table where
  | route
  | group
  | account
  | rate
  | media
  | tier
  | pattern
  | roster
  | settings
  | jobs
deriving DecidableEq, Repr

/-- A position in the table window, or its end (`none`) (R190). -/
abbrev WindowPos := Option (Nat × Nat)

/-- The table window with its two cursors (R189). -/
structure Window where
  table : Table
  firstRow : Nat
  lastRow : Nat
  firstCell : Nat
  lastCell : Nat
  write : WindowPos
  read : WindowPos
deriving DecidableEq, Repr

/-- Scopes of READ METERS START (R173). -/
inductive MeterScope where
  | accounts
  | printers
deriving DecidableEq, Repr

/-- One record of a snapshot (R173, R174). -/
inductive SnapRecord where
  | account (number : Nat) (period : BitVec 16) (limited : Bool) (limit chargedCost chargedSides reservedCost : Nat)
  | printer (number : Nat) (meter : Meter) (state : LineState)
deriving DecidableEq, Repr

/-- The snapshot of the readout buffer (R172). -/
structure Snapshot where
  scope : MeterScope
  records : List SnapRecord
  next : Nat
deriving DecidableEq, Repr

end Sys2Proof
end

