-- ==== Sys2Proof/Syntax.lean ====
section
/-! DEFINITION. The commands the part takes: one constructor per row of spec/opcode_table.json, with the frame, line, job, printer or alert it names. -/

namespace Sys2Proof

/-- A shop frame as it reaches the port: the Ethernet addresses, type and check, the fields of the
14-byte header of section 12.1 but its kind, and the payload bytes that follow. The kind is the
constructor's. `rest` holds every payload byte after the header (padding among them); for a MANAGE
request that a constructor names it holds those after the request code. -/
structure ShopFrame where
  dst : Station
  src : Station
  etherType : BitVec 16
  fcsGood : Bool
  version : Byte
  tag : BitVec 16
  job : BitVec 16
  sheet : BitVec 16
  offset : BitVec 32
  length : BitVec 16
  rest : List Byte
deriving DecidableEq, Repr

/-- An Ethernet frame as bytes: its addresses, type, check and payload. -/
structure EtherFrame where
  dst : Station
  src : Station
  etherType : BitVec 16
  fcsGood : Bool
  payload : List Byte
deriving DecidableEq, Repr

/-- A press-line frame as it was received (section 12.3): kind, length field, and the body and CRC
read after it (none of either when the length field is above 257). -/
structure RawLineFrame where
  kind : Byte
  length : BitVec 16
  body : List Byte
  crc : BitVec 16
deriving DecidableEq, Repr

/-- The commands: operations of the shop port, frames of the printers, and the events of the part's own
units, one constructor per row of the table. -/
inductive Instr where
  | jobOpen (f : ShopFrame)
  | sheetData (f : ShopFrame)
  | sheetDataStoreEnd (job : Nat)
  | sheetEnd (f : ShopFrame)
  | jobClose (f : ShopFrame)
  | jobCancel (f : ShopFrame)
  | shopFrameDropped (f : EtherFrame)
  | goLive (f : ShopFrame)
  | readStatus (f : ShopFrame)
  | tableWindow (f : ShopFrame)
  | tableWrite (f : ShopFrame)
  | tableWriteContinue (f : ShopFrame)
  | tableRead (f : ShopFrame)
  | tableReadContinue (f : ShopFrame)
  | adjustLimit (f : ShopFrame)
  | closePeriod (f : ShopFrame)
  | readMetersStart (f : ShopFrame)
  | readMetersNext (f : ShopFrame)
  | holdJob (f : ShopFrame)
  | releaseJob (f : ShopFrame)
  | cancelJob (f : ShopFrame)
  | purgeJob (f : ShopFrame)
  | reprintJob (f : ShopFrame)
  | moveJob (f : ShopFrame)
  | standbyRequest (f : ShopFrame)
  | wakeRequest (f : ShopFrame)
  | retireRequest (f : ShopFrame)
  | returnRequest (f : ShopFrame)
  | ackAlert (f : ShopFrame)
  | resetWarm (f : ShopFrame)
  | resetFull (f : ShopFrame)
  | powerOn (straps : BitVec 4)
  | hello (p : LineNo) (capacity nominalPace modelCode : BitVec 16)
  | credit (p : LineNo) (count : BitVec 16)
  | sheetDone (p : LineNo) (tag : Byte)
  | status (p : LineNo) (report : List Byte)
  | ready (p : LineNo)
  | flushed (p : LineNo)
  | lineFrameDiscarded (p : LineNo) (f : RawLineFrame)
  | lineTransmitFrame (p : LineNo)
  | settleExpiry (p : LineNo)
  | wakeLimitExpiry (p : LineNo)
  | minAwakeExpiry (p : LineNo)
  | idleTimerExpiry (p : LineNo)
  | flushLimitExpiry (p : LineNo)
  | silenceMonitorExpiry (p : LineNo)
  | stallTimerExpiry (p : LineNo)
  | moveDelayExpiry (p : LineNo)
  | reminderTimerExpiry (number : Nat)
  | sheetStart (p : LineNo)
  | burstGrant
  | burstCompletion (p : LineNo) (readError : Bool)
  | idleSignalling (p : LineNo)
  | unknownRequestCode (f : ShopFrame)
deriving DecidableEq, Repr

end Sys2Proof
end

