-- ==== Sys2Proof/Machine/Bytes.lean ====
section
/-! DEFINITION. Byte order, the CRC and the byte layouts of chapter 12: what the part sends as bytes, and the codes of kinds, states and statuses. -/

namespace Sys2Proof.Machine

/-- The low `n` bytes of `v`, most significant byte first (chapter 12). -/
def be : Nat → Nat → List Byte
  | 0, _ => []
  | n + 1, v => BitVec.ofNat 8 (v / 256 ^ n) :: be n v

/-- The number a byte string codes, most significant byte first (chapter 12). -/
def beNat (bs : List Byte) : Nat := bs.foldl (fun n b => n * 256 + b.toNat) 0

/-- The flag byte: 1 for yes, 0 for no (chapter 12). -/
def flagByte (b : Bool) : Byte := if b then 1#8 else 0#8

/-- One bit through the CRC register: shift left, and add the polynomial 0x1021 when the bit shifted
out is set (R199). -/
def crcShift (r : BitVec 16) : BitVec 16 :=
  if r.msb then (r <<< 1) ^^^ 0x1021#16 else r <<< 1

/-- One byte through the CRC register, most significant bit first (R199). -/
def crcByte (r : BitVec 16) (b : Byte) : BitVec 16 :=
  let x := r ^^^ (b.setWidth 16 <<< 8)
  crcShift (crcShift (crcShift (crcShift (crcShift (crcShift (crcShift (crcShift x)))))))

/-- The press-line CRC-16: initial value 0xFFFF, no reflection, no final inversion (R199). -/
def crc16 (bs : List Byte) : BitVec 16 := bs.foldl crcByte 0xFFFF#16

/-- A press-line frame as bytes: start marker, kind, length, body, CRC (section 12.3, R199). -/
def lineFrameBytes (kind : Byte) (body : List Byte) : List Byte :=
  let covered := kind :: be 2 body.length ++ body
  0xA5#8 :: covered ++ be 2 (crc16 covered).toNat

/-- The code of a frame sent to a printer (section 12.3). -/
def lineFrameKind : LineFrame → Byte
  | .sheet (.start ..) => 1#8
  | .sheet (.data ..) => 2#8
  | .control .standby => 3#8
  | .control .wake => 4#8
  | .control .cancelSheets => 5#8
  | .control .resync => 6#8

/-- The body of a frame sent to a printer (section 12.3). -/
def lineFrameBody : LineFrame → List Byte
  | .sheet (.start tag length media sides job sheet copy) =>
      tag :: be 4 length ++ be 1 media ++ be 1 sides ++ be 2 job ++ be 2 sheet ++ be 1 copy
  | .sheet (.data tag bytes) => tag :: bytes
  | .control _ => []

/-- The whole frame as the transmitter sends it. -/
def lineFrameWire (f : LineFrame) : List Byte := lineFrameBytes (lineFrameKind f) (lineFrameBody f)

/-- What the receiver does with a whole frame it has read: is it taken (R200)? -/
def lineFrameTaken (f : RawLineFrame) : Bool :=
  decide (f.length.toNat ≤ 257) && decide (f.body.length = f.length.toNat) &&
  decide (f.crc = crc16 (f.kind :: be 2 f.length.toNat ++ f.body)) &&
  match f.kind.toNat with
  | 65 => decide (f.body.length = 6)
  | 66 => decide (f.body.length = 2)
  | 67 => decide (f.body.length = 1)
  | 68 => decide (1 ≤ f.body.length) && decide (f.body.length ≤ 32)
  | 69 => decide (f.body.length = 0)
  | 70 => decide (f.body.length = 0)
  | _ => false

/-- Status codes (section 12.1.2). -/
def statusCode : Status → Nat
  | .ok => 0
  | .duplicate => 1
  | .more => 2
  | .last => 3
  | .noSpace => 16
  | .noRecord => 17
  | .full => 18
  | .noRoute => 19
  | .order => 20
  | .gap => 21
  | .tooLarge => 22
  | .length => 23
  | .badMedia => 24
  | .unknownJob => 25
  | .jobEnded => 26
  | .badState => 27
  | .notPermitted => 28
  | .notLive => 29
  | .badRequest => 30
  | .busy => 31
  | .badWindow => 32
  | .noReadout => 33
  | .notFound => 34

/-- Line state codes (section 12.1.2). -/
def lineStateCode : LineState → Nat
  | .down => 0
  | .waking => 1
  | .ready => 2
  | .standby => 3
  | .blocked => 4
  | .retiring => 5
  | .retired => 6

/-- A block origin is the line state left, READY or WAKING (R90), and has its code. -/
def blockOriginCode : BlockOrigin → Nat
  | .ready => lineStateCode .ready
  | .waking => lineStateCode .waking

/-- Run state codes (section 12.1.2). -/
def runStateCode : RunState → Nat
  | .new => 0
  | .waiting => 1
  | .queued => 2
  | .feeding => 3
  | .draining => 4
  | .leaving => 5
  | .held => 6
  | .done => 7
  | .failed => 8
  | .cancelled => 9

/-- Ingest state codes: OPEN 0, CLOSED 1 (R198). -/
def ingestCode : IngestState → Nat
  | .opened => 0
  | .closed => 1

/-- Policy codes: SPREAD 0, EARLIEST 1 (R198). -/
def policyCode : Policy → Nat
  | .spread => 0
  | .earliest => 1

/-- Condition codes of PATTERN (R198). -/
def conditionCode : Condition → Nat
  | .jam => 0
  | .doorOpen => 1
  | .mediaOut => 2
  | .supplyLow => 3

/-- Sense codes of PATTERN (R198). -/
def senseCode : Sense → Nat
  | .raise => 0
  | .clear => 1

/-- Alert kind codes (section 12.1.3). -/
def alertKindCode : AlertKind → Nat
  | .jam => 1
  | .doorOpen => 2
  | .mediaOut => 3
  | .supplyLow => 4
  | .stall => 5
  | .lineDown => 6
  | .quotaHold => 7
  | .spoolLow => 8
  | .noWake => 9
  | .jobFailed => 10
  | .dataError => 11
  | .protocolFault => 12

/-- Alert state codes (section 12.1.3). -/
def alertStateCode : AlertState → Nat
  | .raised => 1
  | .acked => 2
  | .cleared => 3

/-- Transition codes (section 12.1.3). -/
def transitionCode : Transition → Nat
  | .raise => 1
  | .clear => 2
  | .reminder => 3
  | .event => 4
  | .untracked => 5

/-- Untracked sense codes; 0 in tracked frames (section 12.1.3). -/
def senseByte : Option UntrackedSense → Nat
  | none => 0
  | some .raise => 1
  | some .clear => 2
  | some .event => 4

/-- Subject type codes (section 12.1.3). -/
def subjectType : Subject → Nat
  | .part => 0
  | .printer _ => 1
  | .account _ => 2
  | .job _ => 3

/-- Subject numbers; 0 for PART (section 12.1.3). -/
def subjectNumber : Subject → Nat
  | .part => 0
  | .printer p => p.val
  | .account a => a.val
  | .job n => n

/-- Meter scope codes: ACCOUNTS 0, PRINTERS 1 (section 12.1.1). -/
def meterScopeCode : MeterScope → Nat
  | .accounts => 0
  | .printers => 1

/-- Table numbers (section 11.6). -/
def tableNumber : Table → Nat
  | .route => 1
  | .group => 2
  | .account => 3
  | .rate => 4
  | .media => 5
  | .tier => 6
  | .pattern => 7
  | .roster => 8
  | .settings => 9
  | .jobs => 10

/-- The table a number names (R189). -/
def tableOf : Nat → Option Table
  | 1 => some .route
  | 2 => some .group
  | 3 => some .account
  | 4 => some .rate
  | 5 => some .media
  | 6 => some .tier
  | 7 => some .pattern
  | 8 => some .roster
  | 9 => some .settings
  | 10 => some .jobs
  | _ => none

/-- The 14-byte shop header (section 12.1). -/
def shopHeader (kind : Nat) (tag job sheet offset length : Nat) : List Byte :=
  1#8 :: be 1 kind ++ be 2 tag ++ be 2 job ++ be 2 sheet ++ be 4 offset ++ be 2 length

/-- The bytes of a REPLY frame's payload (section 12.1.2). -/
def replyBytes (r : Reply) : List Byte :=
  shopHeader 129 r.tag.toNat r.job r.sheet.toNat 0 (3 + r.body.length) ++
    be 1 (statusCode r.status) ++ be 2 r.free ++ r.body

/-- The detail-present byte (section 12.1.3). -/
def detailBits (d : Detail) : Nat :=
  (if d.text.isSome then 1 else 0) + (if d.ref.isSome then 2 else 0) +
  (if d.available.isSome then 4 else 0) + (if d.free.isSome then 8 else 0)

/-- The detail parts present, in bit order (section 12.1.3). -/
def detailBytes (d : Detail) : List Byte :=
  (match d.text with | some t => be 1 t.length ++ t | none => []) ++
  (match d.ref with | some r => be 2 r.job ++ be 2 r.sheet ++ be 1 r.copy | none => []) ++
  (match d.available with | some a => be 6 a | none => []) ++
  (match d.free with | some n => be 2 n | none => [])

/-- The body of an ALERT frame (section 12.1.3). -/
def alertBody (a : AlertFrame) : List Byte :=
  be 1 (transitionCode a.transition) ++ be 1 (senseByte a.sense) ++ be 2 a.number ++
  be 1 (alertKindCode a.kind) ++ be 1 (subjectType a.subject) ++ be 2 (subjectNumber a.subject) ++
  be 1 (alertStateCode a.state) ++ [flagByte a.present] ++ be 1 a.repeats ++ be 1 a.reminders ++
  be 4 a.raisedTime.toNat ++ be 1 (detailBits a.detail) ++ detailBytes a.detail

/-- The bytes of an ALERT frame's payload (section 12.1.3). -/
def alertBytes (a : AlertFrame) : List Byte :=
  shopHeader 130 0 0 0 0 (alertBody a).length ++ alertBody a

end Sys2Proof.Machine
end

