-- ==== Sys2Proof/WellFormed.lean ====
section
/-! DEFINITION. Which commands stand for an event of the table: the checks on a command that do not depend on the state. -/

namespace Sys2Proof

/-- A MANAGE frame that a constructor names has a body, since its first body byte is the request code
(section 12.1). -/
def namedRequest (f : ShopFrame) : Bool := decide (1 ≤ f.length.toNat)

/-- The frame of UNKNOWN_REQUEST_CODE: an empty body, or a code that names no request of section 12.1.1. -/
def namesNoRequest (f : ShopFrame) : Bool :=
  decide (f.length.toNat = 0) ||
  match f.rest with
  | [] => true
  | c :: _ => decide (c.toNat = 0) || decide (23 < c.toNat)

/-- An allocated number: 1..65,535 (R24, R160). -/
def allocatedNumber (n : Nat) : Bool := decide (1 ≤ n) && decide (n ≤ 65535)

/-- Well-formedness of a command. RESET_WARM does not carry the mode of RESET_FULL, nor the other way
round (R194); a STATUS report has 1..32 bytes (R141); a discarded line frame is one that R200 discards. -/
def WellFormed : Instr → Bool
  | .jobOpen _ => true
  | .sheetData _ => true
  | .sheetDataStoreEnd j => allocatedNumber j
  | .sheetEnd _ => true
  | .jobClose _ => true
  | .jobCancel _ => true
  | .shopFrameDropped _ => true
  | .goLive f => namedRequest f
  | .readStatus f => namedRequest f
  | .tableWindow f => namedRequest f
  | .tableWrite f => namedRequest f
  | .tableWriteContinue f => namedRequest f
  | .tableRead f => namedRequest f
  | .tableReadContinue f => namedRequest f
  | .adjustLimit f => namedRequest f
  | .closePeriod f => namedRequest f
  | .readMetersStart f => namedRequest f
  | .readMetersNext f => namedRequest f
  | .holdJob f => namedRequest f
  | .releaseJob f => namedRequest f
  | .cancelJob f => namedRequest f
  | .purgeJob f => namedRequest f
  | .reprintJob f => namedRequest f
  | .moveJob f => namedRequest f
  | .standbyRequest f => namedRequest f
  | .wakeRequest f => namedRequest f
  | .retireRequest f => namedRequest f
  | .returnRequest f => namedRequest f
  | .ackAlert f => namedRequest f
  | .resetWarm f => namedRequest f && decide (f.rest.head? ≠ some 2#8)
  | .resetFull f => namedRequest f && decide (f.rest.head? ≠ some 1#8)
  | .powerOn _ => true
  | .hello _ _ _ _ => true
  | .credit _ _ => true
  | .sheetDone _ _ => true
  | .status _ report => decide (1 ≤ report.length) && decide (report.length ≤ 32)
  | .ready _ => true
  | .flushed _ => true
  | .lineFrameDiscarded _ f => !Machine.lineFrameTaken f
  | .lineTransmitFrame _ => true
  | .settleExpiry _ => true
  | .wakeLimitExpiry _ => true
  | .minAwakeExpiry _ => true
  | .idleTimerExpiry _ => true
  | .flushLimitExpiry _ => true
  | .silenceMonitorExpiry _ => true
  | .stallTimerExpiry _ => true
  | .moveDelayExpiry _ => true
  | .reminderTimerExpiry n => allocatedNumber n
  | .sheetStart _ => true
  | .burstGrant => true
  | .burstCompletion _ _ => true
  | .idleSignalling _ => true
  | .unknownRequestCode f => namesNoRequest f

end Sys2Proof
end

