-- ==== Sys2Proof/Decode.lean ====
section
/-! DEFINITION. decodeTableWord (no row of the table gives bits), and the two receivers of chapter 12: the shop port's reading of a payload, and the press-line receiver's reading of a byte stream. -/

namespace Sys2Proof

/-- The command a word spells by the table's bits: no row of spec/opcode_table.json gives bits, so none. -/
def decodeTableWord (_nbits _w : Nat) : Option Instr := none

/-- The command a MANAGE request code names (section 12.1.1); RESET's mode byte selects its row. -/
def requestCommand (code : Nat) (f : ShopFrame) : Option Instr :=
  match code with
  | 1 => some (.goLive f)
  | 2 => some (.readStatus f)
  | 3 => some (.tableWindow f)
  | 4 => some (.tableWrite f)
  | 5 => some (.tableWriteContinue f)
  | 6 => some (.tableRead f)
  | 7 => some (.tableReadContinue f)
  | 8 => some (.adjustLimit f)
  | 9 => some (.closePeriod f)
  | 10 => some (.readMetersStart f)
  | 11 => some (.readMetersNext f)
  | 12 => some (.holdJob f)
  | 13 => some (.releaseJob f)
  | 14 => some (.cancelJob f)
  | 15 => some (.purgeJob f)
  | 16 => some (.reprintJob f)
  | 17 => some (.moveJob f)
  | 18 => some (.standbyRequest f)
  | 19 => some (.wakeRequest f)
  | 20 => some (.retireRequest f)
  | 21 => some (.returnRequest f)
  | 22 => some (.ackAlert f)
  | 23 => if f.rest.head? = some 2#8 then some (.resetFull f) else some (.resetWarm f)
  | _ => none

/-- The command of a MANAGE frame whose payload after the header is `f.rest` (R182, R197 step 5). -/
def manageCommand (f : ShopFrame) : Instr :=
  if f.length.toNat = 0 then .unknownRequestCode f
  else match f.rest with
    | [] => .unknownRequestCode f
    | c :: args => (requestCommand c.toNat { f with rest := args }).getD (.unknownRequestCode f)

/-- The command of an Ethernet frame at the shop port: the header of section 12.1 is read from a
payload of at least 14 bytes, and the kind selects the row; every other frame is dropped (R180, section 12.1).
The addresses, the type and the check sequence are judged by the meaning, against the settings. -/
def shopCommand (e : EtherFrame) : Instr :=
  match e.payload with
  | v :: k :: t1 :: t0 :: j1 :: j0 :: s1 :: s0 :: o3 :: o2 :: o1 :: o0 :: l1 :: l0 :: rest =>
    let f : ShopFrame :=
      { dst := e.dst
        src := e.src
        etherType := e.etherType
        fcsGood := e.fcsGood
        version := v
        tag := t1 ++ t0
        job := j1 ++ j0
        sheet := s1 ++ s0
        offset := o3 ++ o2 ++ o1 ++ o0
        length := l1 ++ l0
        rest := rest }
    match k.toNat with
    | 1 => .jobOpen f
    | 2 => .sheetData f
    | 3 => .sheetEnd f
    | 4 => .jobClose f
    | 5 => .jobCancel f
    | 6 => manageCommand f
    | _ => .shopFrameDropped e
  | _ => .shopFrameDropped e

/-- The command of a whole press-line frame from printer p: taken by its kind, or discarded (R200). -/
def lineCommand (p : LineNo) (f : RawLineFrame) : Instr :=
  if Machine.lineFrameTaken f then
    match f.kind.toNat, f.body with
    | 65, [c1, c0, n1, n0, m1, m0] => .hello p (c1 ++ c0) (n1 ++ n0) (m1 ++ m0)
    | 66, [n1, n0] => .credit p (n1 ++ n0)
    | 67, [t] => .sheetDone p t
    | 68, report => .status p report
    | 69, _ => .ready p
    | 70, _ => .flushed p
    | _, _ => .lineFrameDiscarded p f
  else .lineFrameDiscarded p f

/-- The press-line receiver over a byte stream (R200): hunt for the start marker 0xA5, read kind and
length, discard at once a length above 257, else read body and CRC. Bytes outside a frame, idle
signalling among them, are skipped; a frame cut short yields nothing. The fuel is the stream's length. -/
def lineReceiveFuel (p : LineNo) : Nat → List Byte → List Instr
  | 0, _ => []
  | _ + 1, [] => []
  | n + 1, b :: bs =>
    if b ≠ 0xA5#8 then lineReceiveFuel p n bs
    else match bs with
      | k :: l1 :: l0 :: more =>
        let len : BitVec 16 := l1 ++ l0
        if 257 < len.toNat then
          .lineFrameDiscarded p { kind := k, length := len, body := [], crc := 0 } :: lineReceiveFuel p n more
        else match more.drop len.toNat with
          | c1 :: c0 :: after =>
            lineCommand p { kind := k, length := len, body := more.take len.toNat, crc := c1 ++ c0 } ::
              lineReceiveFuel p n after
          | _ => []
      | _ => []

/-- The commands of a byte stream received on line p. -/
def lineReceive (p : LineNo) (bs : List Byte) : List Instr := lineReceiveFuel p bs.length bs

end Sys2Proof
end

