-- ==== Sys2Proof/Config.lean ====
section
/-! DEFINITION. What the part fixes (sizes and constant addresses) and the free values: constants without a body, one for each value the manual leaves open. -/

namespace Sys2Proof

/-- Number of spool blocks (chapter 1). -/
def Config.blocks : Nat := 32768
/-- Bytes in a block (chapter 1). -/
def Config.blockBytes : Nat := 4096
/-- Number of sheet records (R3). -/
def Config.sheetRecords : Nat := 4096
/-- Number of job records (section 2.1). -/
def Config.jobRecords : Nat := 128
/-- Number of alert records (R158). -/
def Config.alertRecords : Nat := 32
/-- Capacity of the quarantine list (R5). -/
def Config.quarantineSize : Nat := 64
/-- The largest sheet, 16,777,216 bytes (R8). -/
def Config.sheetMax : Nat := 16777216
/-- The silence monitor's duration, 100 ms (R95). -/
def Config.silenceMs : Nat := 100
/-- The reset frame type 0x8A5C (R181). -/
def Config.resetFrameType : BitVec 16 := 0x8A5C#16
/-- The reset station address 02-52-4E-00-00-xx, xx the strap value (R181, R195). -/
def Config.resetStation (straps : BitVec 4) : Station := 0x02524E000000#48 + straps.setWidth 48
/-- The broadcast address. -/
def Config.broadcast : Station := 0xFFFFFFFFFFFF#48
/-- What a spool byte that nothing has written reads as. DESIGN CHOICE (log 5). -/
def Config.dramFill : Byte := 0#8

/-- FREE VALUE (log 7): which of the events that fall due together is taken first. -/
opaque Config.pickOrder : Nat → Nat
/-- FREE VALUE (log 8): the bytes a burst reads when the chain holds no block at its position. -/
opaque Config.strayByte : Nat → Byte
/-- FREE VALUE (log 9): the code of the part state in a READ STATUS body. -/
opaque Config.partStateCode : PartState → BitVec 64
/-- FREE VALUE (log 9): the code of a non-empty purpose set in a READ STATUS body. -/
opaque Config.purposesCode : Purposes → BitVec 64
/-- FREE VALUE (log 9): the code of a condition set in a READ STATUS body. -/
opaque Config.conditionsCode : Conditions → BitVec 64
/-- FREE VALUE (log 9): the code of a leave target in a READ STATUS body. -/
opaque Config.leaveTargetCode : LeaveTarget → BitVec 64
/-- FREE VALUE (log 9): the code of a hold reason in a READ STATUS body. -/
opaque Config.holdReasonCode : HoldReason → BitVec 64
/-- FREE VALUE (log 39): the one-byte count field of a reply whose count is above 255. -/
opaque Config.countAbove : Nat → Byte

end Sys2Proof
end

