-- ==== Sys2Proof/Machine/State.lean ====
section
/-! DEFINITION. The state of the part as plain data, its faults and refusals, the spool memory's canonical form, and the state right after reset. -/

namespace Sys2Proof.Machine

/-- No rule of the spec stops the part: every refusal is a reply, every bad frame is dropped or
discarded. So there is no fault (safe: nothing is cut short by one). -/
inductive Fault where
deriving DecidableEq, Repr

/-- Refusals of the model. -/
inductive Refusal where
  /-- Raised by an arm of exec that has no meaning yet (safe); no arm of this model uses it. -/
  | notModelled (mnemonic : String)
deriving DecidableEq, Repr

/-- The bytes of the spool DRAM that differ from the fill: byte k of block b at address
b × 4,096 + k (chapter 1). -/
abbrev Memory := List Host.Cell

/-- The canonical form: addresses strictly rising, and no byte equal to the fill. -/
def Memory.wf : Memory → Bool
  | [] => true
  | [(_, v)] => decide (v ≠ Config.dramFill)
  | (a, v) :: (b, w) :: m =>
    decide (v ≠ Config.dramFill) && decide (a < b) && Memory.wf ((b, w) :: m)

/-- A sheet data store under way (R11): the job and sheet, the sheet offset at which the segment's new
bytes begin and those bytes, the frame to answer, and a purge that waits on the store (R41). -/
structure Store where
  job : Nat
  sheet : Nat
  offset : Nat
  bytes : List Byte
  frame : ShopFrame
  purge : Bool
deriving DecidableEq, Repr

/-- The kinds of job frame that name a job in their header (section 12.1). -/
inductive JobFrame where
  | sheetData
  | sheetEnd
  | jobClose
  | jobCancel
deriving DecidableEq, Repr

/-- What waits behind a store of its job (R6, R183): a frame to be checked, or an answer already
decided whose reply follows the replies of earlier frames. -/
inductive Held where
  | frame (kind : JobFrame) (f : ShopFrame)
  | answer (f : ShopFrame) (status : Status) (body : List Byte)
deriving DecidableEq, Repr

/-- The state of the part. INVENTORY.md gives each field's rule and reset value. -/
structure State where
  /-- The commands waiting, first in first out (the model's own). -/
  pending : List Instr
  live : PartState
  straps : BitVec 4
  window : Option Window
  readout : Option Snapshot
  timeBase : BitVec 32
  route : Vector RouteRow 32
  group : Vector GroupRow 8
  accounts : Vector Account 256
  rate : Vector (Vector Nat 4) 4
  media : Vector Nat 16
  tier : Vector TierRow 4
  pattern : Vector PatternRow 24
  roster : Vector Roster 16
  settings : Settings
  free : List Block
  pool : Nat
  quarantine : List Block
  spoolLow : Bool
  dram : Memory
  stores : List Store
  held : List Held
  jobs : List Job
  jobCtr : Nat
  waiting : List Nat
  passesWanted : Nat
  lines : Vector Line 16
  engine0 : Option LineNo
  engine1 : Option LineNo
  lastGranted : LineNo
  meters : Vector Meter 16
  alerts : List AlertRec
  cleared : List Nat
  alertCtr : Nat
  /-- Frames sent on the shop port, oldest first (the model's own, log 4). -/
  shopOut : List ShopOut
  /-- Frames sent whole on the lines, oldest first (the model's own, log 4). -/
  lineOut : List (LineNo × LineFrame)
  /-- Counter of the free order of due events (the model's own, log 7). -/
  freeCtr : Nat
deriving DecidableEq, Repr

/-- `n` block numbers ascending from `b` (R1). -/
def ascending : Nat → Nat → List Block
  | 0, _ => []
  | n + 1, b => Fin.ofNat 32768 b :: ascending n (b + 1)

/-- No flush pending. -/
def Purposes.none : Purposes := ⟨false, false, false, false, false, false⟩

/-- The empty condition set. -/
def Conditions.none : Conditions := ⟨false, false, false, false⟩

/-- A line after power-on and RESET FULL (R80, R63, R77, R102, R140, R152). -/
def Line.reset : Line :=
  { state := .down
    flush := Purposes.none
    readySeen := false
    blockOrigin := .none
    flushedDuringBlock := false
    standbyPending := false
    lineDown := false
    settle := .stopped
    wakeLimit := .stopped
    minAwake := .stopped
    idle := .stopped
    flushLimit := .stopped
    silence := .stopped
    stall := .stopped
    moveDelay := .stopped
    stalled := false
    modelCode := 0
    fifo := []
    credits := 0
    capacity := 0
    burst := .none
    control := []
    sending := .none
    queue := []
    feeding := .none
    inflight := []
    tagCtr := 0
    pace := 2000
    armed := false
    lastDone := 0
    conditions := Conditions.none
    statusText := []
    jamTag := .none }

/-- An account after power-on and RESET FULL (R114). -/
def Account.reset : Account :=
  { cls := 0
    limited := false
    limit := 0
    tier := false
    chargedCost := 0
    chargedSides := 0
    reservedCost := 0
    reservedSides := 0
    period := 0
    quotaHeld := [] }

/-- A printer meter record at 0 (R137). -/
def Meter.zero : Meter := { sides := Vector.replicate 4 0, sheets := 0, blocks := 0 }

/-- A ROUTE row after power-on and RESET FULL (R23). -/
def RouteRow.reset : RouteRow :=
  { valid := false
    cls := .none
    kind := .none
    minPriority := 0
    group := 0
    policy := .spread
    spreadShift := 0
    moveAllowed := false }

/-- A GROUP row after power-on and RESET FULL (R27). -/
def GroupRow.reset : GroupRow := { count := 0, members := Vector.replicate 16 0 }

/-- A PATTERN row after power-on and RESET FULL (R139). -/
def PatternRow.reset : PatternRow :=
  { valid := false
    scope := 0xFFFF#16
    length := 1
    bytes := Vector.replicate 8 0
    kind := .jam
    sense := .raise
    tagPos := .none }

/-- A ROSTER row after power-on and RESET FULL (R100). -/
def Roster.reset : Roster :=
  { rateSet := 0
    mediaMask := 1#16
    maxInFlight := 4
    nominalPace := 2000
    settle := 20000
    minAwake := 60000
    wakeLimit := 180000
    idleToStandby := 900000
    threshold := 256 }

/-- The SETTINGS row after power-on and RESET FULL, with the strap value kept (section 11.7, R181, R195). -/
def Settings.reset (straps : BitVec 4) : Settings :=
  { port :=
      { station := Config.resetStation straps
        frameType := Config.resetFrameType
        console := 0
        stations := Vector.replicate 4 0 }
    flushLimit := 5000
    stallFactor := 4
    stallMin := 10000
    stallMax := 120000
    moveDelay := 120000
    retryLimit := 3
    reminderInterval := 60000
    reminderLimit := 10
    ingestFloor := 256
    lowWater := 2048
    highWater := 4096
    minCharge := 0 }

/-- The part right after power-on with the given strap value: every field at the value the spec states
for power-on, the model's own fields empty. -/
def State.powerOn (straps : BitVec 4) : State :=
  { pending := []
    live := .configuring
    straps := straps
    window := .none
    readout := .none
    timeBase := 0
    route := Vector.replicate 32 RouteRow.reset
    group := Vector.replicate 8 GroupRow.reset
    accounts := Vector.replicate 256 Account.reset
    rate := Vector.replicate 4 (Vector.replicate 4 0)
    media := Vector.replicate 16 16
    tier := Vector.replicate 4 ⟨0, 0⟩
    pattern := Vector.replicate 24 PatternRow.reset
    roster := Vector.replicate 16 Roster.reset
    settings := Settings.reset straps
    free := ascending Config.blocks 0
    pool := Config.sheetRecords
    quarantine := []
    spoolLow := false
    dram := []
    stores := []
    held := []
    jobs := []
    jobCtr := 0
    waiting := []
    passesWanted := 0
    lines := Vector.replicate 16 Line.reset
    engine0 := .none
    engine1 := .none
    lastGranted := 15
    meters := Vector.replicate 16 Meter.zero
    alerts := []
    cleared := []
    alertCtr := 0
    shopOut := []
    lineOut := []
    freeCtr := 0 }

/-- The part right after reset: power-on with the straps at 0 (the strap value is a DESIGN CHOICE, log 6). -/
def State.reset : State := State.powerOn 0

end Sys2Proof.Machine
end

