-- ==== Sys2Proof/Machine/Ops.lean ====
section
/-! DEFINITION. The named operations over the state's memory and records: spool bytes, lines, jobs, accounts, meters, timers, list edits and number allocation. -/

namespace Sys2Proof.Machine

/-! ### The spool memory -/

/-- Read one byte of the spool. -/
def Memory.read : Memory → Nat → Byte
  | [], _ => Config.dramFill
  | (b, v) :: m, a => if a = b then v else Memory.read m a

/-- Write one byte of the spool, keeping the canonical form. -/
def Memory.write : Memory → Nat → Byte → Memory
  | [], a, v => if v = Config.dramFill then [] else [(a, v)]
  | (b, w) :: m, a, v =>
    if a < b then (if v = Config.dramFill then (b, w) :: m else (a, v) :: (b, w) :: m)
    else if a = b then (if v = Config.dramFill then m else (a, v) :: m)
    else (b, w) :: Memory.write m a v

/-- The spool address of byte `k` of block `b` (chapter 1, R66). -/
def blockAddress (b : Block) (k : Nat) : Nat := b.val * Config.blockBytes + k

/-- The spool address of sheet byte `k` in a chain: the block at chain position floor(k / 4,096), byte
k mod 4,096 (chapter 1). -/
def chainAddress (chain : List Block) (k : Nat) : Option Nat :=
  (chain[k / Config.blockBytes]?).map fun b => blockAddress b (k % Config.blockBytes)

/-- Write a segment's bytes into the chain of a sheet, from sheet offset `k` (R7). -/
def writeChain (chain : List Block) : Nat → List Byte → Memory → Memory
  | _, [], m => m
  | k, v :: vs, m =>
    match chainAddress chain k with
    | some a => writeChain chain (k + 1) vs (m.write a v)
    | none => writeChain chain (k + 1) vs m

/-! ### List edits -/

/-- Remove later repeats, keeping the first occurrence of each member. -/
def dedup {α : Type} [DecidableEq α] : List α → List α
  | [] => []
  | a :: l => a :: (dedup l).filter (fun b => decide (b ≠ a))

/-- Insert `x` directly after the last member that satisfies `P`, or at the head (R33). -/
def insertAfterLast {α : Type} (P : α → Bool) (x : α) : List α → List α
  | [] => [x]
  | a :: l => if (a :: l).any P then a :: insertAfterLast P x l else x :: a :: l

/-- Remove every occurrence of a number. -/
def without (n : Nat) (l : List Nat) : List Nat := l.filter (fun m => decide (m ≠ n))

/-! ### Binding passes (R29) -/

/-- One more binding pass is requested. -/
def State.wantPass (s : State) : State := { s with passesWanted := s.passesWanted + 1 }

/-! ### Number allocation (R24, R160) -/

/-- The number after `c`: wraps from 65,535 to 1, skipping 0. -/
def nextNumber (c : Nat) : Nat := if 65535 ≤ c then 1 else c + 1

/-- Advance the counter until it names no number in use. The fuel is one more than the numbers in use,
so it does not run out (log 27). -/
def allocate (used : List Nat) : Nat → Nat → Option Nat
  | 0, _ => none
  | n + 1, c =>
    let c' := nextNumber c
    if c' ∈ used then allocate used n c' else some c'

/-! ### Timers (00_scope, section 5) -/

/-- Start a timer: a duration of 0 expires at once (log 17). -/
def timerStart (d : Nat) : Timer := if d = 0 then .stopped else .running d

/-- Is the timer's expiry due? -/
def timerDue (t : Timer) : Bool := decide (t = .running 0)

/-- Is the timer running? -/
def timerRuns : Timer → Bool
  | .running _ => true
  | .stopped => false
  | .suspended _ => false

/-- One millisecond of a timer. -/
def timerTick : Timer → Timer
  | .running (n + 1) => .running n
  | .running 0 => .running 0
  | .stopped => .stopped
  | .suspended n => .suspended n

/-- Suspend a running timer (R110). -/
def timerSuspend : Timer → Timer
  | .running n => .suspended n
  | .stopped => .stopped
  | .suspended n => .suspended n

/-! ### Lines -/

/-- The record of line `p`. -/
def State.line (s : State) (p : LineNo) : Line := s.lines[p]

/-- Change the record of line `p`. -/
def State.modLine (s : State) (p : LineNo) (f : Line → Line) : State :=
  { s with lines := s.lines.set p.val (f (s.line p)) p.isLt }

/-- Change every line's record. -/
def State.mapLines (s : State) (f : LineNo → Line → Line) : State :=
  { s with lines := Vector.ofFn fun p => f p (s.line p) }

/-- The writable ROSTER cells of printer `p`. -/
def State.rosterOf (s : State) (p : LineNo) : Roster := s.roster[p]

/-- All sixteen lines in ascending order. -/
def allLines : List LineNo := [0, 1, 2, 3, 4, 5, 6, 7, 8, 9, 10, 11, 12, 13, 14, 15]

/-! ### Jobs -/

/-- The job record with number `j`, if one is in use. -/
def State.job? (s : State) (j : Nat) : Option Job := s.jobs.find? (fun x => decide (x.number = j))

/-- Change the job record with number `j`. -/
def State.modJob (s : State) (j : Nat) (f : Job → Job) : State :=
  { s with jobs := s.jobs.map fun x => if x.number = j then f x else x }

/-- Free the job record with number `j`. -/
def State.removeJob (s : State) (j : Nat) : State :=
  { s with jobs := s.jobs.filter fun x => decide (x.number ≠ j) }

/-- Put a new job record in its place by number. -/
def insertJob (x : Job) : List Job → List Job
  | [] => [x]
  | y :: l => if x.number < y.number then x :: y :: l else y :: insertJob x l

/-- Complete count of a job: its next index (R4, section 3.1). -/
def completeCount (x : Job) : Nat := (x.sheets.filter fun h => decide (h.state = .complete)).length

/-- The open sheet of a job: the last record of its sheet list if that record is OPEN (R4). -/
def openSheet (x : Job) : Option Sheet :=
  match x.sheets.getLast? with
  | some h => if h.state = .opened then some h else none
  | none => none

/-- The sheet record of index `i` in a job. -/
def sheetOf (x : Job) (i : Nat) : Option Sheet := x.sheets.find? (fun h => decide (h.index = i))

/-- Change the sheet record of index `i` in a sheet list. -/
def changeSheet (i : Nat) (f : Sheet → Sheet) : List Sheet → List Sheet
  | [] => []
  | h :: hs => if h.index = i then f h :: hs else h :: changeSheet i f hs

/-- Change the sheet record of index `i` in a job. -/
def modSheet (i : Nat) (f : Sheet → Sheet) (x : Job) : Job := { x with sheets := changeSheet i f x.sheets }

/-- Is the job in run state FAILED or CANCELLED? -/
def jobKilled (x : Job) : Bool := decide (x.run = .failed) || decide (x.run = .cancelled)

/-- Is the job in a live state (section 2.1)? -/
def jobLive (x : Job) : Bool :=
  !(decide (x.run = .done) || decide (x.run = .failed) || decide (x.run = .cancelled))

/-- Does a cursor stand at the end of the job (00_scope section 5, section 3.1)? -/
def atEnd (x : Job) (c : Cursor) : Bool := decide (x.copies ≤ c.copy)

/-- Advance a cursor (R43). -/
def advance (x : Job) (c : Cursor) : Cursor :=
  if x.ingest = .closed ∧ c.sheet + 1 = completeCount x then { copy := c.copy + 1, sheet := 0 }
  else { c with sheet := c.sheet + 1 }

/-- Does the cursor name a complete sheet (R43)? If so, that sheet. -/
def namedSheet (x : Job) (c : Cursor) : Option Sheet :=
  if c.copy < x.copies ∧ c.sheet < completeCount x then sheetOf x c.sheet else none

/-- Is a sheet data store of job `j` under way (R11)? -/
def State.storing (s : State) (j : Nat) : Bool := s.stores.any fun t => decide (t.job = j)

/-! ### In-flight entries -/

/-- The entries of job `j` on line `p`. -/
def State.entriesOn (s : State) (p : LineNo) (j : Nat) : List Entry :=
  (s.line p).inflight.filter fun e => decide (e.job = j)

/-- The line whose in-flight list holds entries of job `j`, if any (R44). -/
def State.entryLine (s : State) (j : Nat) : Option LineNo :=
  allLines.find? fun p => !(s.entriesOn p j).isEmpty

/-- Has job `j` in-flight entries (R44)? -/
def State.hasEntries (s : State) (j : Nat) : Bool := (s.entryLine j).isSome

/-- The received length of an entry's sheet (R50). -/
def State.entryLength (s : State) (e : Entry) : Nat :=
  match s.job? e.job with
  | some x => match sheetOf x e.sheet with
    | some h => h.received
    | none => 0
  | none => 0

/-- The entry in transmission on line `p`: the newest whose bytes moved is below its sheet's length (R50). -/
def State.inTransmission (s : State) (p : LineNo) : Option Entry :=
  (s.line p).inflight.reverse.find? fun e => decide (e.moved < s.entryLength e)

/-- The sheet reference of an entry. -/
def entryRef (e : Entry) : SheetRef := { job := e.job, sheet := e.sheet, copy := e.copy }

/-! ### Accounts and meters -/

/-- The record of account `a`. -/
def State.account (s : State) (a : AccountNo) : Account := s.accounts[a]

/-- Change the record of account `a`. -/
def State.modAccount (s : State) (a : AccountNo) (f : Account → Account) : State :=
  { s with accounts := s.accounts.set a.val (f (s.account a)) a.isLt }

/-- Change the meter record of printer `p`. -/
def State.modMeter (s : State) (p : LineNo) (f : Meter → Meter) : State :=
  { s with meters := s.meters.set p.val (f s.meters[p]) p.isLt }

/-! ### Purposes and conditions -/

/-- Is a flush pending (R80)? -/
def flushPending (q : Purposes) : Bool := q.block || q.cancel || q.fail || q.fault || q.move || q.retire

/-- Add a purpose to the set (R92). -/
def addPurpose (u : Purpose) (q : Purposes) : Purposes :=
  match u with
  | .block => { q with block := true }
  | .cancel => { q with cancel := true }
  | .fail => { q with fail := true }
  | .fault => { q with fault := true }
  | .move => { q with move := true }
  | .retire => { q with retire := true }

/-- Is a condition in the set (R140)? -/
def hasCondition (c : Conditions) : Condition → Bool
  | .jam => c.jam
  | .doorOpen => c.doorOpen
  | .mediaOut => c.mediaOut
  | .supplyLow => c.supplyLow

/-- Put a condition into the set or take it out (R142). -/
def setCondition (c : Conditions) (k : Condition) (b : Bool) : Conditions :=
  match k with
  | .jam => { c with jam := b }
  | .doorOpen => { c with doorOpen := b }
  | .mediaOut => { c with mediaOut := b }
  | .supplyLow => { c with supplyLow := b }

/-- Is a blocking condition present (R140)? -/
def blockingPresent (c : Conditions) : Bool := c.jam || c.doorOpen || c.mediaOut

/-- The alert kind of a condition (chapter 8). -/
def conditionAlert : Condition → AlertKind
  | .jam => .jam
  | .doorOpen => .doorOpen
  | .mediaOut => .mediaOut
  | .supplyLow => .supplyLow

end Sys2Proof.Machine
end

