-- ==== Sys2Proof/Machine/Flags.lean ====
section
/-! DEFINITION. The figures the part computes from its records: cost, ceiling and available amount, pace and deadlines, FIFO fill, requests, backlog and finish estimate, eligibility and printer choice. -/

namespace Sys2Proof.Machine

/-! ### Cost of a sheet-copy (R120 to R123) -/

/-- Stage 1: the side sum S (R121). -/
def sideSum (rates : Vector Nat 4) (h : Sheet) : Nat :=
  if h.sides = 2 then rates[h.front] + rates[h.back] else rates[h.front]

/-- Stage 2: the media adjustment A (R121). -/
def mediaAdjust (sum multiplier : Nat) : Nat := (sum * multiplier + 8) / 16

/-- The TIER row that applies at basis `basis`: of the used rows whose threshold is at most the basis,
the one of largest threshold, the lowest row among equals (R122). -/
def tierRow (basis : Nat) (rows : List TierRow) : Option TierRow :=
  rows.foldl (fun best r =>
    if r.threshold ≠ 0 ∧ r.threshold ≤ basis then
      match best with
      | none => some r
      | some b => if b.threshold < r.threshold then some r else some b
    else best) none

/-- The tier discount in percent (R122). -/
def tierDiscount (enabled : Bool) (basis : Nat) (rows : List TierRow) : Nat :=
  if enabled then
    match tierRow basis rows with
    | some r => r.discount
    | none => 0
  else 0

/-- Stage 3: the discounted cost D (R122). -/
def discounted (a d : Nat) : Nat := a - a * d / 100

/-- Stages 1 to 4: the cost of a sheet (R121 to R123). -/
def costOf (rates : Vector Nat 4) (multiplier : Nat) (enabled : Bool) (basis : Nat) (rows : List TierRow)
    (minCharge : Nat) (h : Sheet) : Nat :=
  max (discounted (mediaAdjust (sideSum rates h) multiplier) (tierDiscount enabled basis rows)) minCharge

/-- The MEDIA multiplier of a media code (R118). -/
def State.multiplier (s : State) (code : Nat) : Nat := (s.media[code]?).getD 16

/-- The cost of a sheet for an account on printer `p`, with the inputs as they stand (R120). -/
def State.sheetCost (s : State) (p : LineNo) (a : AccountNo) (h : Sheet) : Nat :=
  let acc := s.account a
  costOf s.rate[(s.rosterOf p).rateSet] (s.multiplier h.media) acc.tier
    (acc.chargedSides + acc.reservedSides) s.tier.toList s.settings.minCharge h

/-- The ceiling of an account (R116). -/
def ceiling (a : Account) : Nat := if a.limited then a.limit else max48

/-- The available amount of an account (R116). -/
def available (a : Account) : Nat := ceiling a - (a.chargedCost + a.reservedCost)

/-! ### Pace and stall (chapter 6) -/

/-- The sample between two time base values, modulo 2^32 and clamped (R105). -/
def paceSample (now last : BitVec 32) : Nat := clamp 100 60000 (now - last).toNat

/-- The pace after a sample (R106): the difference divided by 8, truncated toward zero. -/
def smoothPace (pace sample : Nat) : Nat := ((pace : Int) + Int.tdiv ((sample : Int) - (pace : Int)) 8).toNat

/-- The stall deadline of a pace (R109). -/
def stallDeadline (t : Settings) (pace : Nat) : Nat := clamp t.stallMin t.stallMax (pace * t.stallFactor)

/-- The pace of a HELLO's nominal pace field (R103). -/
def helloPace (nominal rosterPace : Nat) : Nat := if nominal = 0 then rosterPace else clamp 100 60000 nominal

/-! ### The line FIFO and requests (chapter 4) -/

/-- The sheet data bytes a FIFO frame counts in the fill (R64). -/
def frameFill : SheetFrame → Nat
  | .start .. => 0
  | .data _ bytes => bytes.length

/-- The fill of a line FIFO (R64). -/
def fifoFill (fifo : List SheetFrame) : Nat := (fifo.map frameFill).sum

/-- Does line `p` request an engine (R69)? -/
def State.requests (s : State) (p : LineNo) : Bool :=
  let l := s.line p
  (decide (l.state = .ready) || decide (l.state = .retiring)) && !flushPending l.flush &&
  (s.inTransmission p).isSome && l.burst.isNone &&
  decide (fifoFill l.fifo ≤ (s.rosterOf p).threshold) && decide (1 ≤ l.credits)

/-- The lines in the order of the arbiter's walk: from the line after the last-granted (R70). -/
def walkFrom (last : LineNo) : List LineNo :=
  (List.range 16).map fun k => Fin.ofNat 16 (last.val + 1 + k)

/-- The line the arbiter grants next, if one requests (R70). -/
def State.grantLine (s : State) : Option LineNo := (walkFrom s.lastGranted).find? s.requests

/-- A free feed engine (R70: which of two free engines takes a grant cannot be seen). -/
def State.freeEngine (s : State) : Option (Fin 2) :=
  if s.engine0.isNone then some 0 else if s.engine1.isNone then some 1 else none

/-! ### Sheet start conditions (R51) -/

/-- The job and sheet of the sheet start that line `p` may make now, if every condition of R51 holds. -/
def State.startable (s : State) (p : LineNo) : Option (Job × Sheet) :=
  let l := s.line p
  if l.state = .ready ∧ flushPending l.flush = false ∧ (s.inTransmission p).isNone = true ∧
      l.inflight.length < (s.rosterOf p).maxInFlight then
    match l.feeding with
    | none => none
    | some j => match s.job? j with
      | none => none
      | some x => (namedSheet x x.dispatch).map fun h => (x, h)
  else none

/-! ### Backlog and finish estimate (R107, R108) -/

/-- The term of one job in a backlog (R107). -/
def backlogTerm (x : Job) : Nat := x.copies * completeCount x - x.binding

/-- The backlog of printer `p` (R107). -/
def State.backlog (s : State) (p : LineNo) : Nat :=
  ((s.line p).queue.map fun j => match s.job? j with
    | some x => backlogTerm x
    | none => 0).sum

/-- The time left on a timer. -/
def timeLeft : Timer → Nat
  | .running n => n
  | .stopped => 0
  | .suspended n => n

/-- The warm time of printer `p` (R108). -/
def State.warmTime (s : State) (p : LineNo) : Nat :=
  match (s.line p).state with
  | .standby => (s.rosterOf p).settle
  | .waking => timeLeft (s.line p).settle
  | .ready => 0
  | .down => 0
  | .blocked => 0
  | .retiring => 0
  | .retired => 0

/-- The finish estimate of printer `p`; product and sum saturate (R108). -/
def State.estimate (s : State) (p : LineNo) : Nat :=
  saturate max32 (saturate max32 (s.backlog p * (s.line p).pace) + s.warmTime p)

/-! ### Eligibility and the choice of a printer (R27, R28, R30, R31) -/

/-- The members of a group, in order (R27). -/
def groupMembers (g : GroupRow) : List LineNo := g.members.toList.take g.count

/-- Is printer `p`, a member of the job's group, eligible for the job (R28)? -/
def State.eligible (s : State) (x : Job) (p : LineNo) : Bool :=
  let l := s.line p
  (decide (l.state = .ready) || decide (l.state = .waking) || decide (l.state = .standby)) &&
  decide (x.mediaSet &&& ~~~(s.rosterOf p).mediaMask = 0#16) && decide (x.excluded ≠ some p)

/-- SPREAD: the first eligible member on the walk from index (job number >> shift) mod n (R30). -/
def State.chooseSpread (s : State) (x : Job) (members : List LineNo) : Option LineNo :=
  let start := (x.number / 2 ^ x.spreadShift) % members.length
  (members.drop start ++ members.take start).find? (s.eligible x)

/-- EARLIEST: the eligible member of least finish estimate, the first among equals (R31). -/
def State.chooseEarliest (s : State) (x : Job) (members : List LineNo) : Option LineNo :=
  (members.filter (s.eligible x)).foldl (fun best p =>
    match best with
    | none => some p
    | some b => if s.estimate p < s.estimate b then some p else some b) none

/-- The printer a binding pass chooses for a job, if one is eligible (R29). -/
def State.choosePrinter (s : State) (x : Job) : Option LineNo :=
  let members := groupMembers s.group[x.group]
  match x.policy with
  | .spread => s.chooseSpread x members
  | .earliest => s.chooseEarliest x members

/-! ### Route match (R23) and pattern match (R141) -/

/-- Does a ROUTE row match a job of this class, kind and priority (R23)? -/
def routeMatches (cls kind priority : Nat) (r : RouteRow) : Bool :=
  r.valid && (match r.cls with | none => true | some c => decide (c = cls)) &&
  (match r.kind with | none => true | some k => decide (k = kind)) && decide (r.minPriority ≤ priority)

/-- Does a PATTERN row match a report of printer `p` (R141)? -/
def patternMatches (p : LineNo) (report : List Byte) (r : PatternRow) : Bool :=
  r.valid && r.scope.getLsbD p.val && decide (r.length ≤ report.length) &&
  decide (report.take r.length = r.bytes.toList.take r.length)

/-- The jam tag a report gives under a row's tag position (R144). -/
def namedTag (r : PatternRow) (report : List Byte) : Option Byte :=
  match r.tagPos with
  | none => none
  | some t => report[t]?

end Sys2Proof.Machine
end

