-- ==== Sys2Proof/Machine/Alerts.lean ====
section
/-! DEFINITION. The alert relay (chapter 9): opening, clearing and removing alerts, and the frames it sends. -/

namespace Sys2Proof.Machine

/-- No detail (R169). -/
def Detail.none : Detail := { text := .none, ref := .none, available := .none, free := .none }

/-- Is the kind a condition alert (R159)? -/
def isCondition : AlertKind → Bool
  | .jam => true
  | .doorOpen => true
  | .mediaOut => true
  | .supplyLow => true
  | .stall => true
  | .lineDown => true
  | .quotaHold => true
  | .spoolLow => true
  | .noWake => false
  | .jobFailed => false
  | .dataError => false
  | .protocolFault => false

/-- Send a frame on the shop port. -/
def State.send (s : State) (o : ShopOut) : State := { s with shopOut := s.shopOut ++ [o] }

/-- The destination of ALERT frames: the console address, broadcast when it is all zero (R168). -/
def alertDestination (port : PortSettings) : Station :=
  if port.console = 0#48 then Config.broadcast else port.console

/-- The ALERT frame of a transition of a record (R168). -/
def recordFrame (port : PortSettings) (tr : Transition) (r : AlertRec) : AlertFrame :=
  { src := port.station
    dst := alertDestination port
    etherType := port.frameType
    transition := tr
    sense := .none
    number := r.number
    kind := r.kind
    subject := r.subject
    state := r.state
    present := r.present
    repeats := r.repeats
    reminders := r.reminders
    raisedTime := r.raisedTime
    detail := r.detail }

/-- The UNTRACKED frame of an opening or a clear (R161, R164, R168). -/
def untrackedFrame (port : PortSettings) (now : BitVec 32) (sense : UntrackedSense) (k : AlertKind)
    (subj : Subject) (d : Detail) : AlertFrame :=
  { src := port.station
    dst := alertDestination port
    etherType := port.frameType
    transition := .untracked
    sense := some sense
    number := 0
    kind := k
    subject := subj
    state := if sense = .raise then .raised else .cleared
    present := decide (sense = .raise)
    repeats := 0
    reminders := 0
    raisedTime := now
    detail := d }

/-- The record of a kind and subject, if held (R159). -/
def State.alertOf (s : State) (k : AlertKind) (subj : Subject) : Option AlertRec :=
  s.alerts.find? fun r => decide (r.kind = k) && decide (r.subject = subj)

/-- The record with an alert number, if held. -/
def State.alertNumbered (s : State) (n : Nat) : Option AlertRec :=
  s.alerts.find? fun r => decide (r.number = n)

/-- Change the record with an alert number. -/
def State.modAlert (s : State) (n : Nat) (f : AlertRec → AlertRec) : State :=
  { s with alerts := s.alerts.map fun r => if r.number = n then f r else r }

/-- Remove a record: it leaves the table and the cleared list, and its timer goes with it (R158). -/
def State.removeAlert (s : State) (n : Nat) : State :=
  { s with
    alerts := s.alerts.filter fun r => decide (r.number ≠ n)
    cleared := without n s.cleared }

/-- The place for a new record: a free one, or the place of the evicted head of the cleared list (R161). -/
def State.alertPlace (s : State) : Option State :=
  if s.alerts.length < Config.alertRecords then some s
  else match s.cleared with
    | [] => none
    | n :: _ => some (s.removeAlert n)

/-- A new record (R161). -/
def newAlert (s : State) (n : Nat) (k : AlertKind) (subj : Subject) (d : Detail) : AlertRec :=
  { number := n
    kind := k
    subject := subj
    state := if isCondition k then .raised else .cleared
    present := isCondition k
    repeats := 0
    reminders := 0
    raisedTime := s.timeBase
    detail := d
    timer := timerStart s.settings.reminderInterval }

/-- Make a new record in a state that has a place for it, and send its RAISE or EVENT frame (R160, R161). -/
def State.makeAlert (s : State) (n : Nat) (k : AlertKind) (subj : Subject) (d : Detail) : State :=
  let r := newAlert s n k subj d
  { s with
    alerts := s.alerts ++ [r]
    cleared := if isCondition k then s.cleared else s.cleared ++ [n]
    alertCtr := n
    shopOut := s.shopOut ++
      [.alert (recordFrame s.settings.port (if isCondition k then .raise else .event) r)] }

/-- An opening that makes no record goes out untracked (R161). -/
def State.untrackedOpen (s : State) (k : AlertKind) (subj : Subject) (d : Detail) : State :=
  s.send (.alert (untrackedFrame s.settings.port s.timeBase
    (if isCondition k then .raise else .event) k subj d))

/-- The record after a re-raise or a repeated occurrence (R162 third row, R163). -/
def reopened (s : State) (d : Detail) (r : AlertRec) : AlertRec :=
  { r with
    state := if isCondition r.kind then .raised else .cleared
    present := isCondition r.kind
    repeats := saturate 255 (r.repeats + 1)
    reminders := 0
    raisedTime := s.timeBase
    detail := d
    timer := timerStart s.settings.reminderInterval }

/-- Open an alert of kind `k` and subject `subj` (R161 to R163). -/
def State.openAlert (s : State) (k : AlertKind) (subj : Subject) (d : Detail) : State :=
  match s.alertOf k subj with
  | some r =>
    if r.state = .cleared then
      let r' := reopened s d r
      let s1 := s.modAlert r.number (reopened s d)
      let s2 := { s1 with
        cleared := if isCondition k then without r.number s.cleared
                   else without r.number s.cleared ++ [r.number] }
      s2.send (.alert (recordFrame s.settings.port (if isCondition k then .raise else .event) r'))
    else s.modAlert r.number fun x => { x with detail := d }
  | none =>
    match s.alertPlace with
    | none => s.untrackedOpen k subj d
    | some s1 =>
      match allocate (s1.alerts.map (·.number)) (Config.alertRecords + 1) s1.alertCtr with
      | some n => s1.makeAlert n k subj d
      | none => s1.untrackedOpen k subj d

/-- The record after the clear of a RAISED one (R164). -/
def clearedRecord (s : State) (r : AlertRec) : AlertRec :=
  { r with
    state := .cleared
    present := false
    reminders := 0
    timer := timerStart s.settings.reminderInterval }

/-- Clear a condition alert of kind `k` and subject `subj` (R164). -/
def State.clearAlert (s : State) (k : AlertKind) (subj : Subject) : State :=
  match s.alertOf k subj with
  | some r =>
    match r.state with
    | .raised =>
      let s1 := s.modAlert r.number (clearedRecord s)
      let s2 := { s1 with cleared := without r.number s.cleared ++ [r.number] }
      s2.send (.alert (recordFrame s.settings.port .clear (clearedRecord s r)))
    | .acked =>
      (s.removeAlert r.number).send (.alert (recordFrame s.settings.port .clear
        { r with state := .cleared }))
    | .cleared => s
  | none => s.send (.alert (untrackedFrame s.settings.port s.timeBase .clear k subj Detail.none))

/-- The record after a reminder expiry (R166). -/
def remindedRecord (s : State) (r : AlertRec) : AlertRec :=
  let sent := saturate 255 (r.reminders + 1)
  { r with
    reminders := sent
    timer := if s.settings.reminderLimit = 0 ∨ sent < s.settings.reminderLimit then
        timerStart s.settings.reminderInterval
      else .stopped }

/-- A reminder expiry of record `n` (R166): taken when its timer's duration has passed. -/
def State.remind (s : State) (n : Nat) : State :=
  match s.alertNumbered n with
  | some r =>
    if timerDue r.timer then
      (s.modAlert n (remindedRecord s)).send
        (.alert (recordFrame s.settings.port .reminder (remindedRecord s r)))
    else s
  | none => s

end Sys2Proof.Machine
end

