-- ==== Sys2Proof/Machine/Spool.lean ====
section
/-! DEFINITION. The spool store (chapter 1): the free block list, the low marks, quarantine, discard and release of sheets and of a job's storage. -/

namespace Sys2Proof.Machine

/-- Evaluate the spool low flag (R19). -/
def State.evalSpoolLow (s : State) : State :=
  if s.spoolLow = false ∧ s.free.length < s.settings.lowWater then
    ({ s with spoolLow := true }).openAlert .spoolLow .part
      { Detail.none with free := some s.free.length }
  else if s.spoolLow = true ∧ s.settings.highWater ≤ s.free.length then
    ({ s with spoolLow := false }).clearAlert .spoolLow .part
  else s

/-- Return blocks to the tail of the free list in the order given (R2); a change of the free block count
is seen by the low marks (R1). -/
def State.returnBlocks (s : State) (bs : List Block) : State :=
  match bs with
  | [] => s
  | _ :: _ => ({ s with free := s.free ++ bs }).evalSpoolLow

/-- Discard the open sheet of job `j` (R15). -/
def State.discardOpen (s : State) (j : Nat) : State :=
  match s.job? j with
  | some x => match openSheet x with
    | some h =>
      (({ s with pool := s.pool + 1 }).modJob j fun y =>
        { y with sheets := y.sheets.dropLast }).returnBlocks h.chain
    | none => s
  | none => s

/-- Discard the open sheet of a job that has become CANCELLED or FAILED, or leave it to the end of the
store under way (R11, R17). -/
def State.discardOpenUnlessStoring (s : State) (j : Nat) : State :=
  if s.storing j then s else s.discardOpen j

/-- The sheets of a job that a release takes: all, but for the open sheet of a store under way (R11, R17). -/
def releasedSheets (storing : Bool) (x : Job) : List Sheet :=
  if storing then x.sheets.filter fun h => decide (h.state = .complete) else x.sheets

/-- The sheets a release leaves: the open sheet of a store under way. -/
def keptSheets (storing : Bool) (x : Job) : List Sheet :=
  if storing then x.sheets.filter fun h => decide (h.state ≠ .complete) else []

/-- Release the storage of job `j`: sheets in index order, blocks in chain order, records to the pool (R17). -/
def State.releaseStorage (s : State) (j : Nat) : State :=
  match s.job? j with
  | some x =>
    let gone := releasedSheets (s.storing j) x
    (({ s with pool := s.pool + gone.length }).modJob j fun y =>
      { y with sheets := keptSheets (s.storing j) y }).returnBlocks (gone.flatMap fun (h : Sheet) => h.chain)
  | none => s

/-- Release the storage of a CANCELLED or FAILED job once it has no in-flight entry (R17). -/
def State.releaseIfKilled (s : State) (j : Nat) : State :=
  match s.job? j with
  | some x => if jobKilled x && !s.hasEntries j then s.releaseStorage j else s
  | none => s

/-- Purge a job: its storage is released and its record freed (R41, R55). A store of the job, of which
there is none when a purge is taken (R41), goes with the record. -/
def State.purge (s : State) (j : Nat) : State :=
  (({ s with stores := s.stores.filter fun t => decide (t.job ≠ j) }).releaseStorage j).removeJob j

/-- Free the blocks of sheet `i` of job `j`; the record stays (R16). -/
def State.freeSheetBlocks (s : State) (j i : Nat) : State :=
  match s.job? j with
  | some x => match sheetOf x i with
    | some h => (s.modJob j (modSheet i fun y => { y with chain := [] })).returnBlocks h.chain
    | none => s
  | none => s

/-- Put a block into the quarantine list, evicting the oldest when it holds 64 (R5). -/
def State.quarantineBlock (s : State) (b : Block) : State :=
  if s.quarantine.length < Config.quarantineSize then
    { s with quarantine := s.quarantine ++ [b] }
  else match s.quarantine with
    | [] => { s with quarantine := [b] }
    | o :: rest => ({ s with quarantine := rest ++ [b] }).returnBlocks [o]

end Sys2Proof.Machine
end

