-- ==== Sys2Proof/Machine/Jobs.lean ====
section
/-! DEFINITION. The job table (chapters 2 and 3): waiting list, quota-held lists, job queues, the feeding choice, unbinding, completion and the end of LEAVING. -/

namespace Sys2Proof.Machine

/-! ### The waiting list (R26) -/

/-- The priority of a job number; 0 when no record is in use. -/
def State.priorityOf (s : State) (j : Nat) : Nat :=
  match s.job? j with
  | some x => x.priority
  | none => 0

/-- Insert a job of priority `q` after every entry of priority at least `q` (R26). -/
def insertWaiting (prio : Nat → Nat) (j q : Nat) : List Nat → List Nat
  | [] => [j]
  | k :: l => if q ≤ prio k then k :: insertWaiting prio j q l else j :: k :: l

/-- The split rule at an entry into the waiting list (R34). -/
def splitRule (x : Job) : Job :=
  if x.binding = 0 then x else { x with split := saturate 255 (x.split + 1), binding := 0 }

/-- A job becomes WAITING and enters the waiting list (R26, R34); the entry asks for a binding pass (R29). -/
def State.enterWaiting (s : State) (j : Nat) : State :=
  let s1 := s.modJob j fun x =>
    splitRule { x with run := .waiting, leaveTarget := none, holdReason := none }
  { s1 with
    waiting := insertWaiting s1.priorityOf j (s1.priorityOf j) s1.waiting
    passesWanted := s1.passesWanted + 1 }

/-- A job leaves the waiting list, if it is there. -/
def State.leaveWaiting (s : State) (j : Nat) : State := { s with waiting := without j s.waiting }

/-! ### Quota-held lists (R115, R132) -/

/-- A job joins its account's quota-held list at the tail (R131). -/
def State.joinQuota (s : State) (a : AccountNo) (j : Nat) : State :=
  s.modAccount a fun x => { x with quotaHeld := without j x.quotaHeld ++ [j] }

/-- A job leaves its account's quota-held list, if it is there; QUOTA HOLD clears when the departure
leaves the list empty (R132). -/
def State.leaveQuota (s : State) (a : AccountNo) (j : Nat) : State :=
  if j ∈ (s.account a).quotaHeld then
    let s1 := s.modAccount a fun x => { x with quotaHeld := without j x.quotaHeld }
    if (s1.account a).quotaHeld = [] then s1.clearAlert .quotaHold (.account a) else s1
  else s

/-! ### Job queues and the feeding job (R33, R46) -/

/-- Is the job with number `j` in one of the given run states? -/
def State.runIs (s : State) (j : Nat) (P : RunState → Bool) : Bool :=
  match s.job? j with
  | some x => P x.run
  | none => false

/-- QUEUED or FEEDING (R46). -/
def isFeedable : RunState → Bool
  | .queued => true
  | .feeding => true
  | .new => false
  | .waiting => false
  | .draining => false
  | .leaving => false
  | .held => false
  | .done => false
  | .failed => false
  | .cancelled => false

/-- The queue entries behind which a new job of priority `q` goes: a job in FEEDING, DRAINING or
LEAVING, or a QUEUED job of priority `q` or more (R33). -/
def State.goesBehind (s : State) (q k : Nat) : Bool :=
  match s.job? k with
  | some x =>
    decide (x.run = .feeding) || decide (x.run = .draining) || decide (x.run = .leaving) ||
    (decide (x.run = .queued) && decide (q ≤ x.priority))
  | none => false

/-- The feeding job of line `p` by R46: the first job of the queue in QUEUED or FEEDING. -/
def State.feedingChoice (s : State) (p : LineNo) : Option Nat :=
  (s.line p).queue.find? fun j => s.runIs j isFeedable

/-- A job's run state after the feeding choice of its queue (R46). -/
def afterChoice (queue : List Nat) (c : Option Nat) (x : Job) : Job :=
  if c = some x.number then { x with run := .feeding }
  else if x.number ∈ queue ∧ x.run = .feeding then { x with run := .queued }
  else x

/-- Choose the feeding job of line `p` again (R46). -/
def State.rechoose (s : State) (p : LineNo) : State :=
  let c := s.feedingChoice p
  let s1 := { s with jobs := s.jobs.map (afterChoice (s.line p).queue c) }
  s1.modLine p fun l => { l with feeding := c }

/-- A job leaves the queue of line `p`, and the feeding job is chosen again (R33, R46). -/
def State.leaveQueue (s : State) (p : LineNo) (j : Nat) : State :=
  (s.modLine p fun l => { l with queue := without j l.queue }).rechoose p

/-- A job leaves the queue it is bound to, if any, and its bound printer is removed (R33). -/
def State.unqueue (s : State) (j : Nat) : State :=
  match s.job? j with
  | some x => match x.bound with
    | some p => (s.modJob j fun y => { y with bound := none }).leaveQueue p j
    | none => s
  | none => s

/-! ### Unbinding (R34) -/

/-- Unbind job `j` from printer `p`: out of the queue, and to WAITING, WAITING with `p` excluded, or HELD. -/
def State.unbind (s : State) (p : LineNo) (j : Nat) : State :=
  match s.job? j with
  | none => s
  | some x =>
    let s1 := s.modLine p fun l => { l with queue := without j l.queue }
    let s2 := s1.modJob j fun y => { y with bound := none }
    if x.run = .leaving ∧ x.leaveTarget = some .held then
      s2.modJob j fun y => { y with run := .held, leaveTarget := none }
    else if x.run = .leaving ∧ x.leaveTarget = some .waitingExclude then
      (s2.modJob j fun y => { y with excluded := some p }).enterWaiting j
    else s2.enterWaiting j

/-- Unbind every job of the queue of line `p`, in queue order; the feeding pointer then names none (R34, R61). -/
def State.unbindAll (s : State) (p : LineNo) : State :=
  ((s.line p).queue.foldl (fun s' j => s'.unbind p j) s).rechoose p

/-! ### Completion and the end of LEAVING (R55, R48) -/

/-- A job completes (R55): DONE, out of every list, and purged at once when not retained. -/
def State.complete (s : State) (j : Nat) : State :=
  match s.job? j with
  | none => s
  | some x =>
    let s1 := ((s.unqueue j).leaveWaiting j).modJob j fun y =>
      { y with run := .done, leaveTarget := none, holdReason := none, excluded := none, binding := 0 }
    let s2 := s1.leaveQuota x.account j
    if x.retain then s2 else s2.purge j

/-- A LEAVING job with no in-flight entries leaves LEAVING (R48). -/
def State.endLeaving (s : State) (j : Nat) : State :=
  match s.job? j with
  | none => s
  | some x =>
    if x.run = .leaving && !s.hasEntries j then
      if atEnd x x.confirm then s.complete j
      else match x.bound with
        | some p => (s.unbind p j).rechoose p
        | none => s
    else s

/-- A job becomes LEAVING with the given target and hold reason (R36, R38, R52, R153): dispatch stops,
its printer passes feeding on, and a job without entries leaves at once (R48). -/
def State.startLeaving (s : State) (j : Nat) (t : LeaveTarget) (r : Option HoldReason) : State :=
  match s.job? j with
  | none => s
  | some x =>
    let s1 := s.modJob j fun y => { y with run := .leaving, leaveTarget := some t, holdReason := r }
    let s2 := match x.bound with
      | some p => s1.rechoose p
      | none => s1
    s2.endLeaving j

/-- What a cancel and a failure share (R40, R18, R151): the ended run state; leave target, hold reason,
excluded printer and bound printer removed; out of the waiting list, the queue and the quota-held list; the
open sheet discarded. -/
def State.kill (s : State) (j : Nat) (run : RunState) : State :=
  match s.job? j with
  | none => s
  | some x =>
    let s1 := s.modJob j fun y =>
      { y with run := run, leaveTarget := none, holdReason := none, excluded := none }
    let s2 := ((s1.leaveWaiting j).unqueue j).leaveQuota x.account j
    s2.discardOpenUnlessStoring j

end Sys2Proof.Machine
end

