-- ==== Sys2Proof/Machine/Meters.lean ====
section
/-! DEFINITION. The meter unit (chapter 7): reservation, conversion, return, the limit clamp, closes and the quota retry. -/

namespace Sys2Proof.Machine

/-- Does a reservation of `cost` fit under the account's ceiling (R124)? -/
def fits (a : Account) (cost : Nat) : Bool := decide (a.chargedCost + a.reservedCost + cost ≤ ceiling a)

/-- Make a reservation (R124). -/
def reserve (cost sides : Nat) (a : Account) : Account :=
  { a with reservedCost := a.reservedCost + cost, reservedSides := a.reservedSides + sides }

/-- Return a reservation (R127). -/
def unreserve (cost sides : Nat) (a : Account) : Account :=
  { a with reservedCost := a.reservedCost - cost, reservedSides := a.reservedSides - sides }

/-- Convert a reservation into a charge (R126 steps 1 and 2). -/
def convert (cost sides : Nat) (a : Account) : Account :=
  { a with
    reservedCost := a.reservedCost - cost
    reservedSides := a.reservedSides - sides
    chargedCost := saturate max48 (a.chargedCost + cost)
    chargedSides := saturate max48 (a.chargedSides + sides) }

/-- Count one side of a class (R136). -/
def countSide (c : Fin 4) (m : Meter) : Meter :=
  { m with sides := m.sides.set c.val (saturate max48 (m.sides[c] + 1)) c.isLt }

/-- Count a confirmed sheet-copy in a printer's meters, by the classes of its sheet (R136). -/
def countSheet (sides : Nat) (h : Sheet) (m : Meter) : Meter :=
  let m1 := countSide h.front m
  let m2 := if sides = 2 then countSide h.back m1 else m1
  { m2 with sheets := saturate max48 (m2.sheets + 1) }

/-- Count an entry into BLOCKED (R136). -/
def countBlock (m : Meter) : Meter := { m with blocks := saturate max48 (m.blocks + 1) }

/-- Return the reservation of an entry that leaves without confirmation (R127). -/
def State.returnEntry (s : State) (e : Entry) : State :=
  match s.job? e.job with
  | some x => s.modAccount x.account (unreserve e.cost e.sides)
  | none => s

/-- Convert the reservation of a confirmed entry on printer `p` (R126). -/
def State.convertEntry (s : State) (p : LineNo) (e : Entry) : State :=
  match s.job? e.job with
  | some x =>
    let s1 := s.modAccount x.account (convert e.cost e.sides)
    let s2 := s1.modJob e.job fun y =>
      { y with
        chargedCost := saturate max48 (y.chargedCost + e.cost)
        confirmedCopies := y.confirmedCopies + 1
        confirmedSides := y.confirmedSides + e.sides }
    match sheetOf x e.sheet with
    | some h => s2.modMeter p (countSheet e.sides h)
    | none => s2
  | none => s

/-- The limit clamp (R128). -/
def limitClamp (a : Account) : Account :=
  if a.limited = true ∧ a.limit < a.chargedCost + a.reservedCost then
    { a with limit := a.chargedCost + a.reservedCost }
  else a

/-- The limit after an ADJUST LIMIT, before the clamp: saturating at 0 and at 2^48 - 1 (R129). -/
def adjustedLimit (a : Account) (delta : Int) : Nat := saturate max48 ((a.limit : Int) + delta).toNat

/-- Close an account's period (R130). -/
def closeAccount (a : Account) : Account :=
  { a with chargedCost := 0, chargedSides := 0, period := a.period + 1 }

/-- Close every account (R130, R175). -/
def State.closeAll (s : State) : State :=
  { s with accounts := Vector.ofFn fun a => closeAccount (s.account a) }

/-- One job of a quota retry (R134). -/
def State.retryJob (s : State) (j : Nat) : State :=
  match s.job? j with
  | some x =>
    if x.run = .held then s.enterWaiting j
    else if x.run = .leaving then
      s.modJob j fun y => { y with leaveTarget := some .waiting, holdReason := none }
    else s
  | none => s

/-- The quota retry of account `a` (R134); with an empty list it does nothing (R133). -/
def State.quotaRetry (s : State) (a : AccountNo) : State :=
  match (s.account a).quotaHeld with
  | [] => s
  | held =>
    let s1 := held.foldl State.retryJob s
    (s1.modAccount a fun x => { x with quotaHeld := [] }).clearAlert .quotaHold (.account a)

/-- The accounts whose available amount is higher in the second list than in the first, ascending from
number `n` (R133). -/
def risenAccounts : List Account → List Account → Nat → List AccountNo
  | a :: as, b :: bs, n =>
    if available a < available b then Fin.ofNat 256 n :: risenAccounts as bs (n + 1)
    else risenAccounts as bs (n + 1)
  | [], _, _ => []
  | _, [], _ => []

/-- The quota retries that an event starts: one for each account whose available amount it raised,
in ascending order of account (R133, log 16). -/
def State.quotaRetries (before s : State) : State :=
  (risenAccounts before.accounts.toList s.accounts.toList 0).foldl State.quotaRetry s

end Sys2Proof.Machine
end

