-- ==== Sys2Proof/Machine/Lines.lean ====
section
/-! DEFINITION. The press lines (chapters 3 to 6 and 8): entries into the line states, the flush handshake, the in-flight list's removals, line loss, link-up and retirement. -/

namespace Sys2Proof.Machine

/-! ### STALL (R112) and the stall timer (R110) -/

/-- Clear STALL for printer `p` when its stalled flag is yes (R112). -/
def State.clearStall (s : State) (p : LineNo) : State :=
  if (s.line p).stalled then
    (s.modLine p fun l => { l with stalled := false }).clearAlert .stall (.printer p)
  else s

/-- The stall timer of a line that enters READY: a full deadline with entries, stopped without (R110). -/
def stallAtReady (t : Settings) (l : Line) : Timer :=
  if l.inflight = [] then .stopped else timerStart (stallDeadline t l.pace)

/-- The in-flight list of `p` has become empty by other means than a confirmation: the armed flag
clears, the stall timer stops and STALL clears (R104, R110, R112). -/
def State.listEmptied (s : State) (p : LineNo) : State :=
  if (s.line p).inflight = [] then
    (s.modLine p fun l => { l with armed := false, stall := .stopped }).clearStall p
  else s

/-! ### Entries into the line states -/

/-- Every timer of a line but the silence monitor stopped (R86, R96). -/
def stopTimers (l : Line) : Line :=
  { l with
    settle := .stopped
    wakeLimit := .stopped
    minAwake := .stopped
    idle := .stopped
    flushLimit := .stopped
    stall := .stopped
    moveDelay := .stopped }

/-- The line record at an entry into BLOCKED from READY or WAKING (R90, R104, R110, R152). -/
def blockedLine (t : Settings) (origin : BlockOrigin) (l : Line) : Line :=
  { l with
    state := .blocked
    blockOrigin := some origin
    flushedDuringBlock := flushPending l.flush
    settle := .stopped
    wakeLimit := .stopped
    minAwake := .stopped
    idle := .stopped
    standbyPending := false
    stall := timerSuspend l.stall
    armed := false
    moveDelay := .running t.moveDelay }

/-- Enter BLOCKED (R90); the block is counted (R136). -/
def State.enterBlocked (s : State) (p : LineNo) (origin : BlockOrigin) : State :=
  (s.modLine p (blockedLine s.settings origin)).modMeter p countBlock

/-- The line record at an entry into WAKING (R82, R95, R104, R110). -/
def wakingLine (r : Roster) (wake : Bool) (l : Line) : Line :=
  { l with
    state := .waking
    readySeen := false
    settle := timerStart r.settle
    wakeLimit := timerStart r.wakeLimit
    stall := .stopped
    armed := false
    silence := if timerRuns l.silence then l.silence else timerStart Config.silenceMs
    control := if wake then l.control ++ [.wake] else l.control }

/-- Enter WAKING, making WAKE from STANDBY and BLOCKED; with a blocking condition present the line
enters BLOCKED at once (R82). The entry asks for a binding pass (R29). -/
def State.enterWaking (s : State) (p : LineNo) (wake : Bool) : State :=
  let s1 := (s.modLine p (wakingLine (s.rosterOf p) wake)).wantPass
  if blockingPresent (s1.line p).conditions then s1.enterBlocked p .waking else s1

/-- The line record at an entry into READY (R83, R85, R110). -/
def readyLine (t : Settings) (r : Roster) (l : Line) : Line :=
  { l with
    state := .ready
    settle := .stopped
    wakeLimit := .stopped
    minAwake := timerStart r.minAwake
    stall := stallAtReady t l }

/-- Enter READY (R85); the entry asks for a binding pass (R29). -/
def State.enterReady (s : State) (p : LineNo) : State :=
  (s.modLine p (readyLine s.settings (s.rosterOf p))).wantPass

/-- The line record at an entry into STANDBY (R86); the FIFO of the line stays as it is (log 37, DEDUCED). -/
def standbyLine (l : Line) : Line :=
  { stopTimers l with
    state := .standby
    standbyPending := false
    armed := false
    control := l.control ++ [.standby] }

/-- Enter STANDBY, making STANDBY (R86); the entry asks for a binding pass (R29). -/
def State.enterStandby (s : State) (p : LineNo) : State :=
  (s.modLine p standbyLine).wantPass

/-- Leave BLOCKED when no blocking condition remains (R91, R147). -/
def State.leaveBlocked (s : State) (p : LineNo) : State :=
  let l := s.line p
  if blockingPresent l.conditions then s
  else
    let s1 := s.modLine p fun l =>
      { l with moveDelay := .stopped, blockOrigin := none, flushedDuringBlock := false }
    if l.flushedDuringBlock || decide (l.blockOrigin = some .waking) then s1.enterWaking p true
    else s1.enterReady p

/-! ### Conditions emptied (R148) -/

/-- Remove one condition from the set and clear its alert, if it is there. -/
def State.dropCondition (s : State) (p : LineNo) (k : Condition) : State :=
  if hasCondition (s.line p).conditions k then
    (s.modLine p fun l => { l with conditions := setCondition l.conditions k false }).clearAlert
      (conditionAlert k) (.printer p)
  else s

/-- Empty the condition set of `p`, clearing the alerts in the order JAM, DOOR OPEN, MEDIA OUT, SUPPLY
LOW; the jam tag becomes absent (R148). -/
def State.emptyConditions (s : State) (p : LineNo) : State :=
  ((((s.dropCondition p .jam).dropCondition p .doorOpen).dropCondition p .mediaOut).dropCondition p
    .supplyLow).modLine p fun l => { l with jamTag := none }

/-! ### The flush handshake (R92) -/

/-- A burst marked discarded (R72). -/
def discardBurst (b : Option Burst) : Option Burst := b.map fun x => { x with discarded := true }

/-- The line record at a flush start (R92, R59, R73, R104). -/
def flushStartLine (t : Settings) (u : Purpose) (l : Line) : Line :=
  { l with
    flush := addPurpose u Purposes.none
    inflight := l.inflight.map fun e => { e with flushing := true }
    fifo := []
    burst := discardBurst l.burst
    control := l.control ++ [.cancelSheets]
    flushLimit := timerStart t.flushLimit
    flushedDuringBlock := l.flushedDuringBlock || decide (l.state = .blocked)
    idle := .stopped
    armed := false }

/-- The line record when a request joins a pending flush (R92). -/
def flushJoinLine (u : Purpose) (l : Line) : Line :=
  { l with
    flush := addPurpose u l.flush
    flushedDuringBlock := l.flushedDuringBlock || decide (l.state = .blocked) }

/-- A flush request on line `p` (R92): started, joined, or dropped in DOWN, STANDBY and RETIRED. -/
def State.requestFlush (s : State) (p : LineNo) (u : Purpose) : State :=
  if (s.line p).state = .down ∨ (s.line p).state = .standby ∨ (s.line p).state = .retired then s
  else if flushPending (s.line p).flush then s.modLine p (flushJoinLine u)
  else s.modLine p (flushStartLine s.settings u)

/-! ### Removal of entries without confirmation (R57, R60, R61) -/

/-- The jobs of a list of entries, in the order of the oldest entry of each. -/
def entryJobs (es : List Entry) : List Nat := dedup (es.map fun e => e.job)

/-- Is the job of an entry CANCELLED or FAILED? -/
def State.entryKilled (s : State) (e : Entry) : Bool :=
  match s.job? e.job with
  | some x => jobKilled x
  | none => true

/-- Discard the entries of `p` that satisfy `P` and whose job is CANCELLED or FAILED: removed, and
their reservations returned, oldest first (R60 step 1). -/
def State.discardEntries (s : State) (p : LineNo) (P : Entry → Bool) : State :=
  let gone := (s.line p).inflight.filter fun e => P e && s.entryKilled e
  gone.foldl State.returnEntry
    (s.modLine p fun l => { l with inflight := l.inflight.filter fun e => !(P e && s.entryKilled e) })

/-- Rewind job `j` on printer `p` (R57). -/
def State.rewind (p : LineNo) (s : State) (j : Nat) : State :=
  let gone := s.entriesOn p j
  let s1 := s.modLine p fun l => { l with inflight := l.inflight.filter fun e => decide (e.job ≠ j) }
  (gone.foldl State.returnEntry s1).modJob j fun x => { x with dispatch := x.confirm }

/-- The jobs with entries of `p` that satisfy `P`, in the order of their oldest such entry. -/
def State.jobsOf (s : State) (p : LineNo) (P : Entry → Bool) : List Nat :=
  entryJobs ((s.line p).inflight.filter P)

/-- Steps 1 and 2 of R60, on the entries of `p` that satisfy `P`. -/
def State.clearEntries (s : State) (p : LineNo) (P : Entry → Bool) : State :=
  let s1 := s.discardEntries p P
  ((s1.jobsOf p P).foldl (State.rewind p) s1).listEmptied p

/-! ### Line loss (R84, R96, R61, R76) -/

/-- What the press line itself drops at a loss: the flush, the FIFO, the control frames, the burst and
the credits (R96 steps 1 and 2, R76). -/
def lossLine (l : Line) : Line :=
  { l with
    flush := Purposes.none
    flushLimit := .stopped
    fifo := []
    control := []
    burst := discardBurst l.burst
    credits := 0 }

/-- The flags and timers at a loss (R96 step 4). -/
def lossFlags (l : Line) : Line :=
  { stopTimers l with
    readySeen := false
    standbyPending := false
    flushedDuringBlock := false
    blockOrigin := none
    armed := false
    silence := .stopped }

/-- Every entry of a list. -/
def everyEntry (_ : Entry) : Bool := true

/-- Steps 1 to 5 of R96, shared with the wake limit expiry (R84): the in-flight list and the queue are
emptied as R61 states, then the flags, timers and conditions. -/
def State.dropLine (s : State) (p : LineNo) : State :=
  let js := s.jobsOf p everyEntry
  let s1 := (s.modLine p lossLine).clearEntries p everyEntry
  let s2 := js.foldl State.releaseIfKilled (s1.unbindAll p)
  (s2.modLine p lossFlags).emptyConditions p

/-- The line in DOWN, with RESYNC made when asked (R79, R84, R96). -/
def downLine (resync : Bool) (l : Line) : Line :=
  { l with state := .down, control := if resync then l.control ++ [.resync] else l.control }

/-- Enter RETIRED (R99): jobs unbound, LINE DOWN cleared, conditions emptied, every timer stopped; the FIFO of the
line stays as it is (log 37, DEDUCED). -/
def State.enterRetired (s : State) (p : LineNo) : State :=
  let s1 := s.unbindAll p
  let s2 := if (s1.line p).lineDown then
      (s1.modLine p fun l => { l with lineDown := false }).clearAlert .lineDown (.printer p)
    else s1
  (s2.emptyConditions p).modLine p fun l => { lossFlags l with state := .retired }

/-- Line loss (R95, R96), and loss in RETIRING (R98). -/
def State.loseLine (s : State) (p : LineNo) (resync : Bool) : State :=
  if (s.line p).state = .retiring then (s.dropLine p).enterRetired p
  else
    ((s.dropLine p).modLine p fun l => { downLine resync l with lineDown := true }).openAlert .lineDown
      (.printer p) Detail.none

/-- The line record of a link-up, before the entry into WAKING (R81, R67, R103). -/
def linkedLine (r : Roster) (capacity nominalPace modelCode : BitVec 16) (l : Line) : Line :=
  { l with
    capacity := clamp 1 4095 capacity.toNat
    credits := clamp 1 4095 capacity.toNat
    modelCode := modelCode
    pace := helloPace nominalPace.toNat r.nominalPace
    armed := false
    tagCtr := 0 }

/-- Link-up of a printer by a HELLO in DOWN (R81). -/
def State.linkUp (s : State) (p : LineNo) (capacity nominalPace modelCode : BitVec 16) : State :=
  let s1 := s.modLine p (linkedLine (s.rosterOf p) capacity nominalPace modelCode)
  let s2 := if (s1.line p).lineDown then
      (s1.modLine p fun l => { l with lineDown := false }).clearAlert .lineDown (.printer p)
    else s1
  s2.enterWaking p false

/-! ### Retirement (R97, R98) -/

/-- The line record at an entry into RETIRING (R97, R104, R110, R152). A stall timer that BLOCKED had
suspended is stopped as a running one is (log 41, DESIGN CHOICE: R110 and R97 give no row for that exit from
BLOCKED). -/
def retiringLine (l : Line) : Line :=
  { l with
    state := .retiring
    settle := .stopped
    wakeLimit := .stopped
    minAwake := .stopped
    idle := .stopped
    moveDelay := .stopped
    stall := .stopped
    standbyPending := false
    readySeen := false
    blockOrigin := none
    flushedDuringBlock := false
    armed := false }

/-- A RETIRING line with an empty in-flight list and no flush pending enters RETIRED (R98). -/
def State.retireIfEmpty (s : State) (p : LineNo) : State :=
  let l := s.line p
  if l.state = .retiring ∧ l.inflight = [] ∧ flushPending l.flush = false then s.enterRetired p else s

/-! ### Binding (R29, R32) -/

/-- Bind job `j` of priority `q` to printer `p` (R32, R33). -/
def State.bind (s : State) (j q : Nat) (p : LineNo) : State :=
  let s1 := (s.modJob j fun x =>
    { x with bound := some p, run := .queued, binding := 0, excluded := none }).leaveWaiting j
  let s2 := s1.modLine p fun l =>
    { l with queue := insertAfterLast (s1.goesBehind q) j (without j l.queue), standbyPending := false }
  let s3 := if (s2.line p).state = .standby then s2.enterWaking p true else s2
  s3.rechoose p

/-- A binding pass judges one job (R29): bound, or left waiting; either way its exclusion is dropped. -/
def State.judge (s : State) (j : Nat) : State :=
  match s.job? j with
  | none => s
  | some x =>
    match s.choosePrinter x with
    | some p => s.bind j x.priority p
    | none => s.modJob j fun y => { y with excluded := none }

/-- One binding pass over the waiting list; the passes requested while it runs are served by one later
pass (R29). -/
def State.pass (s : State) : State :=
  let t := s.waiting.foldl State.judge { s with passesWanted := 0 }
  { t with passesWanted := s.passesWanted + min t.passesWanted 1 }

/-- Binding passes one after another (R29). -/
def State.passes : Nat → State → State
  | 0, s => s
  | n + 1, s => State.passes n s.pass

/-! ### The move delay expiry (R153) -/

/-- What the move delay expiry does to one job of the queue. -/
def State.moveJobOff (s : State) (j : Nat) : State :=
  match s.job? j with
  | none => s
  | some x =>
    if x.moveAllowed = false then s
    else if x.run = .queued ∨ x.run = .feeding ∨ x.run = .draining then
      s.startLeaving j .waitingExclude none
    else if x.run = .leaving ∧ x.leaveTarget = some .waiting then
      s.modJob j fun y => { y with leaveTarget := some .waitingExclude }
    else s

/-- Does the expiry make this job LEAVING (R153)? -/
def State.movable (s : State) (j : Nat) : Bool :=
  match s.job? j with
  | none => false
  | some x => x.moveAllowed && (decide (x.run = .queued) || decide (x.run = .feeding) || decide (x.run = .draining))

/-- The move delay expiry of a BLOCKED printer (R153). -/
def State.moveOff (s : State) (p : LineNo) : State :=
  let s0 := s.modLine p fun l => { l with moveDelay := .stopped }
  let made := (s.line p).queue.filter s.movable
  let s1 := (s.line p).queue.foldl State.moveJobOff s0
  if (s1.line p).flushedDuringBlock = false ∧ made.any s1.hasEntries = true then s1.requestFlush p .move
  else s1

end Sys2Proof.Machine
end

