-- ==== Sys2Proof/Machine/Event.lean ====
section
/-! DEFINITION. The end of an event: quota retries, binding passes, a zero move delay, and the idle timers; and what the queue does when it is empty. -/

namespace Sys2Proof.Machine

/-- Does line `p` hold the conditions of its idle timer (R86)? -/
def idleHolds (r : Roster) (l : Line) : Bool :=
  decide (l.state = .ready) && l.queue.isEmpty && l.inflight.isEmpty && !flushPending l.flush &&
  !timerRuns l.minAwake && decide (r.idleToStandby ≠ 0)

/-- The idle timer follows its conditions (R86): started when they come to hold, stopped when one fails. -/
def idleLine (r : Roster) (l : Line) : Line :=
  if idleHolds r l then
    if timerRuns l.idle then l else { l with idle := timerStart r.idleToStandby }
  else { l with idle := .stopped }

/-- Every idle timer follows its conditions (R86, log 18). -/
def State.refreshIdle (s : State) : State := s.mapLines fun p l => idleLine (s.rosterOf p) l

/-- A line whose move delay this event has started with a duration of 0 (R152): the lowest-numbered first
where there are several (log 40, DESIGN CHOICE: the spec gives their expiries no order). -/
def zeroMove (before s : State) : Option LineNo :=
  allLines.find? fun p => timerDue (s.line p).moveDelay && !timerDue (before.line p).moveDelay &&
    decide ((s.line p).state = .blocked)

/-- The binding passes that are wanted, one after another, until none is (R29), and the expiry of a zero
move delay once the event that caused the block has had all its effect (R152). The passes of an event run
after its own changes (log 15). The fuel covers every chain: a further round needs a STANDBY line that a
pass woke, or a line that entered BLOCKED, and there are sixteen lines. -/
def settleLoop (before : State) : Nat → State → State
  | 0, s => s
  | n + 1, s =>
    if s.passesWanted ≠ 0 then
      settleLoop before n (State.passes s.passesWanted { s with passesWanted := 0 })
    else match zeroMove before s with
      | some p => settleLoop before n (s.moveOff p)
      | none => s

/-- Fuel of the loop. -/
def settleFuel : Nat := 64

/-- The end of an event that has made its own changes (R133, R134, R29, R152, R86). -/
def settleEvent (before s : State) : State :=
  (settleLoop before settleFuel (State.quotaRetries before s)).refreshIdle

/-! ### The empty queue: due events and the tick -/

/-- The expiries due on line `p`. -/
def lineDue (p : LineNo) (l : Line) : List Instr :=
  (if timerDue l.settle then [.settleExpiry p] else []) ++
  (if timerDue l.wakeLimit then [.wakeLimitExpiry p] else []) ++
  (if timerDue l.minAwake then [.minAwakeExpiry p] else []) ++
  (if timerDue l.idle then [.idleTimerExpiry p] else []) ++
  (if timerDue l.flushLimit then [.flushLimitExpiry p] else []) ++
  (if timerDue l.silence then [.silenceMonitorExpiry p] else []) ++
  (if timerDue l.stall then [.stallTimerExpiry p] else []) ++
  (if timerDue l.moveDelay then [.moveDelayExpiry p] else [])

/-- The events due now (log 2): expiries, sheet starts whose conditions hold (R51), a grant that can be
made (R70), and reminders (R166). -/
def dueEvents (s : State) : List Instr :=
  (allLines.flatMap fun p => lineDue p (s.line p)) ++
  (s.alerts.filter fun r => timerDue r.timer).map (fun r => .reminderTimerExpiry r.number) ++
  (allLines.filter fun p => (s.startable p).isSome).map (fun p => .sheetStart p) ++
  (if s.freeEngine.isSome && s.grantLine.isSome then [.burstGrant] else [])

/-- Insert at position `k`, or at the end. -/
def insertAt {α : Type} (x : α) : Nat → List α → List α
  | _, [] => [x]
  | 0, a :: l => x :: a :: l
  | k + 1, a :: l => a :: insertAt x k l

/-- Events that fall due together in a free order (log 7). -/
def freeOrder : Nat → List Instr → List Instr
  | _, [] => []
  | n, c :: cs =>
    let rest := freeOrder (n + 1) cs
    insertAt c (Config.pickOrder n % (rest.length + 1)) rest

/-- One millisecond of every timer of a line. -/
def tickLine (l : Line) : Line :=
  { l with
    settle := timerTick l.settle
    wakeLimit := timerTick l.wakeLimit
    minAwake := timerTick l.minAwake
    idle := timerTick l.idle
    flushLimit := timerTick l.flushLimit
    silence := timerTick l.silence
    stall := timerTick l.stall
    moveDelay := timerTick l.moveDelay }

/-- One millisecond (R196): the time base counts and every running timer has 1 ms less left. -/
def State.tick (s : State) : State :=
  { (s.mapLines fun _ l => tickLine l) with
    timeBase := s.timeBase + 1
    alerts := s.alerts.map fun r => { r with timer := timerTick r.timer } }

/-- What step does on an empty queue (log 2): events that are due are put into the queue; when none is
due, one millisecond passes. -/
def State.idleStep (s : State) : State :=
  match dueEvents s with
  | [] => s.tick
  | c :: cs =>
    { s with pending := freeOrder s.freeCtr (c :: cs), freeCtr := s.freeCtr + (c :: cs).length }

end Sys2Proof.Machine
end

