-- ==== Sys2Proof/Machine/Operands.lean ====
section
/-! DEFINITION. The operands of the shop port: frame acceptance (R180), the form checks (R197), the reading of argument bodies, and the reply (R183). -/

namespace Sys2Proof.Machine

/-! ### Acceptance (R180) -/

/-- The group bit of a station address: the least significant bit of its first byte (00_scope, section 5). -/
def groupBit (a : Station) : Bool := a.getLsbD 40

/-- Is a frame of a kind the part takes accepted at the shop port (R180)? `broadcastOk` says that it is a
MANAGE frame whose request is READ STATUS. -/
def State.accepts (s : State) (broadcastOk : Bool) (f : ShopFrame) : Bool :=
  f.fcsGood && decide (f.etherType = s.settings.port.frameType) && !groupBit f.src &&
  (decide (f.dst = s.settings.port.station) || (broadcastOk && decide (f.dst = Config.broadcast)))

/-- Is a sender a management station: no entry of the list used, or named in a used entry (R39, R182)? -/
def State.isManager (s : State) (a : Station) : Bool :=
  let used := s.settings.port.stations.toList.filter fun b => decide (b ≠ 0#48)
  used.isEmpty || used.any fun b => decide (b = a)

/-! ### Replies (R183) -/

/-- Send the REPLY to a frame: from the given port settings, to its sender, with the free block count as
it stands now (R183). -/
def State.reply (s : State) (port : PortSettings) (f : ShopFrame) (job : Nat) (st : Status)
    (body : List Byte) : State :=
  s.send (.reply
    { src := port.station
      dst := f.src
      etherType := port.frameType
      tag := f.tag
      job := job
      sheet := f.sheet
      status := st
      free := s.free.length
      body := body })

/-! ### Reading a body -/

/-- The `n` bytes of a body at offset `at`, as a number (chapter 12). -/
def field (bs : List Byte) (start n : Nat) : Nat := beNat ((bs.drop start).take n)

/-- A flag byte of a request: yes unless 0 (log 21). -/
def flagField (bs : List Byte) (start : Nat) : Bool := decide (field bs start 1 ≠ 0)

/-- The number a 64-bit two's complement field codes (section 12.1.1). -/
def signed64 (v : Nat) : Int := if v < 2 ^ 63 then (v : Int) else (v : Int) - 2 ^ 64

/-- The 8-byte values of a TABLE WRITE body after its count. -/
def valueList : Nat → List Byte → List Nat
  | 0, _ => []
  | n + 1, bs => beNat (bs.take 8) :: valueList n (bs.drop 8)

/-- The printer a one-byte argument names; `none` above 15. -/
def printerField (args : List Byte) : Option LineNo :=
  let n := field args 0 1
  if h : n < 16 then some ⟨n, h⟩ else none

/-! ### Form checks (R197) -/

/-- Steps 1 and 2: the version, and the length field against the payload bytes after the header. -/
def headerOk (f : ShopFrame) (payload : Nat) : Bool :=
  decide (f.version = 1#8) && decide (f.length.toNat ≤ payload)

/-- The body of a job frame: the first `length` payload bytes after the header. -/
def shopBody (f : ShopFrame) : List Byte := f.rest.take f.length.toNat

/-- The argument body of a named request: what follows the request code in the body. -/
def requestArgs (f : ShopFrame) : List Byte := f.rest.take (f.length.toNat - 1)

/-- The form checks of a job frame, steps 1 to 4 (R197): the refusal, if one fails. -/
def State.jobFormRefusal (s : State) (sizeOk : Nat → Bool) (f : ShopFrame) : Option Status :=
  if !headerOk f f.rest.length then some .badRequest
  else if s.live = .configuring then some .notLive
  else if !sizeOk f.length.toNat then some .badRequest
  else none

/-- The form checks of a named MANAGE request, steps 1, 2, 5 and 6 (R182, R197): the refusal, if one fails. -/
def State.manageFormRefusal (s : State) (sizeOk : List Byte → Bool) (f : ShopFrame) : Option Status :=
  if !headerOk f (f.rest.length + 1) then some .badRequest
  else if !s.isManager f.src then some .notPermitted
  else if f.length.toNat = 0 then some .badRequest
  else if !sizeOk (requestArgs f) then some .badRequest
  else none

/-- A request whose argument body has exactly `n` bytes. -/
def sized (n : Nat) (args : List Byte) : Bool := decide (args.length = n)

/-- The argument body of TABLE WRITE and TABLE WRITE CONTINUE: a count of at most 128 and that many
values of 8 bytes (R197 step 6). -/
def writeSized (args : List Byte) : Bool :=
  match args with
  | [] => false
  | c :: vs => decide (c.toNat ≤ 128) && decide (vs.length = 8 * c.toNat)

/-- The argument body of ADJUST LIMIT: 10 bytes, with a delta of magnitude at most 2^48 - 1 (R197 step 6). -/
def adjustSized (args : List Byte) : Bool :=
  sized 10 args && decide ((signed64 (field args 2 8)).natAbs ≤ max48)

/-! ### Taking a MANAGE request -/

/-- What a request does: its own changes, its status and its result body. -/
abbrev Outcome3 := State × Status × List Byte

/-- Set the shop port fields. -/
def State.withPort (s : State) (port : PortSettings) : State :=
  { s with settings := { s.settings with port := port } }

/-- Set the fields that the alert relay reads when it sends a frame or starts a timer (R166, R168). -/
def State.withAlertFields (s : State) (t : Settings) : State :=
  { s with settings := { s.settings with port := t.port, reminderInterval := t.reminderInterval } }

/-- The end of a MANAGE request (R182, R183): the effects of its changes, made with the shop port fields
that stood when it was taken (R181, log 22), then its reply. -/
def manageEnd (before : State) (f : ShopFrame) (job : Nat) (o : Outcome3) : State :=
  let port := o.1.settings.port
  ((settleEvent before (o.1.withPort before.settings.port)).withPort port).reply before.settings.port f job
    o.2.1 o.2.2

/-- Take a named MANAGE request: acceptance, the form checks, the request, its reply (R180, R182, R197). A reply
that refuses the form or the source carries the job the arguments name when the argument bytes present have the
size of the request, also where the version or the length field is what is wrong, and else 0 (log 19, DESIGN CHOICE:
R183 gives the job the frame named, and R197 does not say what a frame refused for its form names). -/
def manage (broadcastOk : Bool) (sizeOk : List Byte → Bool) (jobOf : List Byte → Nat)
    (act : List Byte → State → Outcome3) (f : ShopFrame) (s : State) : State :=
  if !s.accepts broadcastOk f then s
  else match s.manageFormRefusal sizeOk f with
    | some st => s.reply s.settings.port f (if sizeOk (requestArgs f) then jobOf (requestArgs f) else 0) st []
    | none => manageEnd s f (jobOf (requestArgs f)) (act (requestArgs f) s)

/-- No job applies to the request. -/
def noJob (_ : List Byte) : Nat := 0

/-- The job of a job control request is the one its arguments name (section 12.1.1). -/
def argJob (args : List Byte) : Nat := field args 0 2

/-- A refusal: no change and an empty result body. -/
def refuse (s : State) (st : Status) : Outcome3 := (s, st, [])

end Sys2Proof.Machine
end

