-- ==== Sys2Proof/Machine/Tables.lean ====
section
/-! DEFINITION. The cells of the tables (section 12.2, R198): reading a cell, fitting and writing a cell, the adjustments at the end of a write, and the cursors of the table window. -/

namespace Sys2Proof.Machine

/-! ### Sizes (section 11.6) -/

/-- Rows of a table. -/
def tableRows : Table → Nat
  | .route => 32
  | .group => 8
  | .account => 256
  | .rate => 4
  | .media => 16
  | .tier => 4
  | .pattern => 24
  | .roster => 16
  | .settings => 1
  | .jobs => 128

/-- Cells per row of a table. -/
def tableCells : Table → Nat
  | .route => 8
  | .group => 17
  | .account => 9
  | .rate => 4
  | .media => 1
  | .tier => 2
  | .pattern => 14
  | .roster => 15
  | .settings => 19
  | .jobs => 16

/-! ### Reading (R192, R198) -/

/-- A flag as a cell value. -/
def flagCell (b : Bool) : Nat := if b then 1 else 0

/-- An optional code as a cell value: 255 for ANY, NONE and an absent printer. -/
def optCell (o : Option Nat) : Nat := o.getD 255

/-- A ROUTE cell. -/
def routeCell (r : RouteRow) : Nat → Nat
  | 0 => flagCell r.valid
  | 1 => optCell r.cls
  | 2 => optCell r.kind
  | 3 => r.minPriority
  | 4 => r.group.val
  | 5 => policyCode r.policy
  | 6 => r.spreadShift
  | 7 => flagCell r.moveAllowed
  | _ => 0

/-- A GROUP cell: the member count, then members 1 to 16. -/
def groupCell (g : GroupRow) (c : Nat) : Nat :=
  if c = 0 then g.count else match g.members[c - 1]? with
    | some p => p.val
    | none => 0

/-- An ACCOUNT cell. -/
def accountCell (a : Account) : Nat → Nat
  | 0 => a.cls
  | 1 => flagCell a.limited
  | 2 => a.limit
  | 3 => flagCell a.tier
  | 4 => a.chargedCost
  | 5 => a.chargedSides
  | 6 => a.reservedCost
  | 7 => a.reservedSides
  | 8 => a.period.toNat
  | _ => 0

/-- A PATTERN cell. -/
def patternCell (r : PatternRow) (c : Nat) : Nat :=
  if c = 0 then flagCell r.valid
  else if c = 1 then r.scope.toNat
  else if c = 2 then r.length
  else if c ≤ 10 then match r.bytes[c - 3]? with
    | some b => b.toNat
    | none => 0
  else if c = 11 then conditionCode r.kind
  else if c = 12 then senseCode r.sense
  else if c = 13 then optCell r.tagPos
  else 0

/-- A ROSTER cell: the writable cells, then those of the line record (R100). -/
def rosterCell (r : Roster) (l : Line) : Nat → Nat
  | 0 => r.rateSet.val
  | 1 => r.mediaMask.toNat
  | 2 => r.maxInFlight
  | 3 => r.nominalPace
  | 4 => r.settle
  | 5 => r.minAwake
  | 6 => r.wakeLimit
  | 7 => r.idleToStandby
  | 8 => r.threshold
  | 9 => lineStateCode l.state
  | 10 => l.inflight.length
  | 11 => l.credits
  | 12 => l.capacity
  | 13 => l.pace
  | 14 => l.modelCode.toNat
  | _ => 0

/-- A SETTINGS cell. -/
def settingsCell (t : Settings) : Nat → Nat
  | 0 => t.port.station.toNat
  | 1 => t.port.frameType.toNat
  | 2 => t.port.console.toNat
  | 3 => t.port.stations[0].toNat
  | 4 => t.port.stations[1].toNat
  | 5 => t.port.stations[2].toNat
  | 6 => t.port.stations[3].toNat
  | 7 => t.flushLimit
  | 8 => t.stallFactor
  | 9 => t.stallMin
  | 10 => t.stallMax
  | 11 => t.moveDelay
  | 12 => t.retryLimit
  | 13 => t.reminderInterval
  | 14 => t.reminderLimit
  | 15 => t.ingestFloor
  | 16 => t.lowWater
  | 17 => t.highWater
  | 18 => t.minCharge
  | _ => 0

/-- A JOBS cell of a job record (R193). -/
def jobCell (x : Job) : Nat → Nat
  | 0 => x.number
  | 1 => x.submitterRef.toNat
  | 2 => x.account.val
  | 3 => ingestCode x.ingest
  | 4 => runStateCode x.run
  | 5 => optCell (x.bound.map fun p => p.val)
  | 6 => x.dispatch.copy
  | 7 => x.dispatch.sheet
  | 8 => x.confirm.copy
  | 9 => x.confirm.sheet
  | 10 => completeCount x
  | 11 => x.noProgress
  | 12 => x.split
  | 13 => x.chargedCost
  | 14 => x.confirmedCopies
  | 15 => x.confirmedSides
  | _ => 0

/-- The value of a cell as it stands (R192). -/
def State.readCell (s : State) (t : Table) (r c : Nat) : Nat :=
  match t with
  | .route => (s.route[r]?).elim 0 fun x => routeCell x c
  | .group => (s.group[r]?).elim 0 fun x => groupCell x c
  | .account => (s.accounts[r]?).elim 0 fun x => accountCell x c
  | .rate => (s.rate[r]?).elim 0 fun x => (x[c]?).getD 0
  | .media => (s.media[r]?).getD 0
  | .tier => (s.tier[r]?).elim 0 fun x => if c = 0 then x.threshold else x.discount
  | .pattern => (s.pattern[r]?).elim 0 fun x => patternCell x c
  | .roster => if h : r < 16 then rosterCell (s.rosterOf ⟨r, h⟩) (s.line ⟨r, h⟩) c else 0
  | .settings => settingsCell s.settings c
  | .jobs => (s.jobs[r]?).elim 0 fun x => jobCell x c

/-! ### Fitting and writing (R190, R198) -/

/-- A value fitted to a cell: the changed row, and whether the fitted value differs from the one sent;
`none` when the cell is read-only or the write rule does not take the value. -/
abbrev Fitted (α : Type) := Option (α × Bool)

/-- Fit a number to `lo..hi` and store it. -/
def fit {α : Type} (lo hi v : Nat) (put : Nat → α) : Fitted α :=
  some (put (clamp lo hi v), decide (clamp lo hi v ≠ v))

/-- Fit a flag: above 1 taken as 1. -/
def fitFlag {α : Type} (v : Nat) (put : Bool → α) : Fitted α := some (put (decide (v ≠ 0)), decide (1 < v))

/-- Fit an optional code: 255 is absent, any other value above the top taken as the top. -/
def fitOpt {α : Type} (hi v : Nat) (put : Option Nat → α) : Fitted α :=
  if v = 255 then some (put none, false) else some (put (some (clamp 0 hi v)), decide (hi < v))

/-- Write a ROUTE cell (R23, R198). -/
def putRoute (r : RouteRow) (c v : Nat) : Fitted RouteRow :=
  match c with
  | 0 => fitFlag v fun b => { r with valid := b }
  | 1 => fitOpt 15 v fun o => { r with cls := o }
  | 2 => fitOpt 7 v fun o => { r with kind := o }
  | 3 => fit 0 3 v fun n => { r with minPriority := n }
  | 4 => fit 0 7 v fun n => { r with group := Fin.ofNat 8 n }
  | 5 => fit 0 1 v fun n => { r with policy := if n = 0 then .spread else .earliest }
  | 6 => fit 0 7 v fun n => { r with spreadShift := n }
  | 7 => fitFlag v fun b => { r with moveAllowed := b }
  | _ => none

/-- Write a GROUP cell (R27, R198). -/
def putGroup (g : GroupRow) (c v : Nat) : Fitted GroupRow :=
  if c = 0 then fit 0 16 v fun n => { g with count := n }
  else fit 0 15 v fun n => { g with members := g.members.setIfInBounds (c - 1) (Fin.ofNat 16 n) }

/-- Write an ACCOUNT cell; the last five are read-only (R114). -/
def putAccount (a : Account) (c v : Nat) : Fitted Account :=
  match c with
  | 0 => fit 0 15 v fun n => { a with cls := n }
  | 1 => fitFlag v fun b => { a with limited := b }
  | 2 => fit 0 max48 v fun n => { a with limit := n }
  | 3 => fitFlag v fun b => { a with tier := b }
  | _ => none

/-- Write a TIER cell (R119). -/
def putTier (r : TierRow) (c v : Nat) : Fitted TierRow :=
  if c = 0 then fit 0 max32 v fun n => { r with threshold := n }
  else fit 0 50 v fun n => { r with discount := n }

/-- The condition a PATTERN kind code names. -/
def conditionOf : Nat → Condition
  | 0 => .jam
  | 1 => .doorOpen
  | 2 => .mediaOut
  | _ => .supplyLow

/-- Write a PATTERN cell (R139, R198). -/
def putPattern (r : PatternRow) (c v : Nat) : Fitted PatternRow :=
  if c = 0 then fitFlag v fun b => { r with valid := b }
  else if c = 1 then fit 0 65535 v fun n => { r with scope := BitVec.ofNat 16 n }
  else if c = 2 then fit 1 8 v fun n => { r with length := n }
  else if c ≤ 10 then fit 0 255 v fun n =>
    { r with bytes := r.bytes.setIfInBounds (c - 3) (BitVec.ofNat 8 n) }
  else if c = 11 then fit 0 3 v fun n => { r with kind := conditionOf n }
  else if c = 12 then fit 0 1 v fun n => { r with sense := if n = 0 then .raise else .clear }
  else if c = 13 then fitOpt 31 v fun o => { r with tagPos := o }
  else none

/-- Write a ROSTER cell; the last six are read-only (R100). -/
def putRoster (r : Roster) (c v : Nat) : Fitted Roster :=
  match c with
  | 0 => fit 0 3 v fun n => { r with rateSet := Fin.ofNat 4 n }
  | 1 => fit 0 65535 v fun n => { r with mediaMask := BitVec.ofNat 16 n }
  | 2 => fit 1 16 v fun n => { r with maxInFlight := n }
  | 3 => fit 100 60000 v fun n => { r with nominalPace := n }
  | 4 => fit 0 600000 v fun n => { r with settle := n }
  | 5 => fit 0 3600000 v fun n => { r with minAwake := n }
  | 6 => fit 1000 900000 v fun n => { r with wakeLimit := n }
  | 7 => fit 0 86400000 v fun n => { r with idleToStandby := n }
  | 8 => fit 0 768 v fun n => { r with threshold := n }
  | _ => none

/-- Fit a station address cell: a value above 2^48 - 1 is clamped to it (R198). -/
def fitStation {α : Type} (v : Nat) (put : Station → α) : Fitted α :=
  fit 0 max48 v fun n => put (BitVec.ofNat 48 n)

/-- Write a shop port field (R181): a station address with the group bit set is not taken. A station address value
above 2^48 - 1, clamped to all ones before that rule (R198), is then not taken either, and counts as skipped alone
(log 23, DESIGN CHOICE: R198 counts the clamp, and R190 gives each value one count, CLAMPED only to a value taken). -/
def putPort (q : PortSettings) (c v : Nat) : Fitted PortSettings :=
  match c with
  | 0 =>
    if groupBit (BitVec.ofNat 48 (clamp 0 max48 v)) then none
    else fitStation v fun a => { q with station := a }
  | 1 => fit 0x0600 0xFFFF v fun n => { q with frameType := BitVec.ofNat 16 n }
  | 2 => fitStation v fun a => { q with console := a }
  | _ => fitStation v fun a => { q with stations := q.stations.setIfInBounds (c - 3) a }

/-- Write a SETTINGS cell (section 11.7, R181). -/
def putSettings (t : Settings) (c v : Nat) : Fitted Settings :=
  if c ≤ 6 then (putPort t.port c v).map fun r => ({ t with port := r.1 }, r.2)
  else match c with
  | 7 => fit 500 60000 v fun n => { t with flushLimit := n }
  | 8 => fit 1 16 v fun n => { t with stallFactor := n }
  | 9 => fit 1000 600000 v fun n => { t with stallMin := n }
  | 10 => fit 1000 3600000 v fun n => { t with stallMax := n }
  | 11 => fit 0 3600000 v fun n => { t with moveDelay := n }
  | 12 => fit 0 15 v fun n => { t with retryLimit := n }
  | 13 => fit 5000 3600000 v fun n => { t with reminderInterval := n }
  | 14 => fit 0 255 v fun n => { t with reminderLimit := n }
  | 15 => fit 0 4096 v fun n => { t with ingestFloor := n }
  | 16 => fit 0 32768 v fun n => { t with lowWater := n }
  | 17 => fit 0 32768 v fun n => { t with highWater := n }
  | 18 => fit 0 65535 v fun n => { t with minCharge := n }
  | _ => none

/-- Is ROSTER row `r` writable now: is line `r` in DOWN or RETIRED (R100)? -/
def rosterOpen (l : Line) : Bool := decide (l.state = .down) || decide (l.state = .retired)

/-- Write a value at a cell: the changed state and whether it was clamped, or `none` when the value is
skipped (R190). -/
def State.writeCell (s : State) (t : Table) (r c v : Nat) : Fitted State :=
  match t with
  | .route => (s.route[r]?).bind fun x => (putRoute x c v).map fun y =>
      ({ s with route := s.route.setIfInBounds r y.1 }, y.2)
  | .group => (s.group[r]?).bind fun x => (putGroup x c v).map fun y =>
      ({ s with group := s.group.setIfInBounds r y.1 }, y.2)
  | .account => (s.accounts[r]?).bind fun x => (putAccount x c v).map fun y =>
      ({ s with accounts := s.accounts.setIfInBounds r y.1 }, y.2)
  | .rate => (s.rate[r]?).bind fun x => fit 0 65535 v fun n =>
      { s with rate := s.rate.setIfInBounds r (x.setIfInBounds c n) }
  | .media => fit 1 255 v fun n => { s with media := s.media.setIfInBounds r n }
  | .tier => (s.tier[r]?).bind fun x => (putTier x c v).map fun y =>
      ({ s with tier := s.tier.setIfInBounds r y.1 }, y.2)
  | .pattern => (s.pattern[r]?).bind fun x => (putPattern x c v).map fun y =>
      ({ s with pattern := s.pattern.setIfInBounds r y.1 }, y.2)
  | .roster =>
    if h : r < 16 then
      if rosterOpen (s.line ⟨r, h⟩) then
        (putRoster (s.rosterOf ⟨r, h⟩) c v).map fun y =>
          ({ s with roster := s.roster.set r y.1 h }, y.2)
      else none
    else none
  | .settings => (putSettings s.settings c v).map fun y => ({ s with settings := y.1 }, y.2)
  | .jobs => none

/-! ### The window's cursors (R189, R190) -/

/-- The start of a window. -/
def windowStart (w : Window) : WindowPos := some (w.firstRow, w.firstCell)

/-- The position after a cell of the window, or its end (R190). -/
def nextPos (w : Window) (r c : Nat) : WindowPos :=
  if c < w.lastCell then some (r, c + 1)
  else if r < w.lastRow then some (r + 1, w.firstCell)
  else none

/-- A position as reply bytes: the end of the window is row 65,535, cell 255 (section 12.1.2). -/
def posBytes : WindowPos → List Byte
  | some (r, c) => be 2 r ++ be 1 c
  | none => be 2 65535 ++ be 1 255

/-! ### Taking values (R190) -/

/-- The progress of a write request: the state, the four counts, the write cursor and the cells taken. -/
structure WriteRun where
  state : State
  taken : Nat
  clamped : Nat
  skipped : Nat
  ignored : Nat
  pos : WindowPos
  cells : List (Nat × Nat)
deriving DecidableEq, Repr

/-- Take one value at the write cursor (R190). -/
def takeValue (w : Window) (k : WriteRun) (v : Nat) : WriteRun :=
  match k.pos with
  | none => { k with ignored := k.ignored + 1 }
  | some (r, c) =>
    match k.state.writeCell w.table r c v with
    | none => { k with skipped := k.skipped + 1, pos := nextPos w r c }
    | some (s, cl) =>
      { k with
        state := s
        taken := k.taken + 1
        clamped := if cl then k.clamped + 1 else k.clamped
        pos := nextPos w r c
        cells := k.cells ++ [(r, c)] }

/-! ### The adjustments at the end of a write (R191) -/

/-- Normalise a GROUP row (R27): later repeats among the members removed, every later cell closed up, and
the cells left free at the end of the sixteen 0. Cells beyond the member count are kept. -/
def normaliseGroup (g : GroupRow) : GroupRow :=
  let ms := dedup (groupMembers g)
  let cells := ms ++ g.members.toList.drop g.count
  { count := ms.length, members := Vector.ofFn fun i => (cells[i.val]?).getD 0 }

/-- The rows of a request's taken cells. -/
def writtenRows (cells : List (Nat × Nat)) : List Nat := dedup (cells.map fun q => q.1)

/-- Was one of two cells of row `r` written? -/
def wroteCell (cells : List (Nat × Nat)) (r a b : Nat) : Bool :=
  cells.any fun q => decide (q.1 = r) && (decide (q.2 = a) || decide (q.2 = b))

/-- Step 1: normalise the written GROUP rows; each changed row asks for a binding pass (R27, R29, R191). -/
def adjustGroups (before : State) (rows : List Nat) (s : State) : State :=
  let s1 := rows.foldl (fun s' r => match s'.group[r]? with
    | some g => { s' with group := s'.group.setIfInBounds r (normaliseGroup g) }
    | none => s') s
  let changed := (List.range 8).filter fun r => decide (s1.group[r]? ≠ before.group[r]?)
  { s1 with passesWanted := s1.passesWanted + changed.length }

/-- Step 2 on one row: the wake limit raised to the settle (R100). -/
def raiseWakeLimit (r : Roster) : Roster := if r.wakeLimit < r.settle then { r with wakeLimit := r.settle } else r

/-- Step 2: the wake limits of the written ROSTER rows; the clamps made (R191). -/
def adjustRoster (cells : List (Nat × Nat)) (rows : List Nat) (s : State) : State × Nat :=
  rows.foldl (fun q r => match q.1.roster[r]? with
    | some x =>
      if wroteCell cells r 4 6 && decide (x.wakeLimit < x.settle) then
        ({ q.1 with roster := q.1.roster.setIfInBounds r (raiseWakeLimit x) }, q.2 + 1)
      else q
    | none => q) (s, 0)

/-- Step 3: the stall maximum raised to the stall minimum, high water to low water; the clamps made (R191). -/
def adjustSettings (cells : List (Nat × Nat)) (s : State) : State × Nat :=
  let t := s.settings
  let a := wroteCell cells 0 9 10 && decide (t.stallMax < t.stallMin)
  let b := wroteCell cells 0 16 17 && decide (t.highWater < t.lowWater)
  ({ s with settings :=
      { t with
        stallMax := if a then t.stallMin else t.stallMax
        highWater := if b then t.lowWater else t.highWater } },
    (if a then 1 else 0) + (if b then 1 else 0))

/-- Step 4: the limit clamp on the written ACCOUNT rows; the clamps made (R128, R191). -/
def adjustAccounts (rows : List Nat) (s : State) : State × Nat :=
  rows.foldl (fun q r => match q.1.accounts[r]? with
    | some a =>
      if limitClamp a = a then q
      else ({ q.1 with accounts := q.1.accounts.setIfInBounds r (limitClamp a) }, q.2 + 1)
    | none => q) (s, 0)

/-- The adjustments and the low-mark evaluation at the end of a write (R191, R19): the state and the
clamps made. What the evaluation causes comes of this request, so its ALERT frames leave with the shop port
fields that stood before (log 22), and its alert timer runs with the reminder interval that stood before
(R166, R191). -/
def endAdjust (before : State) (t : Table) (cells : List (Nat × Nat)) (s : State) : State × Nat :=
  let rows := writtenRows cells
  match t with
  | .group => (adjustGroups before rows s, 0)
  | .roster => adjustRoster cells rows s
  | .settings =>
    let q := adjustSettings cells s
    if wroteCell cells 0 16 17 then
      (((q.1.withAlertFields before.settings).evalSpoolLow).withAlertFields q.1.settings, q.2)
    else q
  | .account => adjustAccounts rows s
  | .route => (s, 0)
  | .rate => (s, 0)
  | .media => (s, 0)
  | .tier => (s, 0)
  | .pattern => (s, 0)
  | .jobs => (s, 0)

/-- A one-byte count field (section 12.1.2); above 255, where it does not fit, a free value (log 39). -/
def countByte (n : Nat) : List Byte := if n < 256 then be 1 n else [Config.countAbove n]

/-- A write request from a cursor position (R190): the changes, and the result body. The clamped count of an
ACCOUNT write can exceed its byte (R128, R198, log 39). -/
def State.writeValues (s : State) (w : Window) (start : WindowPos) (values : List Nat) : State × List Byte :=
  let k := values.foldl (takeValue w)
    { state := s, taken := 0, clamped := 0, skipped := 0, ignored := 0, pos := start, cells := [] }
  let q := endAdjust s w.table k.cells k.state
  ({ q.1 with window := some { w with write := k.pos } },
    be 1 k.taken ++ countByte (k.clamped + q.2) ++ be 1 k.skipped ++ be 1 k.ignored ++ posBytes k.pos)

/-! ### Reading values (R192) -/

/-- Up to `n` cells from a position: the values and the position after them. -/
def State.readValues (s : State) (w : Window) : Nat → WindowPos → List Nat × WindowPos
  | 0, pos => ([], pos)
  | _ + 1, none => ([], none)
  | n + 1, some (r, c) =>
    let q := s.readValues w n (nextPos w r c)
    (s.readCell w.table r c :: q.1, q.2)

/-- A read request from a cursor position (R192): the changes, the status and the result body. -/
def State.readFrom (s : State) (w : Window) (start : WindowPos) : Outcome3 :=
  let q := s.readValues w 128 start
  ({ s with window := some { w with read := q.2 } }, if q.2.isSome then .more else .last,
    posBytes start ++ be 1 q.1.length ++ q.1.flatMap (be 8))

end Sys2Proof.Machine
end

