-- ==== Sys2Proof/Machine/Accounts.lean ====
section
/-! DEFINITION. The account and meter requests (chapters 7 and 10): ADJUST_LIMIT, CLOSE_PERIOD, READ_METERS_START, READ_METERS_NEXT. -/

namespace Sys2Proof.Machine

/-! ### ADJUST LIMIT (R129) -/

/-- The account a two-byte argument names; `none` above 255. -/
def accountField (args : List Byte) : Option AccountNo :=
  let n := field args 0 2
  if h : n < 256 then some ⟨n, h⟩ else none

/-- The account with its limit moved by the delta, before the clamp (R129). -/
def adjustAccount (delta : Int) (a : Account) : Account := { a with limit := adjustedLimit a delta }

/-- The result body of ADJUST LIMIT: limit, charged plus reserved, available amount, clamp flag (section 12.1.2). -/
def adjustBody (clamped : Bool) (a : Account) : List Byte :=
  be 8 a.limit ++ be 8 (a.chargedCost + a.reservedCost) ++ be 8 (available a) ++ [flagByte clamped]

/-- ADJUST LIMIT (R129). -/
def adjustLimitAct (args : List Byte) (s : State) : Outcome3 :=
  match accountField args with
  | none => refuse s .badRequest
  | some a =>
    let moved := adjustAccount (signed64 (field args 2 8)) (s.account a)
    let fitted := limitClamp moved
    (s.modAccount a fun _ => fitted, .ok, adjustBody (decide (fitted ≠ moved)) fitted)

/-! ### CLOSE PERIOD (R130) -/

/-- The code of ALL in CLOSE PERIOD (section 12.1.1). -/
def allAccounts : Nat := 65535

/-- CLOSE PERIOD (R130). -/
def closePeriodAct (args : List Byte) (s : State) : Outcome3 :=
  if field args 0 2 = allAccounts then (s.closeAll, .ok, be 2 256)
  else match accountField args with
    | none => refuse s .badRequest
    | some a => (s.modAccount a closeAccount, .ok, be 2 (closeAccount (s.account a)).period.toNat)

/-! ### The meter readout (R172 to R177) -/

/-- Every account number, ascending. -/
def allAccountNos : List AccountNo := (List.range 256).map (Fin.ofNat 256)

/-- The snapshot record of one account (R173). -/
def accountSnap (a : AccountNo) (x : Account) : SnapRecord :=
  .account a.val x.period x.limited x.limit x.chargedCost x.chargedSides x.reservedCost

/-- The snapshot record of one printer (R174). -/
def printerSnap (p : LineNo) (m : Meter) (l : Line) : SnapRecord := .printer p.val m l.state

/-- The records of a snapshot, ascending (R173, R174). -/
def State.snapRecords (s : State) : MeterScope → List SnapRecord
  | .accounts => allAccountNos.map fun a => accountSnap a (s.account a)
  | .printers => allLines.map fun p => printerSnap p s.meters[p] (s.line p)

/-- The bytes of a snapshot record: 29 for an account, 38 for a printer (section 12.1.2). -/
def snapBytes : SnapRecord → List Byte
  | .account n period limited limit cost sides reserved =>
    be 2 n ++ be 2 period.toNat ++ [flagByte limited] ++ be 6 limit ++ be 6 cost ++ be 6 sides ++
    be 6 reserved
  | .printer n m st =>
    be 1 n ++ m.sides.toList.flatMap (be 6) ++ be 6 m.sheets ++ be 6 m.blocks ++ be 1 (lineStateCode st)

/-- The part count of a snapshot (R172). -/
def partCount : MeterScope → Nat
  | .accounts => 16
  | .printers => 1

/-- The records of part `k`: sixteen (R176). -/
def partRecords (n : Snapshot) (k : Nat) : List SnapRecord := (n.records.drop (16 * k)).take 16

/-- The result body of part `k` (R176). -/
def partBody (n : Snapshot) (k : Nat) : List Byte :=
  be 1 (meterScopeCode n.scope) ++ be 1 k ++ be 1 (partCount n.scope) ++
  be 1 (partRecords n k).length ++ (partRecords n k).flatMap snapBytes

/-- Send part `k` of a snapshot: MORE and the next part, or LAST and an empty buffer (R176). -/
def State.sendPart (s : State) (n : Snapshot) (k : Nat) : Outcome3 :=
  if k + 1 < partCount n.scope then
    ({ s with readout := some { n with next := k + 1 } }, .more, partBody n k)
  else ({ s with readout := none }, .last, partBody n k)

/-- The close or zeroing that the close flag makes (R175). -/
def State.closeScope (s : State) : MeterScope → State
  | .accounts => s.closeAll
  | .printers => { s with meters := Vector.replicate 16 Meter.zero }

/-- The scope a code names (section 12.1.1). -/
def meterScopeOf : Nat → Option MeterScope
  | 0 => some .accounts
  | 1 => some .printers
  | _ => none

/-- READ METERS START (R173 to R176). -/
def readMetersStartAct (args : List Byte) (s : State) : Outcome3 :=
  match meterScopeOf (field args 0 1) with
  | none => refuse s .badRequest
  | some scope =>
    let n : Snapshot := { scope := scope, records := s.snapRecords scope, next := 0 }
    (if flagField args 1 then s.closeScope scope else s).sendPart n 0

/-- READ METERS NEXT (R177). -/
def readMetersNextAct (_args : List Byte) (s : State) : Outcome3 :=
  match s.readout with
  | none => refuse s .noReadout
  | some n => s.sendPart n n.next

/-! ### The meanings -/

/-- ADJUST_LIMIT (R129). -/
def execAdjustLimit (f : ShopFrame) (s : State) : Host.Outcome State Fault Refusal :=
  .next (manage false adjustSized noJob adjustLimitAct f s)

/-- CLOSE_PERIOD (R130). -/
def execClosePeriod (f : ShopFrame) (s : State) : Host.Outcome State Fault Refusal :=
  .next (manage false (sized 2) noJob closePeriodAct f s)

/-- READ_METERS_START (R173). -/
def execReadMetersStart (f : ShopFrame) (s : State) : Host.Outcome State Fault Refusal :=
  .next (manage false (sized 2) noJob readMetersStartAct f s)

/-- READ_METERS_NEXT (R177). -/
def execReadMetersNext (f : ShopFrame) (s : State) : Host.Outcome State Fault Refusal :=
  .next (manage false (sized 0) noJob readMetersNextAct f s)

end Sys2Proof.Machine
end

