-- ==== Sys2Proof/Machine/AlertControl.lean ====
section
/-! DEFINITION. The alert commands (chapter 9): ACK_ALERT and REMINDER_TIMER_EXPIRY. -/

namespace Sys2Proof.Machine

/-- The code of REMOVED in the reply to ACK ALERT (section 12.1.2). -/
def removedCode : Nat := 4

/-- The result body of ACK ALERT (section 12.1.2). -/
def ackBody (r : AlertRec) (after : Nat) : List Byte :=
  be 2 r.number ++ be 1 (alertKindCode r.kind) ++ be 1 (subjectType r.subject) ++
  be 2 (subjectNumber r.subject) ++ be 1 after

/-- An acknowledged record: ACKED, its reminder timer stopped (R166, R167). -/
def ackedRecord (r : AlertRec) : AlertRec := { r with state := .acked, timer := .stopped }

/-- The record an ACK ALERT names: none for the number 0 (R167). -/
def State.ackTarget (s : State) (n : Nat) : Option AlertRec := if n = 0 then none else s.alertNumbered n

/-- ACK ALERT (R167). -/
def ackAlertAct (args : List Byte) (s : State) : Outcome3 :=
  match s.ackTarget (field args 0 2) with
  | none => refuse s .notFound
  | some r =>
    match r.state with
    | .raised => (s.modAlert r.number ackedRecord, .ok, ackBody r (alertStateCode .acked))
    | .acked => (s, .ok, ackBody r (alertStateCode .acked))
    | .cleared => (s.removeAlert r.number, .ok, ackBody r removedCode)

/-- ACK_ALERT (R167). -/
def execAckAlert (f : ShopFrame) (s : State) : Host.Outcome State Fault Refusal :=
  .next (manage false (sized 2) noJob ackAlertAct f s)

/-- REMINDER_TIMER_EXPIRY (R166): taken when the record's timer is due (log 3). -/
def execReminderTimerExpiry (n : Nat) (s : State) : Host.Outcome State Fault Refusal := .next (s.remind n)

end Sys2Proof.Machine
end

