-- ==== Sys2Proof/Machine/Feed.lean ====
section
/-! DEFINITION. Dispatch and feed (chapters 3 and 4): SHEET_START, BURST_GRANT, BURST_COMPLETION, LINE_TRANSMIT_FRAME. -/

namespace Sys2Proof.Machine

/-! ### Sheet start (R51, R52, R131) -/

/-- The entry of a sheet start (R49, R51). -/
def startEntry (x : Job) (h : Sheet) (tag : Byte) (cost : Nat) : Entry :=
  { job := x.number
    copy := x.dispatch.copy
    sheet := x.dispatch.sheet
    tag := tag
    cost := cost
    sides := h.sides
    moved := 0
    flushing := false }

/-- The SHEET START frame of a sheet start (R51, section 12.3). -/
def startFrame (x : Job) (h : Sheet) (tag : Byte) : SheetFrame :=
  .start tag h.received h.media h.sides x.number x.dispatch.sheet x.dispatch.copy

/-- The line record at a sheet start (R51, R49, R110). The SHEET START joins the FIFO whatever it holds (log 46,
DESIGN CHOICE: R64 bounds its SHEET START frames by 16, one per in-flight entry, and names no effect where a printer
has confirmed entries whose frames still wait). -/
def startLine (t : Settings) (x : Job) (h : Sheet) (cost : Nat) (l : Line) : Line :=
  { l with
    inflight := l.inflight ++ [startEntry x h l.tagCtr cost]
    fifo := l.fifo ++ [startFrame x h l.tagCtr]
    tagCtr := l.tagCtr + 1
    stall := if l.inflight = [] then timerStart (stallDeadline t l.pace) else l.stall }

/-- A sheet start whose reservation is made (R51): reservation, entry, frame, advance, and DRAINING at the end. -/
def State.startSheet (s : State) (p : LineNo) (x : Job) (h : Sheet) (cost : Nat) : State :=
  let s1 := s.modAccount x.account (reserve cost h.sides)
  let s2 := s1.modLine p (startLine s.settings x h cost)
  let next := advance x x.dispatch
  let s3 := s2.modJob x.number fun y => { y with dispatch := next }
  if atEnd x next then (s3.modJob x.number fun y => { y with run := .draining }).rechoose p else s3

/-- A quota failure (R52, R131). -/
def State.quotaFailure (s : State) (x : Job) : State :=
  ((s.joinQuota x.account x.number).startLeaving x.number .held (some .quota)).openAlert .quotaHold
    (.account x.account) { Detail.none with available := some (available (s.account x.account)) }

/-- A sheet start on printer `p` (R51, R52); when its conditions do not hold there is none (log 3). -/
def State.sheetStart (s : State) (p : LineNo) : State :=
  match s.startable p with
  | none => s
  | some (x, h) =>
    let cost := s.sheetCost p x.account h
    settleEvent s
      (if fits (s.account x.account) cost then s.startSheet p x h cost else s.quotaFailure x)

/-! ### Grants and bursts (R70, R71) -/

/-- Set an engine. -/
def State.setEngine (s : State) (g : Fin 2) (o : Option LineNo) : State :=
  if g = 0 then { s with engine0 := o } else { s with engine1 := o }

/-- The chain of an entry's sheet. -/
def State.entryChain (s : State) (e : Entry) : List Block :=
  match s.job? e.job with
  | some x => match sheetOf x e.sheet with
    | some h => h.chain
    | none => []
  | none => []

/-- The burst of an entry in transmission (R66, R71). -/
def State.burstOf (s : State) (g : Fin 2) (e : Entry) : Burst :=
  { engine := g
    tag := e.tag
    job := e.job
    copy := e.copy
    sheet := e.sheet
    block := (s.entryChain e)[e.moved / Config.blockBytes]?
    offset := e.moved
    count := min 256 (s.entryLength e - e.moved)
    discarded := false }

/-- A grant (R70, R71): to the line of the walk, for its entry in transmission. -/
def State.grant (s : State) : State :=
  match s.freeEngine, s.grantLine with
  | some g, some p =>
    match s.inTransmission p with
    | some e =>
      ({ (s.modLine p fun l => { l with credits := l.credits - 1, burst := some (s.burstOf g e) }) with
        lastGranted := p }).setEngine g (some p)
    | none => s
  | _, none => s
  | none, _ => s

/-- The bytes a burst has read (R66); with no block at its position, free values (log 8). -/
def State.burstBytes (s : State) (b : Burst) : List Byte :=
  (List.range b.count).map fun k =>
    match b.block with
    | some n => s.dram.read (blockAddress n (b.offset % Config.blockBytes + k))
    | none => Config.strayByte (s.freeCtr + k)

/-- The entry a burst serves, with its bytes moved raised (R71). -/
def raiseMoved (b : Burst) (e : Entry) : Entry :=
  if e.tag = b.tag then { e with moved := e.moved + b.count } else e

/-- A line with no burst in progress. -/
def noBurst (l : Line) : Line := { l with burst := none }

/-- A burst that completes into the line FIFO (R71). -/
def State.placeBurst (s : State) (p : LineNo) (b : Burst) : State :=
  { (s.modLine p fun l =>
      { l with
        burst := none
        fifo := l.fifo ++ [.data b.tag (s.burstBytes b)]
        inflight := l.inflight.map (raiseMoved b) }) with
    freeCtr := if b.block.isNone then s.freeCtr + b.count else s.freeCtr }

/-! ### Read errors (R18, R75) -/

/-- Does block `n` lie in the chain of sheet `i` of job `j`? -/
def State.inChain (s : State) (j i : Nat) (n : Block) : Bool :=
  match s.job? j with
  | some x => match sheetOf x i with
    | some h => decide (n ∈ h.chain)
    | none => false
  | none => false

/-- A block leaves its chain for the quarantine list (R18, R5). -/
def State.withdrawBlock (s : State) (j i : Nat) (n : Block) : State :=
  (s.modJob j (modSheet i fun h => { h with chain := h.chain.filter fun m => decide (m ≠ n) })).quarantineBlock n

/-- The job of a read error fails (R18): the shared changes, the two alerts, then the flush or the release. JOB
FAILED is opened before DATA ERROR (log 43, DESIGN CHOICE: R18 and R170 leave their order open). -/
def State.failRead (s : State) (b : Burst) : State :=
  let d := { Detail.none with ref := some { job := b.job, sheet := b.sheet, copy := b.copy } }
  let s1 := ((s.kill b.job .failed).openAlert .jobFailed (.job b.job) d).openAlert .dataError (.job b.job) d
  match s1.entryLine b.job with
  | some p => s1.requestFlush p .fail
  | none => s1.releaseStorage b.job

/-- An uncorrectable read error of a burst (R18, R75). It has no effect when the chain no longer holds the block:
R75 says so where the job's storage has been released. Where the job lives on and the block has left the chain with
the last copy's confirmation (R16), that is log 45, DESIGN CHOICE: R75 does not name the case. -/
def State.readError (s : State) (b : Burst) : State :=
  match b.block with
  | none => s
  | some n =>
    if s.inChain b.job b.sheet n then
      let s1 := s.withdrawBlock b.job b.sheet n
      if s.runIs b.job (fun r => decide (r = .failed) || decide (r = .cancelled)) then s1 else s1.failRead b
    else s

/-- The completion of the burst of line `p` (R71, R72, R75): the engine is free; a discarded burst places nothing. -/
def State.completeBurst (s : State) (p : LineNo) (b : Burst) (readError : Bool) : State :=
  let s1 := s.setEngine b.engine none
  if readError then (s1.modLine p noBurst).readError b
  else if b.discarded then s1.modLine p noBurst
  else s1.placeBurst p b

/-- A burst completion (R71); with no burst in progress there is none (log 3). -/
def State.burstEnd (s : State) (p : LineNo) (readError : Bool) : State :=
  match (s.line p).burst with
  | none => s
  | some b => settleEvent s (s.completeBurst p b readError)

/-! ### The transmitter (R65) -/

/-- The frame the transmitter takes next, and the line without it (R65): the oldest control frame, else
the head of the line FIFO. -/
def takeFrame (l : Line) : Line :=
  match l.control with
  | c :: cs => { l with control := cs, sending := some (.control c) }
  | [] =>
    match l.fifo with
    | f :: fs => { l with fifo := fs, sending := some (.sheet f) }
    | [] => { l with sending := none }

/-- The frame being sent goes out whole (R65, log 14). -/
def State.finishFrame (s : State) (p : LineNo) : State :=
  match (s.line p).sending with
  | some f => { s with lineOut := s.lineOut ++ [(p, f)] }
  | none => s

/-- The transmitter of line `p` is free to begin a frame (R65); the lines send nothing in CONFIGURING (R78). -/
def State.transmit (s : State) (p : LineNo) : State :=
  if s.live = .configuring then s else (s.finishFrame p).modLine p takeFrame

/-- What the transmitter of a line puts on it (R65, R78, R199): nothing in CONFIGURING, the bytes of the frame
being sent, or the line's idle signalling, which is no byte of any frame. -/
inductive LineSignal where
  | silent
  | idle
  | frame (bytes : List Byte)
deriving DecidableEq, Repr

/-- The signal on line `p` (R78, R199): between frames, idle signalling. -/
def State.lineSignal (s : State) (p : LineNo) : LineSignal :=
  if s.live = .configuring then .silent
  else match (s.line p).sending with
    | some f => .frame (lineFrameWire f)
    | none => .idle

/-! ### The meanings -/

/-- SHEET_START (R51). -/
def execSheetStart (p : LineNo) (s : State) : Host.Outcome State Fault Refusal := .next (s.sheetStart p)

/-- BURST_GRANT (R70). -/
def execBurstGrant (s : State) : Host.Outcome State Fault Refusal := .next s.grant

/-- BURST_COMPLETION (R71, R75). -/
def execBurstCompletion (p : LineNo) (readError : Bool) (s : State) : Host.Outcome State Fault Refusal :=
  .next (s.burstEnd p readError)

/-- LINE_TRANSMIT_FRAME (R65). -/
def execLineTransmitFrame (p : LineNo) (s : State) : Host.Outcome State Fault Refusal := .next (s.transmit p)

end Sys2Proof.Machine
end

