-- ==== Sys2Proof/Machine/Ingest.lean ====
section
/-! DEFINITION. The job frames (chapters 1 and 2): JOB_OPEN, SHEET_DATA, SHEET_DATA_STORE_END, SHEET_END, JOB_CLOSE, JOB_CANCEL, and SHOP_FRAME_DROPPED. -/

namespace Sys2Proof.Machine

/-! ### JOB OPEN (R21 to R24) -/

/-- The clamped fields of a JOB OPEN body (R21, section 12.1). -/
structure OpenFields where
  submitterRef : BitVec 16
  account : AccountNo
  kind : Nat
  priority : Nat
  copies : Nat
  mediaSet : BitVec 16
  retain : Bool
  moveRequested : Bool
deriving DecidableEq, Repr

/-- Read and clamp a JOB OPEN body (R21). -/
def openFields (b : List Byte) : OpenFields :=
  { submitterRef := BitVec.ofNat 16 (field b 0 2)
    account := Fin.ofNat 256 (field b 2 1)
    kind := clamp 0 7 (field b 3 1)
    priority := clamp 0 3 (field b 4 1)
    copies := clamp 1 255 (field b 5 1)
    mediaSet := BitVec.ofNat 16 (field b 6 2)
    retain := (BitVec.ofNat 8 (field b 8 1)).getLsbD 0
    moveRequested := (BitVec.ofNat 8 (field b 8 1)).getLsbD 1 }

/-- Is the job a record that a JOB OPEN of this sender and reference repeats (R22)? -/
def isRepeat (src : Station) (ref : BitVec 16) (x : Job) : Bool :=
  decide (x.source = src) && decide (x.submitterRef = ref) && decide (x.run = .new) &&
  decide (x.ingest = .opened) && x.sheets.isEmpty

/-- The route of a job: the first valid ROUTE row that matches (R23). -/
def State.routeFor (s : State) (o : OpenFields) : Option RouteRow :=
  s.route.toList.find? (routeMatches (s.account o.account).cls o.kind o.priority)

/-- A new job record (R24, section 2.1). -/
def newJob (n : Nat) (src : Station) (o : OpenFields) (r : RouteRow) : Job :=
  { number := n
    submitterRef := o.submitterRef
    source := src
    account := o.account
    kind := o.kind
    priority := o.priority
    copies := o.copies
    mediaSet := o.mediaSet
    retain := o.retain
    moveAllowed := r.moveAllowed && o.moveRequested
    group := r.group
    policy := r.policy
    spreadShift := r.spreadShift
    ingest := .opened
    run := .new
    leaveTarget := none
    holdReason := none
    bound := none
    excluded := none
    sheets := []
    dispatch := { copy := 0, sheet := 0 }
    confirm := { copy := 0, sheet := 0 }
    noProgress := 0
    split := 0
    binding := 0
    chargedCost := 0
    confirmedCopies := 0
    confirmedSides := 0 }

/-- Admission of a JOB OPEN (R21): the state, the job number of the reply, the status and the result body. -/
def State.enrol (s : State) (src : Station) (o : OpenFields) : State × Nat × Status × List Byte :=
  match s.jobs.find? (isRepeat src o.submitterRef) with
  | some x => (s, x.number, .duplicate, be 2 o.submitterRef.toNat)
  | none =>
    match s.routeFor o with
    | none => (s, 0, .noRoute, [])
    | some r =>
      if s.jobs.length < Config.jobRecords then
        match allocate (s.jobs.map fun x => x.number) (Config.jobRecords + 1) s.jobCtr with
        | some n =>
          ({ s with jobs := insertJob (newJob n src o r) s.jobs, jobCtr := n }, n, .ok,
            be 2 o.submitterRef.toNat)
        | none => (s, 0, .full, [])
      else (s, 0, .full, [])

/-- JOB OPEN (R21). -/
def takeJobOpen (f : ShopFrame) (s : State) : State :=
  if !s.accepts false f then s
  else match s.jobFormRefusal (fun n => decide (n = 9)) f with
    | some st => s.reply s.settings.port f 0 st []
    | none =>
      let r := s.enrol f.src (openFields (shopBody f))
      (settleEvent s r.1).reply s.settings.port f r.2.1 r.2.2.1 r.2.2.2

/-! ### SHEET DATA (R6 to R10) -/

/-- The received length of sheet `i` of job `j`; 0 when it names no record (R6, log 13). -/
def State.receivedOf (s : State) (j i : Nat) : Nat :=
  match s.job? j with
  | some x => match sheetOf x i with
    | some h => h.received
    | none => 0
  | none => 0

/-- The received-length body of a SHEET DATA reply (R6, section 12.1.2). -/
def State.receivedBody (s : State) (j i : Nat) : List Byte := be 4 (s.receivedOf j i)

/-- The number of blocks that `n` bytes take. -/
def blocksFor (n : Nat) : Nat := (n + (Config.blockBytes - 1)) / Config.blockBytes

/-- The next index accepts a new sheet: there is no open sheet, and `i` is the next index, below 4,096 (R4). -/
def opensAt (x : Job) (i : Nat) : Bool :=
  (openSheet x).isNone && decide (i = completeCount x) && decide (i < 4096)

/-- `i` is the index of the open sheet. -/
def isOpenIndex (x : Job) (i : Nat) : Bool :=
  match openSheet x with
  | some h => decide (h.index = i)
  | none => false

/-- May a segment of sheet `i` take a block (R10)? -/
def State.blockAllowed (s : State) (x : Job) (i : Nat) : Bool :=
  decide (s.settings.ingestFloor < s.free.length) ||
  (decide (0 < s.free.length) && decide (x.run = .feeding) && decide (x.dispatch.sheet = i))

/-- An OPEN sheet record as it is taken from the pool (R9). -/
def freshSheet (j i : Nat) : Sheet :=
  { job := j
    index := i
    state := .opened
    received := 0
    chain := []
    media := 0
    sides := 1
    front := 0
    back := 0 }

/-- Take a block from the head of the free list for the open sheet of job `j`, if the segment needs one (R10). -/
def State.takeBlock (s : State) (j i : Nat) (need : Bool) : State :=
  if need then
    match s.free with
    | [] => s
    | b :: rest =>
      (({ s with free := rest }).modJob j
        (modSheet i fun h => { h with chain := h.chain ++ [b] })).evalSpoolLow
  else s

/-- Begin the store of a segment that has passed every check: record and block are taken, the received
length is raised, and the bytes go to the spool at the store's end (R9, R7, log 10). -/
def State.beginStore (s : State) (x : Job) (i o : Nat) (opens need : Bool) (f : ShopFrame)
    (bytes : List Byte) (L : Nat) : State :=
  let j := x.number
  let s1 := if opens then
      ({ s with pool := s.pool - 1 }).modJob j fun y => { y with sheets := y.sheets ++ [freshSheet j i] }
    else s
  let s2 := s1.takeBlock j i need
  let s3 := s2.modJob j (modSheet i fun h => { h with received := o + bytes.length })
  { s3 with
    stores := s3.stores ++
      [{ job := j, sheet := i, offset := L, bytes := bytes.drop (L - o), frame := f, purge := false }] }

/-- What a job frame does: its changes and, unless a store has begun, its status and result body. -/
abbrev FrameOutcome := State × Option (Status × List Byte)

/-- SHEET DATA for a job (R6): the checks in order, then the store. -/
def State.sheetDataFrame (s : State) (f : ShopFrame) : FrameOutcome :=
  let j := f.job.toNat
  let i := f.sheet.toNat
  let o := f.offset.toNat
  let bytes := shopBody f
  match s.job? j with
  | none => (s, some (.unknownJob, s.receivedBody j i))
  | some x =>
    if x.ingest = .closed ∨ jobKilled x = true then (s, some (.jobEnded, s.receivedBody j i))
    else if !(isOpenIndex x i || opensAt x i) then (s, some (.order, s.receivedBody j i))
    else
      let opens := opensAt x i
      let L := if opens then 0 else s.receivedOf j i
      let top := o + bytes.length
      if top ≤ L then (s, some (.duplicate, s.receivedBody j i))
      else if L < o then (s, some (.gap, s.receivedBody j i))
      else if Config.sheetMax < top then
        let s1 := s.discardOpen j
        (s1, some (.tooLarge, s1.receivedBody j i))
      else
        let need := decide (blocksFor L < blocksFor top)
        if need && !s.blockAllowed x i then (s, some (.noSpace, s.receivedBody j i))
        else if opens && decide (s.pool = 0) then (s, some (.noRecord, s.receivedBody j i))
        else (s.beginStore x i o opens need f bytes L, none)

/-! ### SHEET END (R12, R13) -/

/-- The sides kept from a SHEET END (R13). -/
def keptSides (n : Nat) : Nat := clamp 1 2 n

/-- The class kept from a SHEET END (R13). -/
def keptClass (n : Nat) : Fin 4 := if n ≤ 3 then Fin.ofNat 4 n else 2

/-- The sheet record completed by a SHEET END body (R13). -/
def completedSheet (b : List Byte) (h : Sheet) : Sheet :=
  { h with
    state := .complete
    media := field b 4 1
    sides := keptSides (field b 5 1)
    front := keptClass (field b 6 1)
    back := keptClass (field b 7 1) }

/-- Complete sheet `i` of job `j`, opening it first when it is a zero-length sheet; the first complete
sheet takes a NEW job to the waiting list (R12, R13). -/
def State.completeSheet (s : State) (j i : Nat) (opens : Bool) (b : List Byte) : State :=
  let s1 := if opens then
      ({ s with pool := s.pool - 1 }).modJob j fun y => { y with sheets := y.sheets ++ [freshSheet j i] }
    else s
  let s2 := s1.modJob j (modSheet i (completedSheet b))
  if s2.runIs j (fun r => decide (r = .new)) then s2.enterWaiting j else s2

/-- Is a SHEET END a repeat of the frame that completed the last sheet (R12 step 3)? -/
def repeatsEnd (x : Job) (i total : Nat) : Bool :=
  (openSheet x).isNone && decide (i + 1 = completeCount x) &&
  match sheetOf x i with
  | some h => decide (h.received = total)
  | none => false

/-- SHEET END for a job (R12, R13). -/
def State.sheetEndFrame (s : State) (f : ShopFrame) : FrameOutcome :=
  let j := f.job.toNat
  let i := f.sheet.toNat
  let b := shopBody f
  let total := field b 0 4
  match s.job? j with
  | none => (s, some (.unknownJob, []))
  | some x =>
    if x.ingest = .closed ∨ jobKilled x = true then (s, some (.jobEnded, []))
    else if !(isOpenIndex x i || opensAt x i) then
      (s, some (if repeatsEnd x i total then .duplicate else .order, []))
    else
      let opens := opensAt x i
      let L := if opens then 0 else s.receivedOf j i
      if total ≠ L then (s, some (.length, []))
      else if x.mediaSet.getLsbD (field b 4 1) = false then
        (if opens then s else s.discardOpen j, some (.badMedia, []))
      else if opens && decide (s.pool = 0) then (s, some (.noRecord, []))
      else (s.completeSheet j i opens b, some (.ok, []))

/-! ### JOB CLOSE (R14, R45) -/

/-- A cursor at (0, n), n the complete count, becomes (1, 0) at the close (R45). -/
def closeCursor (n : Nat) (c : Cursor) : Cursor :=
  if c.copy = 0 ∧ c.sheet = n then { copy := 1, sheet := 0 } else c

/-- The effect of the close on the job, by its cursors and run state (R45); a job without a complete
sheet becomes DONE (R14). -/
def State.afterClose (s : State) (j : Nat) : State :=
  match s.job? j with
  | none => s
  | some x =>
    if completeCount x = 0 then s.complete j
    else if jobLive x && atEnd x x.confirm then s.complete j
    else if x.run = .feeding ∧ atEnd x x.dispatch = true then
      match x.bound with
      | some p => (s.modJob j fun y => { y with run := .draining }).rechoose p
      | none => s
    else s

/-- JOB CLOSE for a job (R14). -/
def State.jobCloseFrame (s : State) (f : ShopFrame) : FrameOutcome :=
  let j := f.job.toNat
  match s.job? j with
  | none => (s, some (.unknownJob, []))
  | some x =>
    if jobKilled x then (s, some (.jobEnded, []))
    else if x.ingest = .closed then (s, some (.duplicate, []))
    else
      let count := if (openSheet x).isSome then 1 else 0
      let n := completeCount x
      let s1 := (s.discardOpen j).modJob j fun y =>
        { y with
          ingest := .closed
          dispatch := closeCursor n y.dispatch
          confirm := closeCursor n y.confirm }
      (s1.afterClose j, some (.ok, be 1 count))

/-! ### Cancel (R39, R40) -/

/-- Cancel a live job (R40): the shared changes of an ended job, then the flush of its entries, or the
release of its storage when it has none. -/
def State.cancelLive (s : State) (j : Nat) : State :=
  let s1 := s.kill j .cancelled
  match s1.entryLine j with
  | some p => s1.requestFlush p .cancel
  | none => s1.releaseStorage j

/-- CANCEL JOB on a job record (R40): the changes and the status. -/
def State.cancel (s : State) (x : Job) : State × Status :=
  if x.run = .cancelled then (s, .ok)
  else if x.run = .done ∨ x.run = .failed then (s, .badState)
  else (s.cancelLive x.number, .ok)

/-- JOB CANCEL for a job (R39). -/
def State.jobCancelFrame (s : State) (f : ShopFrame) : FrameOutcome :=
  match s.job? f.job.toNat with
  | none => (s, some (.unknownJob, []))
  | some x =>
    if decide (f.src ≠ x.source) && !s.isManager f.src then (s, some (.notPermitted, []))
    else
      let r := s.cancel x
      (r.1, some (r.2, []))

/-! ### The order of the job frames of one job (R6, R11, R183) -/

/-- The form of each kind's body (section 12.1): the body sizes. -/
def bodyFits : JobFrame → Nat → Bool
  | .sheetData, n => decide (1 ≤ n) && decide (n ≤ 1024)
  | .sheetEnd, n => decide (n = 8)
  | .jobClose, n => decide (n = 0)
  | .jobCancel, n => decide (n = 0)

/-- What a job frame of each kind does. -/
def State.jobFrame (s : State) (k : JobFrame) (f : ShopFrame) : FrameOutcome :=
  match k with
  | .sheetData => s.sheetDataFrame f
  | .sheetEnd => s.sheetEndFrame f
  | .jobClose => s.jobCloseFrame f
  | .jobCancel => s.jobCancelFrame f

/-- The job a held item belongs to. -/
def heldJob : Held → Nat
  | .frame _ f => f.job.toNat
  | .answer f _ _ => f.job.toNat

/-- Is a held item a frame that has still to be checked? -/
def heldIsFrame : Held → Bool
  | .frame _ _ => true
  | .answer _ _ _ => false

/-- Do replies of job `j` wait behind a store, so that a later reply of the job must follow them? -/
def State.queued (s : State) (j : Nat) : Bool :=
  s.storing j || s.held.any fun h => decide (heldJob h = j)

/-- Does a frame of kind `k` for job `j` have to wait before it is checked (R6)? A JOB CANCEL acts
during the store (R11), unless an earlier frame of the job still waits (log 11). A MANAGE request does not
wait: one for the same job, received after a JOB CANCEL that waits so, is taken before it (log 11,
DESIGN CHOICE: R35 takes requests in the order received and R6 and R11 do not say which comes first). -/
def State.mustWait (s : State) (k : JobFrame) (j : Nat) : Bool :=
  match k with
  | .jobCancel => s.held.any fun h => heldIsFrame h && decide (heldJob h = j)
  | .sheetData => s.queued j
  | .sheetEnd => s.queued j
  | .jobClose => s.queued j

/-- Put an item behind the store of its job. -/
def State.hold (s : State) (h : Held) : State := { s with held := s.held ++ [h] }

/-- Answer a job frame: at once, or behind the replies of earlier frames of its job (R183). -/
def State.answerJob (s : State) (port : PortSettings) (f : ShopFrame) (st : Status) (body : List Byte) :
    State :=
  if s.queued f.job.toNat then s.hold (.answer f st body) else s.reply port f f.job.toNat st body

/-- Check and carry out a job frame whose turn has come; the store of a segment sends no reply yet. -/
def State.doJobFrame (s : State) (k : JobFrame) (f : ShopFrame) : State :=
  let r := s.jobFrame k f
  let s1 := settleEvent s r.1
  match r.2 with
  | some (st, body) => s1.answerJob s.settings.port f st body
  | none => s1

/-- Take a job frame that names its job: acceptance, form, its turn (R180, R197, R6). -/
def takeJobFrame (k : JobFrame) (f : ShopFrame) (s : State) : State :=
  if !s.accepts false f then s
  else match s.jobFormRefusal (bodyFits k) f with
    | some st => s.answerJob s.settings.port f st []
    | none =>
      if s.mustWait k f.job.toNat then s.hold (.frame k f) else s.doJobFrame k f

/-! ### The end of a store (R11) -/

/-- Write the bytes of a store into the spool. -/
def State.writeStore (s : State) (t : Store) : State :=
  match s.job? t.job with
  | some x => match sheetOf x t.sheet with
    | some h => { s with dram := writeChain h.chain t.offset t.bytes s.dram }
    | none => s
  | none => s

/-- One held item once its job's earlier store has ended: kept while a store of its job is under way,
else answered or taken. A JOB CANCEL that waited behind a segment waits for that segment's store too (log 11,
DESIGN CHOICE: by R6 it would wait, by R11 it would act during the store). -/
def State.takeHeld (s : State) (h : Held) : State :=
  match h with
  | .answer f st body =>
    if s.queued f.job.toNat then s.hold h else s.reply s.settings.port f f.job.toNat st body
  | .frame k f =>
    if s.queued f.job.toNat then s.hold h else s.doJobFrame k f

/-- Take the held items again, in order (R6). -/
def State.drainHeld (s : State) : State :=
  s.held.foldl State.takeHeld { s with held := [] }

/-- What waits on a store takes effect when it ends: the discard of an ended job's open sheet, and a
purge (R11, R41), which comes before the job's waiting frames (log 42, DESIGN CHOICE). -/
def State.afterStore (s : State) (t : Store) : State :=
  match s.job? t.job with
  | some x =>
    let s1 := if jobKilled x then s.discardOpen t.job else s
    if t.purge then s1.purge t.job else s1
  | none => s

/-- The end of the store of job `j` (R11): bytes in the spool, reply, then what waited on it: the discard and the
purge first, the job's waiting frames after them (log 42, DESIGN CHOICE: R6, R11 and R41 do not order the two). -/
def storeEnd (j : Nat) (s : State) : State :=
  match s.stores.find? (fun t => decide (t.job = j)) with
  | none => s
  | some t =>
    let s1 := { s.writeStore t with stores := s.stores.filter fun u => decide (u.job ≠ j) }
    let s2 := s1.reply s.settings.port t.frame j .ok (s1.receivedBody j t.sheet)
    (settleEvent s (s2.afterStore t)).drainHeld

/-! ### The meanings -/

/-- JOB_OPEN (R21). -/
def execJobOpen (f : ShopFrame) (s : State) : Host.Outcome State Fault Refusal := .next (takeJobOpen f s)

/-- SHEET_DATA (R6). -/
def execSheetData (f : ShopFrame) (s : State) : Host.Outcome State Fault Refusal :=
  .next (takeJobFrame .sheetData f s)

/-- SHEET_DATA_STORE_END (R11); without a store of the job under way there is no such event (log 3). -/
def execSheetDataStoreEnd (j : Nat) (s : State) : Host.Outcome State Fault Refusal := .next (storeEnd j s)

/-- SHEET_END (R12). -/
def execSheetEnd (f : ShopFrame) (s : State) : Host.Outcome State Fault Refusal :=
  .next (takeJobFrame .sheetEnd f s)

/-- JOB_CLOSE (R14). -/
def execJobClose (f : ShopFrame) (s : State) : Host.Outcome State Fault Refusal :=
  .next (takeJobFrame .jobClose f s)

/-- JOB_CANCEL (R39). -/
def execJobCancel (f : ShopFrame) (s : State) : Host.Outcome State Fault Refusal :=
  .next (takeJobFrame .jobCancel f s)

/-- SHOP_FRAME_DROPPED: no reply and no effect (R180). -/
def execShopFrameDropped (_f : EtherFrame) (s : State) : Host.Outcome State Fault Refusal := .next s

end Sys2Proof.Machine
end

