-- ==== Sys2Proof/Machine/JobControl.lean ====
section
/-! DEFINITION. The job control requests (chapter 2, R35 to R42): HOLD_JOB, RELEASE_JOB, CANCEL_JOB, PURGE_JOB, REPRINT_JOB, MOVE_JOB. -/

namespace Sys2Proof.Machine

/-- A job control request on the job its arguments name (R35). -/
def onJob (act : State → Job → State × Status) (args : List Byte) (s : State) : Outcome3 :=
  match s.job? (argJob args) with
  | none => refuse s .unknownJob
  | some x =>
    let r := act s x
    (r.1, r.2, [])

/-- A job becomes HELD for the operator, out of the waiting list (R36). -/
def State.holdWaiting (s : State) (j : Nat) : State :=
  (s.leaveWaiting j).modJob j fun x => { x with run := .held, holdReason := some .operator }

/-- A job toward HELD takes the reason OPERATOR and leaves its account's quota-held list (R36, R132). -/
def State.holdOperator (s : State) (x : Job) : State :=
  (s.modJob x.number fun y => { y with holdReason := some .operator }).leaveQuota x.account x.number

/-- HOLD JOB (R36). -/
def holdAct (s : State) (x : Job) : State × Status :=
  match x.run with
  | .new => (s.holdWaiting x.number, .ok)
  | .waiting => (s.holdWaiting x.number, .ok)
  | .queued => (s.startLeaving x.number .held (some .operator), .ok)
  | .feeding => (s.startLeaving x.number .held (some .operator), .ok)
  | .draining => (s.startLeaving x.number .held (some .operator), .ok)
  | .leaving =>
    if x.leaveTarget = some .held then
      (if x.holdReason = some .quota then s.holdOperator x else s, .ok)
    else
      (s.modJob x.number fun y => { y with leaveTarget := some .held, holdReason := some .operator }, .ok)
  | .held => (if x.holdReason = some .quota then s.holdOperator x else s, .ok)
  | .done => (s, .badState)
  | .failed => (s, .badState)
  | .cancelled => (s, .badState)

/-- RELEASE JOB (R37). -/
def releaseAct (s : State) (x : Job) : State × Status :=
  match x.run with
  | .held =>
    let s1 := s.leaveQuota x.account x.number
    if completeCount x = 0 then
      (s1.modJob x.number fun y => { y with run := .new, holdReason := none }, .ok)
    else (s1.enterWaiting x.number, .ok)
  | .leaving =>
    if x.leaveTarget = some .held then
      ((s.leaveQuota x.account x.number).modJob x.number fun y =>
        { y with leaveTarget := some .waiting, holdReason := none }, .ok)
    else (s, .badState)
  | .new => (s, .badState)
  | .waiting => (s, .badState)
  | .queued => (s, .badState)
  | .feeding => (s, .badState)
  | .draining => (s, .badState)
  | .done => (s, .badState)
  | .failed => (s, .badState)
  | .cancelled => (s, .badState)

/-- Mark the store of a job with a purge (R41). -/
def State.markPurge (s : State) (j : Nat) : State :=
  { s with stores := s.stores.map fun t => if t.job = j then { t with purge := true } else t }

/-- PURGE JOB (R41). -/
def purgeAct (s : State) (x : Job) : State × Status :=
  if jobLive x then (s, .badState)
  else if s.hasEntries x.number then (s, .busy)
  else if s.storing x.number then (s.markPurge x.number, .ok)
  else (s.purge x.number, .ok)

/-- The job record at a REPRINT JOB, before it enters the waiting list (R42). -/
def reprinted (n : Nat) (x : Job) : Job :=
  { x with
    copies := clamp 1 255 n
    dispatch := { copy := 0, sheet := 0 }
    confirm := { copy := 0, sheet := 0 }
    noProgress := 0
    binding := 0 }

/-- REPRINT JOB with copy count `n` (R42). -/
def reprintAct (n : Nat) (s : State) (x : Job) : State × Status :=
  if x.run = .done ∧ x.retain = true ∧ 1 ≤ completeCount x then
    ((s.modJob x.number (reprinted n)).enterWaiting x.number, .ok)
  else (s, .badState)

/-- The group of a job becomes `g`. -/
def State.setGroup (s : State) (j : Nat) (g : Fin 8) : State := s.modJob j fun x => { x with group := g }

/-- MOVE JOB to group `g` (R38). -/
def moveAct (g : Fin 8) (s : State) (x : Job) : State × Status :=
  let s1 := s.setGroup x.number g
  match x.run with
  | .new => (s1, .ok)
  | .held => (s1, .ok)
  | .waiting =>
    ((s1.modJob x.number fun y => { y with excluded := none }).wantPass, .ok)
  | .queued => (s1.startLeaving x.number .waiting none, .ok)
  | .feeding => (s1.startLeaving x.number .waiting none, .ok)
  | .draining => (s1.startLeaving x.number .waiting none, .ok)
  | .leaving =>
    if x.leaveTarget = some .held then (s1, .ok)
    else (s1.modJob x.number fun y => { y with leaveTarget := some .waiting }, .ok)
  | .done => (s, .badState)
  | .failed => (s, .badState)
  | .cancelled => (s, .badState)

/-- MOVE JOB: the group range comes before the job (R38, log 20). -/
def moveJobAct (args : List Byte) (s : State) : Outcome3 :=
  let g := field args 2 1
  if h : g < 8 then onJob (moveAct ⟨g, h⟩) args s else refuse s .badRequest

/-! ### The meanings -/

/-- HOLD_JOB (R36). -/
def execHoldJob (f : ShopFrame) (s : State) : Host.Outcome State Fault Refusal :=
  .next (manage false (sized 2) argJob (onJob holdAct) f s)

/-- RELEASE_JOB (R37). -/
def execReleaseJob (f : ShopFrame) (s : State) : Host.Outcome State Fault Refusal :=
  .next (manage false (sized 2) argJob (onJob releaseAct) f s)

/-- CANCEL_JOB (R40). -/
def execCancelJob (f : ShopFrame) (s : State) : Host.Outcome State Fault Refusal :=
  .next (manage false (sized 2) argJob (onJob State.cancel) f s)

/-- PURGE_JOB (R41). -/
def execPurgeJob (f : ShopFrame) (s : State) : Host.Outcome State Fault Refusal :=
  .next (manage false (sized 2) argJob (onJob purgeAct) f s)

/-- REPRINT_JOB (R42). -/
def execReprintJob (f : ShopFrame) (s : State) : Host.Outcome State Fault Refusal :=
  .next (manage false (sized 4) argJob (fun args => onJob (reprintAct (field args 2 2)) args) f s)

/-- MOVE_JOB (R38). -/
def execMoveJob (f : ShopFrame) (s : State) : Host.Outcome State Fault Refusal :=
  .next (manage false (sized 3) argJob moveJobAct f s)

end Sys2Proof.Machine
end

