-- ==== Sys2Proof/Machine/Manage.lean ====
section
/-! DEFINITION. The management unit's own requests (chapter 11): GO_LIVE, READ_STATUS, the table window, UNKNOWN_REQUEST_CODE. -/

namespace Sys2Proof.Machine

/-! ### GO LIVE (R185) -/

/-- RESYNC made on a line that is not RETIRED (R101). -/
def resyncLine (l : Line) : Line :=
  if l.state = .retired then l else { l with control := l.control ++ [.resync] }

/-- GO LIVE (R185): in LIVE, no change. -/
def goLiveAct (_args : List Byte) (s : State) : Outcome3 :=
  if s.live = .live then (s, .ok, [])
  else ({ s with live := .live }.mapLines fun _ l => resyncLine l, .ok, [])

/-! ### READ STATUS (R186 to R188) -/

/-- A single figure of a READ STATUS body: 8 bytes (section 12.1.2). -/
def figure (n : Nat) : List Byte := be 8 n

/-- An absent figure: all ones. -/
def absentFigure : List Byte := be 8 (2 ^ 64 - 1)

/-- A figure that may be absent. -/
def optFigure (o : Option Nat) : List Byte :=
  match o with
  | some n => figure n
  | none => absentFigure

/-- A flag as a figure. -/
def flagFigure (b : Bool) : List Byte := figure (flagCell b)

/-- A list: a 2-byte count and packed elements (section 12.1.2). -/
def packedList {α : Type} (l : List α) (element : α → List Byte) : List Byte :=
  be 2 l.length ++ l.flatMap element

/-- A table window position as two figures; its end is row 65,535, cell 255. -/
def posFigures : WindowPos → List Byte
  | some (r, c) => figure r ++ figure c
  | none => figure 65535 ++ figure 255

/-- The table window's nine figures, all absent without a window (R186). -/
def windowFigures : Option Window → List Byte
  | some w =>
    figure (tableNumber w.table) ++ figure w.firstRow ++ figure w.lastRow ++ figure w.firstCell ++
    figure w.lastCell ++ posFigures w.write ++ posFigures w.read
  | none => (List.replicate 9 absentFigure).flatten

/-- The readout buffer's two figures, both absent when empty (R186). -/
def readoutFigures : Option Snapshot → List Byte
  | some n => figure (meterScopeCode n.scope) ++ figure n.next
  | none => absentFigure ++ absentFigure

/-- Scope PART (R186). -/
def State.partStatus (s : State) : List Byte :=
  figure (Config.partStateCode s.live).toNat ++ figure s.settings.port.station.toNat ++
  figure s.free.length ++ figure s.quarantine.length ++ figure s.pool ++
  figure s.jobs.length ++ figure s.jobCtr ++ packedList s.waiting (be 2) ++
  figure s.alerts.length ++ figure s.cleared.length ++ figure s.alertCtr ++
  flagFigure s.spoolLow ++ (allLines.flatMap fun p => be 1 (lineStateCode (s.line p).state)) ++
  readoutFigures s.readout ++ windowFigures s.window ++ figure s.timeBase.toNat

/-- An element of the job queue list (section 12.1.2). -/
def State.queueElement (s : State) (j : Nat) : List Byte :=
  match s.job? j with
  | some x => be 2 j ++ be 1 (runStateCode x.run) ++ be 1 x.priority
  | none => be 2 j ++ be 1 0 ++ be 1 0

/-- An element of the in-flight list (section 12.1.2). -/
def entryElement (e : Entry) : List Byte :=
  be 2 e.job ++ be 1 e.copy ++ be 2 e.sheet ++ [e.tag] ++ be 4 e.cost ++ be 1 e.sides ++ be 4 e.moved ++
  [flagByte e.flushing]

/-- Scope PRINTER (R187). -/
def State.printerStatus (s : State) (p : LineNo) : List Byte :=
  let l := s.line p
  figure (lineStateCode l.state) ++
  (if l.state = .blocked then
    optFigure (l.blockOrigin.map blockOriginCode) ++ flagFigure l.flushedDuringBlock
   else absentFigure ++ absentFigure) ++
  (if flushPending l.flush then figure (Config.purposesCode l.flush).toNat else absentFigure) ++
  flagFigure l.readySeen ++ flagFigure l.standbyPending ++
  figure (Config.conditionsCode l.conditions).toNat ++ (be 1 l.statusText.length ++ l.statusText) ++
  optFigure (l.jamTag.map fun t => t.toNat) ++
  flagFigure l.stalled ++ figure l.pace ++ flagFigure l.armed ++
  figure l.credits ++ figure l.capacity ++ figure (fifoFill l.fifo) ++ figure l.modelCode.toNat ++
  figure l.tagCtr.toNat ++ packedList l.queue s.queueElement ++ optFigure l.feeding ++
  packedList l.inflight entryElement

/-- The place of a number in a list, counted from 0. -/
def placeIn (j : Nat) : List Nat → Option Nat
  | [] => none
  | k :: l => if k = j then some 0 else (placeIn j l).map (· + 1)

/-- Scope JOB (R188). -/
def State.jobStatus (s : State) (x : Job) : List Byte :=
  figure x.submitterRef.toNat ++ figure x.source.toNat ++ figure x.account.val ++ figure x.kind ++
  figure x.priority ++ figure x.copies ++ figure x.mediaSet.toNat ++ flagFigure x.retain ++
  flagFigure x.moveAllowed ++
  figure x.group.val ++ figure (policyCode x.policy) ++ figure x.spreadShift ++
  figure (ingestCode x.ingest) ++ figure (runStateCode x.run) ++
  optFigure (x.leaveTarget.map fun t => (Config.leaveTargetCode t).toNat) ++
  optFigure (x.holdReason.map fun r => (Config.holdReasonCode r).toNat) ++
  optFigure (x.bound.map fun p => p.val) ++ optFigure (x.excluded.map fun p => p.val) ++
  figure x.dispatch.copy ++ figure x.dispatch.sheet ++ figure x.confirm.copy ++ figure x.confirm.sheet ++
  figure (completeCount x) ++
  optFigure ((openSheet x).map fun h => h.index) ++ optFigure ((openSheet x).map fun h => h.received) ++
  figure (x.sheets.map fun h => h.chain.length).sum ++
  figure x.noProgress ++ figure x.split ++ figure x.binding ++
  figure x.chargedCost ++ figure x.confirmedCopies ++ figure x.confirmedSides ++
  optFigure (placeIn x.number s.waiting) ++
  flagFigure (decide (x.number ∈ (s.account x.account).quotaHeld))

/-- READ STATUS (R186): scope PART 0, PRINTER 1, JOB 2. -/
def readStatusAct (args : List Byte) (s : State) : Outcome3 :=
  let n := field args 1 2
  match field args 0 1 with
  | 0 => (s, .ok, s.partStatus)
  | 1 => if h : n < 16 then (s, .ok, s.printerStatus ⟨n, h⟩) else refuse s .badRequest
  | 2 => match s.job? n with
    | some x => (s, .ok, s.jobStatus x)
    | none => refuse s .unknownJob
  | _ => refuse s .badRequest

/-- The job of a READ STATUS of scope JOB (R183, log 19). -/
def statusJob (args : List Byte) : Nat := if field args 0 1 = 2 then field args 1 2 else 0

/-! ### The table window (R189 to R192) -/

/-- TABLE WINDOW (R189). -/
def tableWindowAct (args : List Byte) (s : State) : Outcome3 :=
  match tableOf (field args 0 1) with
  | none => refuse s .badWindow
  | some t =>
    let r0 := field args 1 2
    let r1 := min (field args 3 2) (tableRows t - 1)
    let c0 := field args 5 1
    let c1 := min (field args 6 1) (tableCells t - 1)
    if r1 < r0 ∨ c1 < c0 then refuse s .badWindow
    else
      let w : Window :=
        { table := t
          firstRow := r0
          lastRow := r1
          firstCell := c0
          lastCell := c1
          write := some (r0, c0)
          read := some (r0, c0) }
      ({ s with window := some w }, .ok,
        be 1 (tableNumber t) ++ be 2 r0 ++ be 2 r1 ++ be 1 c0 ++ be 1 c1)

/-- The values of a TABLE WRITE argument body. -/
def writeArgs (args : List Byte) : List Nat := valueList (field args 0 1) (args.drop 1)

/-- TABLE WRITE from the window's start, TABLE WRITE CONTINUE from the write cursor (R190). -/
def tableWriteAct (fromStart : Bool) (args : List Byte) (s : State) : Outcome3 :=
  match s.window with
  | none => refuse s .badWindow
  | some w =>
    let r := s.writeValues w (if fromStart then windowStart w else w.write) (writeArgs args)
    (r.1, .ok, r.2)

/-- TABLE READ from the window's start, TABLE READ CONTINUE from the read cursor (R192). -/
def tableReadAct (fromStart : Bool) (_args : List Byte) (s : State) : Outcome3 :=
  match s.window with
  | none => refuse s .badWindow
  | some w => s.readFrom w (if fromStart then windowStart w else w.read)

/-! ### The meanings -/

/-- GO_LIVE (R185). -/
def execGoLive (f : ShopFrame) (s : State) : Host.Outcome State Fault Refusal :=
  .next (manage false (sized 0) noJob goLiveAct f s)

/-- READ_STATUS (R186), taken by broadcast too (R180). -/
def execReadStatus (f : ShopFrame) (s : State) : Host.Outcome State Fault Refusal :=
  .next (manage true (sized 3) statusJob readStatusAct f s)

/-- TABLE_WINDOW (R189). -/
def execTableWindow (f : ShopFrame) (s : State) : Host.Outcome State Fault Refusal :=
  .next (manage false (sized 7) noJob tableWindowAct f s)

/-- TABLE_WRITE (R190). -/
def execTableWrite (f : ShopFrame) (s : State) : Host.Outcome State Fault Refusal :=
  .next (manage false writeSized noJob (tableWriteAct true) f s)

/-- TABLE_WRITE_CONTINUE (R190). -/
def execTableWriteContinue (f : ShopFrame) (s : State) : Host.Outcome State Fault Refusal :=
  .next (manage false writeSized noJob (tableWriteAct false) f s)

/-- TABLE_READ (R192). -/
def execTableRead (f : ShopFrame) (s : State) : Host.Outcome State Fault Refusal :=
  .next (manage false (sized 0) noJob (tableReadAct true) f s)

/-- TABLE_READ_CONTINUE (R192). -/
def execTableReadContinue (f : ShopFrame) (s : State) : Host.Outcome State Fault Refusal :=
  .next (manage false (sized 0) noJob (tableReadAct false) f s)

/-- UNKNOWN_REQUEST_CODE (R182): the form checks in order, then BAD REQUEST; nothing changes. -/
def unknownRequest (f : ShopFrame) (s : State) : State :=
  if !s.accepts false f then s
  else if !headerOk f f.rest.length then s.reply s.settings.port f 0 .badRequest []
  else if !s.isManager f.src then s.reply s.settings.port f 0 .notPermitted []
  else s.reply s.settings.port f 0 .badRequest []

/-- UNKNOWN_REQUEST_CODE (R182). -/
def execUnknownRequestCode (f : ShopFrame) (s : State) : Host.Outcome State Fault Refusal :=
  .next (unknownRequest f s)

end Sys2Proof.Machine
end

