-- ==== Sys2Proof/Machine/PrinterControl.lean ====
section
/-! DEFINITION. The printer control requests (chapter 5): STANDBY, WAKE, RETIRE, RETURN. -/

namespace Sys2Proof.Machine

/-- A printer control request on the printer its argument names; above 15 it is refused BAD REQUEST. -/
def onPrinter (act : State → LineNo → State × Status) (args : List Byte) (s : State) : Outcome3 :=
  match printerField args with
  | none => refuse s .badRequest
  | some p =>
    let r := act s p
    (r.1, r.2, [])

/-- STANDBY (R88). -/
def standbyAct (s : State) (p : LineNo) : State × Status :=
  let l := s.line p
  if l.state = .standby then (s, .ok)
  else if l.state = .ready ∧ flushPending l.flush = false then
    if l.queue ≠ [] ∨ l.inflight ≠ [] then (s, .busy)
    else if timerRuns l.minAwake then
      (s.modLine p fun l => { l with standbyPending := true }, .ok)
    else (s.enterStandby p, .ok)
  else (s, .badState)

/-- WAKE (R89). -/
def wakeAct (s : State) (p : LineNo) : State × Status :=
  if (s.line p).state = .standby then (s.enterWaking p true, .ok) else (s, .ok)

/-- Enter RETIRING (R97). -/
def State.enterRetiring (s : State) (p : LineNo) : State := s.modLine p retiringLine

/-- RETIRE on a READY or WAKING line (R97). -/
def State.retireServing (s : State) (p : LineNo) : State :=
  let l := s.line p
  if l.inflight ≠ [] ∨ flushPending l.flush = true then s.enterRetiring p else s.enterRetired p

/-- RETIRE (R97): every case replies OK. -/
def retireAct (s : State) (p : LineNo) : State × Status :=
  match (s.line p).state with
  | .ready => (s.retireServing p, .ok)
  | .waking => (s.retireServing p, .ok)
  | .down => (s.enterRetired p, .ok)
  | .standby => (s.enterRetired p, .ok)
  | .blocked => ((s.enterRetiring p).requestFlush p .retire, .ok)
  | .retiring => (s.requestFlush p .retire, .ok)
  | .retired => (s, .ok)

/-- The line record at RETURN: DOWN, no credit, and RESYNC made when the part is LIVE (R99). -/
def returnedLine (st : PartState) (l : Line) : Line :=
  { l with
    state := .down
    credits := 0
    control := if st = .live then l.control ++ [.resync] else l.control }

/-- RETURN (R99); the FIFO of the line stays as it is (log 37, DEDUCED). -/
def returnAct (s : State) (p : LineNo) : State × Status :=
  if (s.line p).state = .retired then (s.modLine p (returnedLine s.live), .ok) else (s, .badState)

/-! ### The meanings -/

/-- STANDBY (R88). -/
def execStandbyRequest (f : ShopFrame) (s : State) : Host.Outcome State Fault Refusal :=
  .next (manage false (sized 1) noJob (onPrinter standbyAct) f s)

/-- WAKE (R89). -/
def execWakeRequest (f : ShopFrame) (s : State) : Host.Outcome State Fault Refusal :=
  .next (manage false (sized 1) noJob (onPrinter wakeAct) f s)

/-- RETIRE (R97). -/
def execRetireRequest (f : ShopFrame) (s : State) : Host.Outcome State Fault Refusal :=
  .next (manage false (sized 1) noJob (onPrinter retireAct) f s)

/-- RETURN (R99). -/
def execReturnRequest (f : ShopFrame) (s : State) : Host.Outcome State Fault Refusal :=
  .next (manage false (sized 1) noJob (onPrinter returnAct) f s)

end Sys2Proof.Machine
end

