-- ==== Sys2Proof/Machine/PrinterFrames.lean ====
section
/-! DEFINITION. The frames of the printers (chapters 3 to 6 and 8): HELLO, CREDIT, SHEET_DONE, STATUS, READY, FLUSHED, and the receive events LINE_FRAME_DISCARDED and IDLE_SIGNALLING. -/

namespace Sys2Proof.Machine

/-! ### Receiving (R78, R95) -/

/-- Receive activity restarts a running silence monitor (R95). -/
def heard (l : Line) : Line :=
  { l with silence := if timerRuns l.silence then .running Config.silenceMs else l.silence }

/-- Receive activity on line `p`: every frame is discarded in CONFIGURING; in LIVE the silence monitor
restarts, the frame acts, and the event ends (R78). -/
def lineEvent (p : LineNo) (act : State → State) (s : State) : State :=
  if s.live = .configuring then s else settleEvent s (act (s.modLine p heard))

/-- Does the line take frames other than HELLO and CREDIT (R78)? -/
def takesFrames (l : Line) : Bool := !(decide (l.state = .down) || decide (l.state = .retired))

/-! ### HELLO (R81, R95, R98) -/

/-- HELLO by line state (R78). -/
def State.hello (s : State) (p : LineNo) (capacity nominalPace modelCode : BitVec 16) : State :=
  match (s.line p).state with
  | .down => s.linkUp p capacity nominalPace modelCode
  | .waking => (s.loseLine p false).linkUp p capacity nominalPace modelCode
  | .ready => (s.loseLine p false).linkUp p capacity nominalPace modelCode
  | .standby => (s.loseLine p false).linkUp p capacity nominalPace modelCode
  | .blocked => (s.loseLine p false).linkUp p capacity nominalPace modelCode
  | .retiring => s.loseLine p false
  | .retired => s

/-! ### CREDIT (R68) -/

/-- The credit count after a CREDIT of `n` (R68). -/
def creditLine (n : Nat) (l : Line) : Line := { l with credits := min l.capacity (l.credits + n) }

/-- CREDIT: taken in every state but DOWN (R68). -/
def State.credit (s : State) (p : LineNo) (n : Nat) : State :=
  if (s.line p).state = .down then s else s.modLine p (creditLine n)

/-! ### SHEET DONE (R53, R54) -/

/-- Open PROTOCOL FAULT for a printer, with the oldest entry's reference (R154). -/
def State.protocolFault (s : State) (p : LineNo) : State :=
  s.openAlert .protocolFault (.printer p)
    { Detail.none with ref := (s.line p).inflight.head?.map entryRef }

/-- Does a SHEET DONE of this tag match the oldest entry, and if so, which is it (R53)? -/
def State.matching (s : State) (p : LineNo) (tag : Byte) : Option Entry :=
  match (s.line p).inflight with
  | [] => none
  | e :: _ => if e.tag = tag ∧ e.moved = s.entryLength e then some e else none

/-- The pace after a confirmation (R105 step 1). -/
def confirmedPace (now : BitVec 32) (l : Line) : Nat :=
  if l.armed then smoothPace l.pace (paceSample now l.lastDone) else l.pace

/-- The pace unit and the stall timer at a confirmation, the entry already removed (R104, R105, R110). -/
def paceLine (now : BitVec 32) (t : Settings) (l : Line) : Line :=
  { l with
    pace := confirmedPace now l
    lastDone := now
    armed := decide (l.state = .ready) && !flushPending l.flush && !l.inflight.isEmpty
    stall :=
      if l.inflight = [] then .stopped
      else if l.state = .ready then timerStart (stallDeadline t (confirmedPace now l))
      else l.stall }

/-- The job record at a confirmation (R54 step 3). -/
def confirmedJob (x : Job) : Job :=
  { x with confirm := advance x x.confirm, noProgress := 0, binding := x.binding + 1 }

/-- The blocks of the sheet return when its last copy is confirmed and the job is not retained (R54 step 5, R16). -/
def State.freeConfirmed (s : State) (e : Entry) : State :=
  match s.job? e.job with
  | some x => if e.copy + 1 = x.copies ∧ x.retain = false then s.freeSheetBlocks e.job e.sheet else s
  | none => s

/-- The follow-up of the job's run state (R54 step 6). -/
def State.followUp (s : State) (j : Nat) : State :=
  match s.job? j with
  | some x =>
    if x.run = .draining ∧ atEnd x x.confirm = true then s.complete j
    else if x.run = .leaving then s.endLeaving j
    else s.releaseIfKilled j
  | none => s

/-- Confirm the oldest entry of `p` (R54), and retire the line if that empties it (R98). -/
def State.confirm (s : State) (p : LineNo) (e : Entry) : State :=
  let s1 := s.modLine p fun l => { l with inflight := l.inflight.tail }
  let s2 := (s1.convertEntry p e).modJob e.job confirmedJob
  let s3 := (s2.modLine p (paceLine s.timeBase s.settings)).clearStall p
  ((s3.freeConfirmed e).followUp e.job).retireIfEmpty p

/-- SHEET DONE (R53): confirmed, or a protocol fault with a FAULT flush. -/
def State.sheetDone (s : State) (p : LineNo) (tag : Byte) : State :=
  if takesFrames (s.line p) then
    match s.matching p tag with
    | some e => s.confirm p e
    | none => (s.protocolFault p).requestFlush p .fault
  else s

/-! ### STATUS (R141 to R147) -/

/-- The sheet reference of a JAM raise (R144). -/
def jamRef (l : Line) : Option SheetRef :=
  let named := match l.jamTag with
    | some t => l.inflight.find? fun e => decide (e.tag = t)
    | none => none
  match named with
  | some e => some (entryRef e)
  | none => l.inflight.head?.map entryRef

/-- The line's act at a JAM raise (R143 step 3). -/
def State.jamEffect (s : State) (p : LineNo) : State :=
  match (s.line p).state with
  | .ready => (s.enterBlocked p .ready).requestFlush p .block
  | .waking => (s.enterBlocked p .waking).requestFlush p .block
  | .blocked => s.requestFlush p .block
  | .standby => s
  | .retiring => s.requestFlush p .retire
  | .down => s
  | .retired => s

/-- The line's act at a DOOR OPEN or MEDIA OUT raise (R145). -/
def State.stopEffect (s : State) (p : LineNo) : State :=
  match (s.line p).state with
  | .ready => s.enterBlocked p .ready
  | .waking => s.enterBlocked p .waking
  | .blocked => s
  | .standby => s
  | .retiring => s.requestFlush p .retire
  | .down => s
  | .retired => s

/-- A raise that adds its condition (R143, R145, R146). -/
def State.raiseCondition (s : State) (p : LineNo) (r : PatternRow) (report : List Byte) : State :=
  let s1 := s.modLine p fun l => { l with conditions := setCondition l.conditions r.kind true }
  match r.kind with
  | .jam =>
    let s2 := s1.modLine p fun l => { l with jamTag := namedTag r report }
    (s2.openAlert .jam (.printer p)
      { Detail.none with text := some report, ref := jamRef (s2.line p) }).jamEffect p
  | .doorOpen => (s1.openAlert .doorOpen (.printer p) { Detail.none with text := some report }).stopEffect p
  | .mediaOut => (s1.openAlert .mediaOut (.printer p) { Detail.none with text := some report }).stopEffect p
  | .supplyLow => s1.openAlert .supplyLow (.printer p) { Detail.none with text := some report }

/-- A clear that removes its condition (R147). -/
def State.clearCondition (s : State) (p : LineNo) (k : Condition) : State :=
  let s1 := s.dropCondition p k
  if k ≠ .supplyLow ∧ (s1.line p).state = .blocked then s1.leaveBlocked p else s1

/-- The matching row decides the report (R142). -/
def State.decideReport (s : State) (p : LineNo) (r : PatternRow) (report : List Byte) : State :=
  match r.sense with
  | .raise => if hasCondition (s.line p).conditions r.kind then s else s.raiseCondition p r report
  | .clear => if hasCondition (s.line p).conditions r.kind then s.clearCondition p r.kind else s

/-- STATUS (R141): the text is copied, and the first matching row decides. -/
def State.statusReport (s : State) (p : LineNo) (report : List Byte) : State :=
  if takesFrames (s.line p) then
    let s1 := s.modLine p fun l => { l with statusText := report }
    match s.pattern.toList.find? (patternMatches p report) with
    | some r => s1.decideReport p r report
    | none => s1
  else s

/-- Does a report have the size of a STATUS body (R200)? -/
def reportSized (report : List Byte) : Bool := decide (1 ≤ report.length) && decide (report.length ≤ 32)

/-! ### READY (R83) -/

/-- READY (R83). -/
def State.readyFrame (s : State) (p : LineNo) : State :=
  let l := s.line p
  if l.state = .waking ∧ l.readySeen = false then
    let s1 := s.modLine p fun l => { l with readySeen := true }
    if timerRuns l.settle then s1 else s1.enterReady p
  else s

/-! ### FLUSHED (R93, R94, R60) -/

/-- The flushing mark of an entry. -/
def isFlushing (e : Entry) : Bool := e.flushing

/-- The entry a BLOCK flush counts against (R149): the flushing entry the jam tag names, else the oldest. -/
def countedEntry (l : Line) : Option Entry :=
  let es := l.inflight.filter isFlushing
  let named := match l.jamTag with
    | some t => es.find? fun e => decide (e.tag = t)
    | none => none
  match named with
  | some e => some e
  | none => es.head?

/-- The sheet reference of a job's confirm cursor (R151). -/
def confirmRef (x : Job) : SheetRef := { job := x.number, sheet := x.confirm.sheet, copy := x.confirm.copy }

/-- The no-progress count (R150) and, at the retry limit, the failure of the job (R151). -/
def State.countNoProgress (s : State) (j : Nat) : State :=
  match s.job? j with
  | none => s
  | some x =>
    if jobKilled x then s
    else
      let n := saturate 15 (x.noProgress + 1)
      let s1 := s.modJob j fun y => { y with noProgress := n }
      if s.settings.retryLimit ≠ 0 ∧ s.settings.retryLimit ≤ n then
        (s1.kill j .failed).openAlert .jobFailed (.job j) { Detail.none with ref := some (confirmRef x) }
      else s1

/-- Step 3 of R60: the count, when the purpose set holds BLOCK; the jam tag becomes absent (R149). -/
def State.countFlush (s : State) (p : LineNo) (block : Bool) (counted : Option Entry) : State :=
  if block then
    let s1 := s.modLine p fun l => { l with jamTag := none }
    match counted with
    | some e => s1.countNoProgress e.job
    | none => s1
  else s

/-- The run state of one job after its entries are gone (R58). -/
def State.afterRewind (s : State) (j : Nat) : State :=
  match s.job? j with
  | none => s
  | some x =>
    if x.run = .feeding ∨ x.run = .draining then s.modJob j fun y => { y with run := .queued }
    else if x.run = .leaving then s.endLeaving j
    else s

/-- Step 4 of R60: the run states of the queue's jobs whose entries were removed, and the feeding choice (R58). -/
def State.afterRewinds (s : State) (p : LineNo) (js : List Nat) : State :=
  (((s.line p).queue.filter fun j => decide (j ∈ js)).foldl State.afterRewind s).rechoose p

/-- The line record at FLUSHED, before the entries are settled (R93, R74). -/
def flushedLine (l : Line) : Line := { l with flushLimit := .stopped, credits := l.capacity }

/-- The end of a flush by FLUSHED (R93, R60). -/
def State.endFlush (s : State) (p : LineNo) : State :=
  let l := s.line p
  let js := s.jobsOf p isFlushing
  let s1 := (s.modLine p flushedLine).clearEntries p isFlushing
  let s2 := s1.countFlush p l.flush.block (countedEntry l)
  let s3 := js.foldl State.releaseIfKilled (s2.afterRewinds p js)
  (s3.modLine p fun l => { l with flush := Purposes.none }).retireIfEmpty p

/-- FLUSHED: the end of the pending flush, or a stray (R93, R94). -/
def State.flushedFrame (s : State) (p : LineNo) : State :=
  if takesFrames (s.line p) then
    if flushPending (s.line p).flush then s.endFlush p else s.protocolFault p
  else s

/-! ### The meanings -/

/-- HELLO (R81). -/
def execHello (p : LineNo) (capacity nominalPace modelCode : BitVec 16) (s : State) :
    Host.Outcome State Fault Refusal :=
  .next (lineEvent p (fun t => t.hello p capacity nominalPace modelCode) s)

/-- CREDIT (R68). -/
def execCredit (p : LineNo) (count : BitVec 16) (s : State) : Host.Outcome State Fault Refusal :=
  .next (lineEvent p (fun t => t.credit p count.toNat) s)

/-- SHEET_DONE (R53). -/
def execSheetDone (p : LineNo) (tag : Byte) (s : State) : Host.Outcome State Fault Refusal :=
  .next (lineEvent p (fun t => t.sheetDone p tag) s)

/-- STATUS (R141); a report of another size than 1..32 is a discarded frame (R200). -/
def execStatus (p : LineNo) (report : List Byte) (s : State) : Host.Outcome State Fault Refusal :=
  .next (lineEvent p (fun t => if reportSized report then t.statusReport p report else t) s)

/-- READY (R83). -/
def execReady (p : LineNo) (s : State) : Host.Outcome State Fault Refusal :=
  .next (lineEvent p (fun t => t.readyFrame p) s)

/-- FLUSHED (R93). -/
def execFlushed (p : LineNo) (s : State) : Host.Outcome State Fault Refusal :=
  .next (lineEvent p (fun t => t.flushedFrame p) s)

/-- LINE_FRAME_DISCARDED (R200): receive activity and nothing else. -/
def execLineFrameDiscarded (p : LineNo) (_f : RawLineFrame) (s : State) : Host.Outcome State Fault Refusal :=
  .next (lineEvent p (fun t => t) s)

/-- IDLE_SIGNALLING (R95): receive activity and nothing else. -/
def execIdleSignalling (p : LineNo) (s : State) : Host.Outcome State Fault Refusal :=
  .next (lineEvent p (fun t => t) s)

end Sys2Proof.Machine
end

