-- ==== Sys2Proof/Machine/Resets.lean ====
section
/-! DEFINITION. The resets (R194, R195 and each block's reset rule): RESET_WARM, RESET_FULL, POWER_ON. -/

namespace Sys2Proof.Machine

/-- The line record after RESET WARM (R101, R80, R77, R63, R102, R140): a RETIRED line stays RETIRED,
every other enters DOWN and makes RESYNC, which is sent only when the part is LIVE (R194). -/
def warmLine (st : PartState) (l : Line) : Line :=
  { Line.reset with
    state := if l.state = .retired then .retired else .down
    modelCode := l.modelCode
    capacity := l.capacity
    pace := l.pace
    lastDone := l.lastDone
    control := if st = .live ∧ l.state ≠ .retired then [.resync] else [] }

/-- The account record after RESET WARM (R138). -/
def warmAccount (a : Account) : Account :=
  { a with reservedCost := 0, reservedSides := 0, quotaHeld := [] }

/-- The part after RESET WARM (R20, R25, R63, R77, R101, R102, R138, R171, R172, R195, R196): the tables'
writable cells, the counters, the meters, the time base and the part state are kept. -/
def State.warmReset (s : State) : State :=
  { s with
    window := none
    readout := none
    accounts := Vector.ofFn fun a => warmAccount (s.account a)
    free := ascending Config.blocks 0
    pool := Config.sheetRecords
    quarantine := []
    spoolLow := false
    stores := []
    held := []
    jobs := []
    waiting := []
    passesWanted := 0
    lines := Vector.ofFn fun p => warmLine s.live (s.line p)
    engine0 := none
    engine1 := none
    lastGranted := 15
    alerts := []
    cleared := [] }

/-- The part at its power-on values with the given straps; the queue of commands, the logs of sent
frames and the model's free-order counter are the model's own and stay (log 29). -/
def State.powerUp (s : State) (straps : BitVec 4) : State :=
  { State.powerOn straps with
    pending := s.pending
    shopOut := s.shopOut
    lineOut := s.lineOut
    freeCtr := s.freeCtr }

/-- The part after RESET FULL: power-on values, with the strap value kept (R195). -/
def State.fullReset (s : State) : State := s.powerUp s.straps

/-- The reply of an abandoned store: JOB ENDED, with the free block count after the reset (R11, R194), and with the
received length 0, since the reset has emptied the job table (log 13, DESIGN CHOICE: the spec gives none). -/
def endStore (s : State) (t : Store) : State :=
  s.reply s.settings.port t.frame t.job .jobEnded (s.receivedBody t.job t.sheet)

/-- One item that waited behind a store, on the reset part (log 12). A job frame that waits has passed its
form checks while the part was LIVE, so its own rule answers it, also where RESET FULL has left the part
CONFIGURING: UNKNOWN JOB, not the NOT LIVE of R184 (log 12, DESIGN CHOICE: the spec names no status for it). -/
def heldAtReset (s : State) (h : Held) : State :=
  match h with
  | .answer f st body => s.reply s.settings.port f f.job.toNat st body
  | .frame k f => s.doJobFrame k f

/-- The replies of a reset: the abandoned stores' first, then the reset's own, then those of what waited
behind the stores (R194). The abandoned stores are answered in the order they began (log 44, DESIGN CHOICE: they
are of different jobs, and R183 gives the replies to frames of different jobs no order). -/
def finishReset (before : State) (f : ShopFrame) (s : State) : State :=
  let s1 := before.stores.foldl endStore s
  before.held.foldl heldAtReset (s1.reply s1.settings.port f 0 .ok [])

/-- RESET (R194): the mode is the argument, WARM 1 or FULL 2; any other is refused BAD REQUEST. -/
def takeReset (f : ShopFrame) (s : State) : State :=
  if !s.accepts false f then s
  else match s.manageFormRefusal (sized 1) f with
    | some st => s.reply s.settings.port f 0 st []
    | none =>
      match field (requestArgs f) 0 1 with
      | 1 => finishReset s f s.warmReset
      | 2 => finishReset s f s.fullReset
      | _ => s.reply s.settings.port f 0 .badRequest []

/-- RESET_WARM (R194). -/
def execResetWarm (f : ShopFrame) (s : State) : Host.Outcome State Fault Refusal := .next (takeReset f s)

/-- RESET_FULL (R194). -/
def execResetFull (f : ShopFrame) (s : State) : Host.Outcome State Fault Refusal := .next (takeReset f s)

/-- POWER_ON (R195): the straps are sampled, and every block takes its power-on values; no frame is sent. -/
def execPowerOn (straps : BitVec 4) (s : State) : Host.Outcome State Fault Refusal := .next (s.powerUp straps)

end Sys2Proof.Machine
end

