-- ==== Sys2Proof/Machine/TimerEvents.lean ====
section
/-! DEFINITION. The expiries of the lines' timers (chapters 5, 6 and 8): each is taken when its timer's duration has passed, and changes nothing otherwise (log 3). -/

namespace Sys2Proof.Machine

/-- An expiry on line `p`: taken when the timer is due. -/
def expiry (timer : Line → Timer) (p : LineNo) (act : State → State) (s : State) : State :=
  if timerDue (timer (s.line p)) then settleEvent s (act s) else s

/-- The settle expiry (R83). -/
def State.settleExpiry (s : State) (p : LineNo) : State :=
  let s1 := s.modLine p fun l => { l with settle := .stopped }
  if (s.line p).state = .waking ∧ (s.line p).readySeen = true then s1.enterReady p else s1

/-- The wake limit expiry in WAKING (R84). -/
def State.wakeLimitExpiry (s : State) (p : LineNo) : State :=
  ((s.dropLine p).modLine p (downLine true)).openAlert .noWake (.printer p) Detail.none

/-- The min awake expiry (R85). -/
def State.minAwakeExpiry (s : State) (p : LineNo) : State :=
  let l := s.line p
  let s1 := s.modLine p fun l => { l with minAwake := .stopped }
  if l.standbyPending then
    if l.state = .ready ∧ l.queue = [] ∧ l.inflight = [] ∧ flushPending l.flush = false then
      s1.enterStandby p
    else s1.modLine p fun l => { l with standbyPending := false }
  else s1

/-- The stall expiry (R111). -/
def State.stallExpiry (s : State) (p : LineNo) : State :=
  let s1 := s.modLine p fun l => { l with stall := .stopped, stalled := true }
  if (s.line p).stalled then s1
  else s1.openAlert .stall (.printer p) { Detail.none with ref := (s.line p).inflight.head?.map entryRef }

/-! ### The meanings -/

/-- SETTLE_EXPIRY (R83). -/
def execSettleExpiry (p : LineNo) (s : State) : Host.Outcome State Fault Refusal :=
  .next (expiry Line.settle p (fun t => t.settleExpiry p) s)

/-- WAKE_LIMIT_EXPIRY (R84). -/
def execWakeLimitExpiry (p : LineNo) (s : State) : Host.Outcome State Fault Refusal :=
  .next (expiry Line.wakeLimit p (fun t => t.wakeLimitExpiry p) s)

/-- MIN_AWAKE_EXPIRY (R85). -/
def execMinAwakeExpiry (p : LineNo) (s : State) : Host.Outcome State Fault Refusal :=
  .next (expiry Line.minAwake p (fun t => t.minAwakeExpiry p) s)

/-- IDLE_TIMER_EXPIRY (R86). -/
def execIdleTimerExpiry (p : LineNo) (s : State) : Host.Outcome State Fault Refusal :=
  .next (expiry Line.idle p (fun t => t.enterStandby p) s)

/-- FLUSH_LIMIT_EXPIRY (R94). -/
def execFlushLimitExpiry (p : LineNo) (s : State) : Host.Outcome State Fault Refusal :=
  .next (expiry Line.flushLimit p (fun t => t.loseLine p true) s)

/-- SILENCE_MONITOR_EXPIRY (R95). -/
def execSilenceMonitorExpiry (p : LineNo) (s : State) : Host.Outcome State Fault Refusal :=
  .next (expiry Line.silence p (fun t => t.loseLine p true) s)

/-- STALL_TIMER_EXPIRY (R111). -/
def execStallTimerExpiry (p : LineNo) (s : State) : Host.Outcome State Fault Refusal :=
  .next (expiry Line.stall p (fun t => t.stallExpiry p) s)

/-- MOVE_DELAY_EXPIRY (R153). -/
def execMoveDelayExpiry (p : LineNo) (s : State) : Host.Outcome State Fault Refusal :=
  .next (expiry Line.moveDelay p (fun t => t.moveOff p) s)

end Sys2Proof.Machine
end

