-- ==== Sys2Proof/Machine/Dispatch.lean ====
section
/-! DEFINITION. exec: one arm per command, each one direct call of its meaning. -/

namespace Sys2Proof.Machine

def exec (i : Instr) (s : State) : Host.Outcome State Fault Refusal :=
  match i with
  | .jobOpen f => Sys2Proof.Machine.execJobOpen f s
  | .sheetData f => Sys2Proof.Machine.execSheetData f s
  | .sheetDataStoreEnd j => Sys2Proof.Machine.execSheetDataStoreEnd j s
  | .sheetEnd f => Sys2Proof.Machine.execSheetEnd f s
  | .jobClose f => Sys2Proof.Machine.execJobClose f s
  | .jobCancel f => Sys2Proof.Machine.execJobCancel f s
  | .shopFrameDropped f => Sys2Proof.Machine.execShopFrameDropped f s
  | .goLive f => Sys2Proof.Machine.execGoLive f s
  | .readStatus f => Sys2Proof.Machine.execReadStatus f s
  | .tableWindow f => Sys2Proof.Machine.execTableWindow f s
  | .tableWrite f => Sys2Proof.Machine.execTableWrite f s
  | .tableWriteContinue f => Sys2Proof.Machine.execTableWriteContinue f s
  | .tableRead f => Sys2Proof.Machine.execTableRead f s
  | .tableReadContinue f => Sys2Proof.Machine.execTableReadContinue f s
  | .adjustLimit f => Sys2Proof.Machine.execAdjustLimit f s
  | .closePeriod f => Sys2Proof.Machine.execClosePeriod f s
  | .readMetersStart f => Sys2Proof.Machine.execReadMetersStart f s
  | .readMetersNext f => Sys2Proof.Machine.execReadMetersNext f s
  | .holdJob f => Sys2Proof.Machine.execHoldJob f s
  | .releaseJob f => Sys2Proof.Machine.execReleaseJob f s
  | .cancelJob f => Sys2Proof.Machine.execCancelJob f s
  | .purgeJob f => Sys2Proof.Machine.execPurgeJob f s
  | .reprintJob f => Sys2Proof.Machine.execReprintJob f s
  | .moveJob f => Sys2Proof.Machine.execMoveJob f s
  | .standbyRequest f => Sys2Proof.Machine.execStandbyRequest f s
  | .wakeRequest f => Sys2Proof.Machine.execWakeRequest f s
  | .retireRequest f => Sys2Proof.Machine.execRetireRequest f s
  | .returnRequest f => Sys2Proof.Machine.execReturnRequest f s
  | .ackAlert f => Sys2Proof.Machine.execAckAlert f s
  | .resetWarm f => Sys2Proof.Machine.execResetWarm f s
  | .resetFull f => Sys2Proof.Machine.execResetFull f s
  | .powerOn straps => Sys2Proof.Machine.execPowerOn straps s
  | .hello p capacity nominalPace modelCode => Sys2Proof.Machine.execHello p capacity nominalPace modelCode s
  | .credit p count => Sys2Proof.Machine.execCredit p count s
  | .sheetDone p tag => Sys2Proof.Machine.execSheetDone p tag s
  | .status p report => Sys2Proof.Machine.execStatus p report s
  | .ready p => Sys2Proof.Machine.execReady p s
  | .flushed p => Sys2Proof.Machine.execFlushed p s
  | .lineFrameDiscarded p f => Sys2Proof.Machine.execLineFrameDiscarded p f s
  | .lineTransmitFrame p => Sys2Proof.Machine.execLineTransmitFrame p s
  | .settleExpiry p => Sys2Proof.Machine.execSettleExpiry p s
  | .wakeLimitExpiry p => Sys2Proof.Machine.execWakeLimitExpiry p s
  | .minAwakeExpiry p => Sys2Proof.Machine.execMinAwakeExpiry p s
  | .idleTimerExpiry p => Sys2Proof.Machine.execIdleTimerExpiry p s
  | .flushLimitExpiry p => Sys2Proof.Machine.execFlushLimitExpiry p s
  | .silenceMonitorExpiry p => Sys2Proof.Machine.execSilenceMonitorExpiry p s
  | .stallTimerExpiry p => Sys2Proof.Machine.execStallTimerExpiry p s
  | .moveDelayExpiry p => Sys2Proof.Machine.execMoveDelayExpiry p s
  | .reminderTimerExpiry number => Sys2Proof.Machine.execReminderTimerExpiry number s
  | .sheetStart p => Sys2Proof.Machine.execSheetStart p s
  | .burstGrant => Sys2Proof.Machine.execBurstGrant s
  | .burstCompletion p readError => Sys2Proof.Machine.execBurstCompletion p readError s
  | .idleSignalling p => Sys2Proof.Machine.execIdleSignalling p s
  | .unknownRequestCode f => Sys2Proof.Machine.execUnknownRequestCode f s

end Sys2Proof.Machine
end

