-- ==== Sys2Proof/Machine/Step.lean ====
section
/-! DEFINITION. One step: the command at the front of the queue is taken; on an empty queue the part's own due events enter the queue, or one millisecond passes (log 2). -/

namespace Sys2Proof.Machine

/-- The state with the rest of the queue. -/
def State.withPending (s : State) (q : List Instr) : State := { s with pending := q }

/-- One step. -/
def step (s : State) : Host.Outcome State Fault Refusal :=
  match s.pending with
  | c :: rest => exec c (s.withPending rest)
  | [] => .next s.idleStep

/-- `s` with the command that a table word spells at the front of its queue; no row of the table gives
bits, so no word spells one (log 1). -/
def State.withFetchWord (s : State) (nbits w : Nat) : State :=
  match decodeTableWord nbits w with
  | some c => s.withPending (c :: s.pending)
  | none => s

end Sys2Proof.Machine
end

