-- ==== Sys2Proof/Safety.lean ====
section
/-! DEFINITION. What the statements speak of: the manual's laws as predicates on a state, when a command is taken, and what an event leaves outside its own effects. -/

namespace Sys2Proof.Machine

/-! ### The manual's laws -/

/-- The spool bytes are in canonical form. -/
abbrev DramLaw (s : State) : Prop := s.dram.wf = true

/-- Every credit count lies between 0 and the capacity of the last HELLO (R67). -/
abbrev CreditLaw (s : State) : Prop := ∀ p, (s.line p).credits ≤ (s.line p).capacity

/-- Every pace, and every roster nominal pace, lies in 100..60,000 (R102, R103, R106). -/
abbrev PaceLaw (s : State) : Prop :=
  ∀ p, (100 ≤ (s.line p).pace ∧ (s.line p).pace ≤ 60000) ∧
    100 ≤ (s.rosterOf p).nominalPace ∧ (s.rosterOf p).nominalPace ≤ 60000

/-- The sheet data bytes a burst in progress will add to its line FIFO. -/
def burstLoad : Option Burst → Nat
  | none => 0
  | some b => if b.discarded then 0 else b.count

/-- The bytes in a line FIFO and on their way into it. -/
def lineLoad (l : Line) : Nat := fifoFill l.fifo + burstLoad l.burst

/-- No line FIFO passes 1,024 sheet data bytes, its burst in progress included, and every almost-empty
threshold is at most 768 (R64, R69). -/
abbrev FifoLaw (s : State) : Prop := ∀ p, lineLoad (s.line p) ≤ 1024 ∧ (s.rosterOf p).threshold ≤ 768

/-- The job table is in strictly ascending order of number, holds at most 128 records, and its numbers lie
in 1..65,535 (section 2.1, R24). -/
abbrev JobTableLaw (s : State) : Prop :=
  (s.jobs.map fun x => x.number).Pairwise (· < ·) ∧ s.jobs.length ≤ Config.jobRecords ∧
    ∀ x ∈ s.jobs, 1 ≤ x.number ∧ x.number ≤ 65535

/-- The number of sheet records in use by the jobs. -/
def recordsInUse (jobs : List Job) : Nat := (jobs.map fun x => x.sheets.length).sum

/-- Every sheet record is in the pool or in the sheet list of a job (R3). -/
abbrev SheetRecordLaw (s : State) : Prop :=
  JobTableLaw s ∧ s.pool + recordsInUse s.jobs = Config.sheetRecords

/-- At most 32 alert records, no two of one kind and subject and no two of one number; the cleared list
names records of the table (R158 to R161), and every event record is CLEARED (R163). -/
abbrev AlertLaw (alerts : List AlertRec) (cleared : List Nat) : Prop :=
  alerts.length ≤ Config.alertRecords ∧
  alerts.Pairwise (fun r q => ¬(r.kind = q.kind ∧ r.subject = q.subject)) ∧
  (alerts.map fun r => r.number).Nodup ∧ (∀ n ∈ cleared, ∃ r ∈ alerts, r.number = n) ∧
  ∀ r ∈ alerts, isCondition r.kind = false → r.state = .cleared

/-- The alert table's law (R158 to R161, R163). -/
abbrev AlertTableLaw (s : State) : Prop := AlertLaw s.alerts s.cleared

/-- The quarantine list holds at most 64 blocks (R5). -/
abbrev QuarantineLaw (s : State) : Prop := s.quarantine.length ≤ Config.quarantineSize

/-- No binding pass is waiting to be run (R29): every event leaves it so. -/
abbrev NoPassWanted (s : State) : Prop := s.passesWanted = 0

/-- The table window, if there is one, lies in its table (R189). -/
abbrev WindowLaw (s : State) : Prop :=
  ∀ w ∈ s.window, w.firstRow ≤ w.lastRow ∧ w.lastRow < tableRows w.table ∧
    w.firstCell ≤ w.lastCell ∧ w.lastCell < tableCells w.table

/-- Every idle timer follows its conditions: it runs exactly while they hold (R86). -/
abbrev IdleLaw (s : State) : Prop :=
  ∀ p, ((s.line p).idle = .stopped ∨ timerRuns (s.line p).idle = true) ∧
    timerRuns (s.line p).idle = idleHolds (s.rosterOf p) (s.line p)

/-! ### The scheduler's law: lists, entries and accounts -/

/-- What the run state of a job says of its other fields (section 2.1, R34, R48). Between events no job has an
excluded printer: the binding pass that its entry into the waiting list starts drops it (R29). -/
abbrev JobStateLaw (x : Job) : Prop :=
  (x.bound.isSome = true ↔ x.run = .queued ∨ x.run = .feeding ∨ x.run = .draining ∨ x.run = .leaving) ∧
  (x.leaveTarget.isSome = true ↔ x.run = .leaving) ∧
  (x.holdReason.isSome = true ↔ x.run = .held ∨ x.leaveTarget = some .held) ∧
  x.excluded = none ∧ (x.run = .done → x.ingest = .closed)

/-- The lists of jobs: the waiting list holds the WAITING jobs (R26), each printer's queue the jobs bound to
it, with its feeding job and no other in FEEDING (R33, R46), each quota-held list the jobs held for QUOTA
(R115), each job once; a line in DOWN, STANDBY or RETIRED has an empty queue; and a store under way is of a job
whose ingest is OPEN (R11). -/
abbrev ListLaw (s : State) : Prop :=
  (∀ x ∈ s.jobs, JobStateLaw x ∧ (x.number ∈ s.waiting ↔ x.run = .waiting) ∧
    (∀ p, x.number ∈ (s.line p).queue ↔ x.bound = some p) ∧
    (∀ p, x.bound = some p → (x.run = .feeding ↔ (s.line p).feeding = some x.number)) ∧
    ∀ a, x.number ∈ (s.account a).quotaHeld ↔ (a = x.account ∧ x.holdReason = some .quota)) ∧
  s.waiting.Nodup ∧ (∀ j ∈ s.waiting, (s.job? j).isSome = true) ∧
  (∀ p, (s.line p).queue.Nodup ∧ (∀ j ∈ (s.line p).queue, (s.job? j).isSome = true) ∧
    (s.line p).feeding = s.feedingChoice p ∧
    ((s.line p).state = .down ∨ (s.line p).state = .standby ∨ (s.line p).state = .retired →
      (s.line p).queue = [])) ∧
  (∀ a, (s.account a).quotaHeld.Nodup ∧ ∀ j ∈ (s.account a).quotaHeld, (s.job? j).isSome = true) ∧
  (∀ t ∈ s.stores, ∃ x ∈ s.jobs, x.number = t.job ∧ x.ingest = .opened ∧ (t.purge = true → jobKilled x = true))

/-- `n` advances of a cursor (R43). -/
def advances (x : Job) : Nat → Cursor → Cursor
  | 0, c => c
  | n + 1, c => advances x n (advance x c)

/-- The `n` sheet-copies from a cursor on (R43). -/
def copiesFrom (x : Job) : Nat → Cursor → List Cursor
  | 0, _ => []
  | n + 1, c => c :: copiesFrom x n (advance x c)

/-- The in-flight entries of a job, on whatever line. -/
def entriesOf (s : State) (j : Nat) : List Entry := allLines.flatMap fun p => s.entriesOn p j

/-- The sheet-copy of an entry, as the cursor that names it. -/
def entryCopy (e : Entry) : Cursor := { copy := e.copy, sheet := e.sheet }

/-- The cursors of a job that has not been ended by a cancel or a failure (R44, R47, R48): its entries are the
sheet-copies from its confirm cursor up to its dispatch cursor, which lies at or before the end; a DRAINING job
is at the end with entries, a LEAVING job has entries, a QUEUED job none, and any other live job is below the
end. `es` are the job's entries. -/
abbrev CursorLaw (x : Job) (es : List Entry) : Prop :=
  1 ≤ x.copies ∧ es.map entryCopy = copiesFrom x es.length x.confirm ∧ x.dispatch = advances x es.length x.confirm ∧
  (x.ingest = .opened → x.confirm.copy = 0 ∧ x.dispatch.copy = 0 ∧ x.dispatch.sheet ≤ completeCount x) ∧
  (x.ingest = .closed → x.run ≠ .done →
    (x.dispatch.copy < x.copies ∧ x.dispatch.sheet < completeCount x) ∨ x.dispatch = ⟨x.copies, 0⟩) ∧
  (x.run = .draining → atEnd x x.dispatch = true ∧ es ≠ []) ∧ (x.run = .leaving → es ≠ []) ∧
  (x.run = .queued → es = []) ∧
  (x.run ≠ .draining → x.run ≠ .leaving → x.run ≠ .done → atEnd x x.dispatch = false)

/-- The in-flight list of a line (R49, R59): at most max in-flight entries, with consecutive tags, the last one
below the tag counter; every entry carries the flushing mark exactly while a flush is pending; a line in DOWN,
STANDBY or RETIRED has none and no flush. -/
abbrev InflightLaw (r : Roster) (l : Line) : Prop :=
  l.inflight.length ≤ r.maxInFlight ∧ 1 ≤ r.maxInFlight ∧ r.maxInFlight ≤ 16 ∧
  (l.inflight.map fun e => e.tag) =
    ((List.range l.inflight.length).map fun i => l.tagCtr - BitVec.ofNat 8 (l.inflight.length - i)) ∧
  (∀ e ∈ l.inflight, e.flushing = flushPending l.flush) ∧
  (l.state = .down ∨ l.state = .standby ∨ l.state = .retired → l.inflight = [] ∧ flushPending l.flush = false)

/-- A job's entries lie on one line (R44); those of a job not ended by a cancel or a failure on the line of its
printer, and as its cursors say. -/
abbrev JobEntryLaw (s : State) (x : Job) : Prop :=
  (∀ p q, s.entriesOn p x.number ≠ [] → s.entriesOn q x.number ≠ [] → p = q) ∧
  (jobKilled x = false → CursorLaw x (entriesOf s x.number)) ∧
  (jobKilled x = false → ∀ p, s.entriesOn p x.number ≠ [] → x.bound = some p)

/-- The in-flight entries (R44, R49, R59): each line keeps its law, every entry is of a job record in use, and
every job keeps its own. -/
abbrev EntryLaw (s : State) : Prop :=
  (∀ p, InflightLaw (s.rosterOf p) (s.line p) ∧ ∀ e ∈ (s.line p).inflight, (s.job? e.job).isSome = true) ∧
  ∀ x ∈ s.jobs, JobEntryLaw s x

/-- The entries of an account's jobs. -/
def accountEntries (s : State) (a : AccountNo) : List Entry :=
  (s.jobs.filter fun x => decide (x.account = a)).flatMap fun x => entriesOf s x.number

/-- The accounts (R115, R116, R124): the reserved figures are the sums over the in-flight entries of the
account's jobs, and charged plus reserved is at most the ceiling. -/
abbrev AccountLaw (s : State) : Prop :=
  ∀ a, (s.account a).reservedCost = ((accountEntries s a).map fun e => e.cost).sum ∧
    (s.account a).reservedSides = ((accountEntries s a).map fun e => e.sides).sum ∧
    (s.account a).limit ≤ 2 ^ 48 - 1 ∧
    (s.account a).chargedCost + (s.account a).reservedCost ≤ ceiling (s.account a)

/-- The scheduler's law (R26, R33, R44, R46, R49, R59, R115). -/
abbrev SchedulerLaw (s : State) : Prop := JobTableLaw s ∧ IdleLaw s ∧ NoPassWanted s ∧ ListLaw s ∧ EntryLaw s

/-! ### When a command is taken -/

/-- A MANAGE request with the given argument body reaches a part that may take it: accepted (R180), version
1, a length field that covers the request code and the arguments, and a permitted sender (R182). -/
abbrev Requested (s : State) (f : ShopFrame) (args : List Byte) : Prop :=
  s.accepts false f = true ∧ f.version = 1#8 ∧ f.length.toNat = args.length + 1 ∧
  f.rest.take args.length = args ∧ s.isManager f.src = true

/-- The same for READ STATUS, which the part accepts by broadcast too (R180). -/
abbrev StatusRequested (s : State) (f : ShopFrame) (args : List Byte) : Prop :=
  s.accepts true f = true ∧ f.version = 1#8 ∧ f.length.toNat = args.length + 1 ∧
  f.rest.take args.length = args ∧ s.isManager f.src = true

/-- A job frame with the given body reaches a LIVE part that may take it (R180, R197). -/
abbrev JobFrameTaken (s : State) (f : ShopFrame) (body : List Byte) : Prop :=
  s.accepts false f = true ∧ f.version = 1#8 ∧ f.length.toNat = body.length ∧
  f.rest.take body.length = body ∧ s.live = .live

/-- The named MANAGE requests, of any frame. -/
def namedRequests (f : ShopFrame) : List Instr :=
  [.goLive f, .readStatus f, .tableWindow f, .tableWrite f, .tableWriteContinue f, .tableRead f,
   .tableReadContinue f, .adjustLimit f, .closePeriod f, .readMetersStart f, .readMetersNext f,
   .holdJob f, .releaseJob f, .cancelJob f, .purgeJob f, .reprintJob f, .moveJob f,
   .standbyRequest f, .wakeRequest f, .retireRequest f, .returnRequest f, .ackAlert f, .resetWarm f,
   .resetFull f]

/-- The requests whose argument body has a fixed size, with that size (section 12.1.1). -/
def requestSizes (f : ShopFrame) : List (Instr × Nat) :=
  [(.goLive f, 0), (.readStatus f, 3), (.tableWindow f, 7), (.tableRead f, 0), (.tableReadContinue f, 0),
   (.adjustLimit f, 10), (.closePeriod f, 2), (.readMetersStart f, 2), (.readMetersNext f, 0),
   (.holdJob f, 2), (.releaseJob f, 2), (.cancelJob f, 2), (.purgeJob f, 2), (.reprintJob f, 4),
   (.moveJob f, 3), (.standbyRequest f, 1), (.wakeRequest f, 1), (.retireRequest f, 1),
   (.returnRequest f, 1), (.ackAlert f, 2), (.resetWarm f, 1), (.resetFull f, 1)]

/-- The job frames that name their job, with the body sizes of each kind (section 12.1). -/
def jobFrameSizes (f : ShopFrame) : List (Instr × (Nat → Prop)) :=
  [(.sheetData f, fun n => 1 ≤ n ∧ n ≤ 1024), (.sheetEnd f, fun n => n = 8), (.jobClose f, fun n => n = 0),
   (.jobCancel f, fun n => n = 0)]

/-- The job control requests, with the size of each one's arguments (section 12.1.1). -/
def jobControls (f : ShopFrame) : List (Instr × Nat) :=
  [(.holdJob f, 2), (.releaseJob f, 2), (.cancelJob f, 2), (.purgeJob f, 2), (.reprintJob f, 4), (.moveJob f, 3)]

/-- The job frames, of any frame. -/
def jobFrames (f : ShopFrame) : List Instr :=
  [.jobOpen f, .sheetData f, .sheetEnd f, .jobClose f, .jobCancel f]

/-- The frames a printer sends to its line. -/
def printerFrames (p : LineNo) (a b c : BitVec 16) (tag : Byte) (report : List Byte) (f : RawLineFrame) :
    List Instr :=
  [.hello p a b c, .credit p a, .sheetDone p tag, .status p report, .ready p, .flushed p,
   .lineFrameDiscarded p f, .idleSignalling p]

/-- The expiries of a line's timers. -/
def lineExpiries (p : LineNo) : List (Instr × (Line → Timer)) :=
  [(.settleExpiry p, Line.settle), (.wakeLimitExpiry p, Line.wakeLimit), (.minAwakeExpiry p, Line.minAwake),
   (.idleTimerExpiry p, Line.idle), (.flushLimitExpiry p, Line.flushLimit),
   (.silenceMonitorExpiry p, Line.silence), (.stallTimerExpiry p, Line.stall),
   (.moveDelayExpiry p, Line.moveDelay)]

/-! ### After a command -/

/-- The state after a request whose own changes `u` ask for no binding pass and raise no available amount:
the idle timers follow their conditions (R86), and the reply is sent with the free block count it leaves (R183). -/
def answered (s u : State) (f : ShopFrame) (job : Nat) (st : Status) (body : List Byte) : State :=
  u.refreshIdle.reply s.settings.port f job st body

/-- The state after a request whose own changes are `u`: what they cause at the end of the event (R133,
R29, R152, R86), then the reply (R183). -/
def ended (s u : State) (f : ShopFrame) (job : Nat) (st : Status) (body : List Byte) : State :=
  (settleEvent s u).reply s.settings.port f job st body

/-- The window position `n` cells after another (R190). -/
def posAfter (w : Window) : Nat → WindowPos → WindowPos
  | 0, pos => pos
  | _ + 1, none => none
  | n + 1, some (r, c) => posAfter w n (nextPos w r c)

/-- The table cells that hold a number, a flag, a set of sixteen flags or a code without an absent value, each
with its range (R198 and the rule of its table); the station address, whose write rule can refuse a value, stands
apart. -/
def numberCells : List (Table × Nat × Nat × Nat) :=
  [(.route, 0, 0, 1), (.route, 3, 0, 3), (.route, 4, 0, 7), (.route, 5, 0, 1), (.route, 6, 0, 7), (.route, 7, 0, 1),
   (.group, 0, 0, 16)] ++ ((List.range 16).map fun c => (.group, c + 1, 0, 15)) ++
  [(.account, 0, 0, 15), (.account, 1, 0, 1), (.account, 2, 0, 2 ^ 48 - 1), (.account, 3, 0, 1),
   (.rate, 0, 0, 65535), (.rate, 1, 0, 65535), (.rate, 2, 0, 65535), (.rate, 3, 0, 65535), (.media, 0, 1, 255),
   (.tier, 0, 0, 2 ^ 32 - 1), (.tier, 1, 0, 50), (.pattern, 0, 0, 1), (.pattern, 1, 0, 65535),
   (.pattern, 2, 1, 8)] ++ ((List.range 8).map fun c => (.pattern, c + 3, 0, 255)) ++
  [(.pattern, 11, 0, 3), (.pattern, 12, 0, 1), (.roster, 0, 0, 3), (.roster, 1, 0, 65535), (.roster, 2, 1, 16),
   (.roster, 3, 100, 60000), (.roster, 4, 0, 600000), (.roster, 5, 0, 3600000), (.roster, 6, 1000, 900000),
   (.roster, 7, 0, 86400000), (.roster, 8, 0, 768), (.settings, 1, 0x0600, 0xFFFF),
   (.settings, 2, 0, 2 ^ 48 - 1), (.settings, 3, 0, 2 ^ 48 - 1), (.settings, 4, 0, 2 ^ 48 - 1),
   (.settings, 5, 0, 2 ^ 48 - 1), (.settings, 6, 0, 2 ^ 48 - 1), (.settings, 7, 500, 60000), (.settings, 8, 1, 16),
   (.settings, 9, 1000, 600000), (.settings, 10, 1000, 3600000), (.settings, 11, 0, 3600000),
   (.settings, 12, 0, 15), (.settings, 13, 5000, 3600000), (.settings, 14, 0, 255), (.settings, 15, 0, 4096),
   (.settings, 16, 0, 32768), (.settings, 17, 0, 32768), (.settings, 18, 0, 65535)]

/-- The table cells whose value 255 stands for ANY or NONE, with the top of their codes (R198). -/
def codeCells : List (Table × Nat × Nat) := [(.route, 1, 15), (.route, 2, 7), (.pattern, 13, 31)]

/-- The number a counter reaches in `n` advances (R24, R160). -/
def numberAfter : Nat → Nat → Nat
  | 0, c => c
  | n + 1, c => numberAfter n (nextNumber c)

/-- The spool blocks in the chains of every job's sheets. -/
def chainBlocks (jobs : List Job) : List Block := jobs.flatMap fun x => x.sheets.flatMap fun (h : Sheet) => h.chain

/-- The blocks of the three places of R2: the free list, the chains, the quarantine list. -/
def placedBlocks (s : State) : List Block := s.free ++ chainBlocks s.jobs ++ s.quarantine

/-- Every one of the 32,768 spool blocks is in exactly one of the three places of R2. -/
abbrev BlockLaw (s : State) : Prop := (placedBlocks s).Perm State.reset.free

/-! ### Frames of a statement: what is unchanged -/

/-- The alert table, the cleared list, the alert number counter and the frames sent on the shop port. -/
def sameAlerts (s t : State) : Prop :=
  t.alerts = s.alerts ∧ t.cleared = s.cleared ∧ t.alertCtr = s.alertCtr ∧ t.shopOut = s.shopOut

/-- The tables' writable cells but the accounts' (chapters 2, 5, 7, 8 and 11). -/
def sameTables (s t : State) : Prop :=
  t.route = s.route ∧ t.group = s.group ∧ t.rate = s.rate ∧ t.media = s.media ∧ t.tier = s.tier ∧
  t.pattern = s.pattern ∧ t.roster = s.roster ∧ t.settings = s.settings

/-- What no event of the shop frames, the lines and the timers touches beyond the effects its own rule
names: the part state, the straps, the table window, the readout buffer, the time base, the tables, the
spool bytes, the job number counter, the engines and the arbiter, the frames sent on the lines, what waits
behind the stores, and the queue of commands. -/
def sameOutside (s t : State) : Prop :=
  t.live = s.live ∧ t.straps = s.straps ∧ t.window = s.window ∧ t.readout = s.readout ∧
  t.timeBase = s.timeBase ∧ sameTables s t ∧ t.dram = s.dram ∧ t.jobCtr = s.jobCtr ∧
  t.engine0 = s.engine0 ∧ t.engine1 = s.engine1 ∧ t.lastGranted = s.lastGranted ∧
  t.lineOut = s.lineOut ∧ t.freeCtr = s.freeCtr ∧ t.held = s.held ∧ t.pending = s.pending

/-- The figures and cells of an account, its quota-held list left out. -/
def sameFigures (a b : Account) : Prop := { b with quotaHeld := [] } = { a with quotaHeld := [] }

/-- The last frame sent on the shop port is the given reply. -/
def lastReply (t : State) (r : Reply) : Prop := t.shopOut.getLast? = some (.reply r)

/-- The reply of a part to a frame, from the given port settings (R183). -/
def replyOf (port : PortSettings) (f : ShopFrame) (job : Nat) (st : Status) (free : Nat) (body : List Byte) :
    Reply :=
  { src := port.station, dst := f.src, etherType := port.frameType, tag := f.tag, job := job,
    sheet := f.sheet, status := st, free := free, body := body }

end Sys2Proof.Machine
end

