-- ==== Sys2Proof/Certificates/Slice0/Obligations.lean ====
section
/-! DEFINITION. The statements for the provers: what each command does by the manual's rules, the arithmetic it uses, and the laws every step keeps. -/

open Sys2Proof Sys2Proof.Machine

/-! ### The queue, reset, and the laws -/

/-- One step takes the command at the front of the queue and runs it on the state with the queue's rest. -/
def Obligations.StepTakesFront : Prop :=
  ∀ (c : Instr) (rest : List Instr) (s : State),
    step (s.withPending (c :: rest)) = exec c (s.withPending rest)

/-- On an empty queue the events that are due enter the queue, each once; when none is due one millisecond
passes. The model's choice (log 2), with the time base's rule R196. -/
def Obligations.StepOnEmptyQueue : Prop :=
  ∀ s : State, s.pending = [] →
    (dueEvents s ≠ [] → ∃ q : List Instr, q.Perm (dueEvents s) ∧
      step s = .next { s with pending := q, freeCtr := s.freeCtr + (dueEvents s).length }) ∧
    (dueEvents s = [] → ∃ t : State, step s = .next t ∧
      t = { s with timeBase := s.timeBase + 1, lines := t.lines, alerts := t.alerts } ∧
      t.alerts = s.alerts.map (fun r => { r with timer := timerTick r.timer }) ∧
      ∀ p, t.line p = { s.line p with
        settle := timerTick (s.line p).settle, wakeLimit := timerTick (s.line p).wakeLimit,
        minAwake := timerTick (s.line p).minAwake, idle := timerTick (s.line p).idle,
        flushLimit := timerTick (s.line p).flushLimit, silence := timerTick (s.line p).silence,
        stall := timerTick (s.line p).stall, moveDelay := timerTick (s.line p).moveDelay })

/-- The state right after reset, as the blocks' reset rules state it: every table at its power-on values
(chapters 2, 5, 7, 8 and 11), every list, counter, line, engine and alert record empty or 0; the strap value 0 is
the model's choice (log 6). -/
def Obligations.ResetState : Prop :=
  State.reset.live = .configuring ∧ State.reset.window = none ∧ State.reset.readout = none ∧
  State.reset.timeBase = 0 ∧ State.reset.free.length = 32768 ∧
  (∀ b : Block, State.reset.free[b.val]? = some b) ∧ State.reset.pool = 4096 ∧
  State.reset.quarantine = [] ∧ State.reset.spoolLow = false ∧ State.reset.stores = [] ∧
  State.reset.jobs = [] ∧ State.reset.jobCtr = 0 ∧ State.reset.waiting = [] ∧
  (∀ p, (State.reset.line p).state = .down ∧ (State.reset.line p).credits = 0 ∧
    (State.reset.line p).capacity = 0 ∧ (State.reset.line p).fifo = [] ∧ (State.reset.line p).queue = [] ∧
    (State.reset.line p).inflight = [] ∧ (State.reset.line p).tagCtr = 0 ∧ (State.reset.line p).pace = 2000 ∧
    (State.reset.line p).modelCode = 0 ∧ flushPending (State.reset.line p).flush = false ∧
    blockingPresent (State.reset.line p).conditions = false) ∧
  (∀ p, State.reset.rosterOf p =
    { rateSet := 0
      mediaMask := 1
      maxInFlight := 4
      nominalPace := 2000
      settle := 20000
      minAwake := 60000
      wakeLimit := 180000
      idleToStandby := 900000
      threshold := 256 }) ∧
  (∀ a, State.reset.account a =
    { cls := 0
      limited := false
      limit := 0
      tier := false
      chargedCost := 0
      chargedSides := 0
      reservedCost := 0
      reservedSides := 0
      period := 0
      quotaHeld := [] }) ∧
  State.reset.engine0 = none ∧ State.reset.engine1 = none ∧ State.reset.lastGranted = 15 ∧
  State.reset.alerts = [] ∧ State.reset.cleared = [] ∧ State.reset.alertCtr = 0 ∧
  State.reset.settings =
    { port :=
        { station := 0x02524E000000
          frameType := 0x8A5C
          console := 0
          stations := Vector.replicate 4 0 }
      flushLimit := 5000
      stallFactor := 4
      stallMin := 10000
      stallMax := 120000
      moveDelay := 120000
      retryLimit := 3
      reminderInterval := 60000
      reminderLimit := 10
      ingestFloor := 256
      lowWater := 2048
      highWater := 4096
      minCharge := 0 } ∧
  (∀ r : Fin 32, State.reset.route[r] = ⟨false, none, none, 0, 0, .spread, 0, false⟩) ∧
  (∀ g : Fin 8, State.reset.group[g] = ⟨0, Vector.replicate 16 0⟩) ∧
  (∀ (r c : Fin 4), State.reset.rate[r][c] = 0) ∧ (∀ m : Fin 16, State.reset.media[m] = 16) ∧
  (∀ r : Fin 4, State.reset.tier[r] = ⟨0, 0⟩) ∧
  (∀ r : Fin 24, State.reset.pattern[r] = ⟨false, 0xFFFF, 1, Vector.replicate 8 0, .jam, .raise, none⟩) ∧
  (∀ p : LineNo, State.reset.meters[p] = ⟨Vector.replicate 4 0, 0, 0⟩) ∧ State.reset.straps = 0

/-- The laws of the manual that the invariants below speak of hold right after reset. -/
def Obligations.LawsAtReset : Prop :=
  DramLaw State.reset ∧ CreditLaw State.reset ∧ PaceLaw State.reset ∧ FifoLaw State.reset ∧
  SheetRecordLaw State.reset ∧ BlockLaw State.reset ∧ AlertTableLaw State.reset ∧ QuarantineLaw State.reset ∧
  NoPassWanted State.reset ∧ IdleLaw State.reset ∧ SchedulerLaw State.reset ∧ AccountLaw State.reset ∧
  WindowLaw State.reset

/-- Every step keeps the spool bytes in canonical form, at most 64 blocks in quarantine (R5), and the table window
within its table (R189). -/
def Obligations.StepKeepsSpoolFormAndQuarantine : Prop :=
  (∀ s t : State, DramLaw s → step s = .next t → DramLaw t) ∧
  (∀ s t : State, QuarantineLaw s → step s = .next t → QuarantineLaw t) ∧
  (∀ s t : State, WindowLaw s → step s = .next t → WindowLaw t)

/-- Every step keeps each credit count between 0 and the capacity of the last HELLO (R67). -/
def Obligations.StepKeepsCreditsWithinCapacity : Prop :=
  ∀ s t : State, CreditLaw s → step s = .next t → CreditLaw t

/-- Every step keeps each pace in 100..60,000 (R102). -/
def Obligations.StepKeepsPaceInRange : Prop := ∀ s t : State, PaceLaw s → step s = .next t → PaceLaw t

/-- Every step keeps each line FIFO's fill, with the burst on its way, at or below 1,024 (R64). -/
def Obligations.StepKeepsFifoWithinItsSize : Prop := ∀ s t : State, FifoLaw s → step s = .next t → FifoLaw t

/-- Every step keeps the job table in order and the count of the 4,096 sheet records (R3, R24). -/
def Obligations.StepConservesSheetRecords : Prop :=
  ∀ s t : State, SheetRecordLaw s → step s = .next t → SheetRecordLaw t

/-- Every step leaves every one of the 32,768 spool blocks in exactly one of the three places of R2: the free
list, a chain, the quarantine list. -/
def Obligations.StepKeepsEveryBlockInOnePlace : Prop :=
  ∀ s t : State, SheetRecordLaw s → BlockLaw s → step s = .next t → BlockLaw t

/-- Every step keeps the alert table's law (R158 to R161), with every event record CLEARED (R163). -/
def Obligations.StepKeepsAlertTable : Prop :=
  ∀ s t : State, AlertTableLaw s → step s = .next t → AlertTableLaw t

/-- Every step ends with no binding pass left to run (R29): the end of every event runs them all. -/
def Obligations.StepRunsEveryBindingPass : Prop :=
  ∀ s t : State, NoPassWanted s → step s = .next t → NoPassWanted t

/-- Every step leaves each idle timer running exactly while its conditions hold (R86). -/
def Obligations.StepKeepsIdleTimers : Prop := ∀ s t : State, IdleLaw s → step s = .next t → IdleLaw t

/-! ### The shop port -/

/-- What the port accepts (R180), and that a frame it does not accept has no effect and no reply. -/
def Obligations.FramesNotAcceptedHaveNoEffect : Prop :=
  (∀ (b : Bool) (s : State) (f : ShopFrame), s.accepts b f = true ↔
    (f.fcsGood = true ∧ f.etherType = s.settings.port.frameType ∧ f.src.getLsbD 40 = false ∧
      (f.dst = s.settings.port.station ∨ (b = true ∧ f.dst = 0xFFFFFFFFFFFF#48)))) ∧
  (∀ (s : State) (f : ShopFrame) (c : Instr), s.accepts false f = false →
    c ∈ jobFrames f ++ namedRequests f ++ [.unknownRequestCode f] → c ≠ .readStatus f →
    exec c s = .next s) ∧
  (∀ (s : State) (f : ShopFrame), s.accepts true f = false → exec (.readStatus f) s = .next s) ∧
  (∀ (s : State) (e : EtherFrame), exec (.shopFrameDropped e) s = .next s)

/-- The form and source checks of an accepted MANAGE frame (R182, R197), with a wrong body size, a wrong value
count and a delta out of its range (R129): each refusal is a reply with an empty body and no other change;
UNKNOWN_REQUEST_CODE is refused so in every case. -/
def Obligations.MalformedRequestsAreRefused : Prop :=
  ∀ (s : State) (f : ShopFrame), s.accepts false f = true →
    (∀ c ∈ namedRequests f,
      ((f.version ≠ 1#8 ∨ f.rest.length + 1 < f.length.toNat) →
        ∃ j, exec c s = .next (s.reply s.settings.port f j .badRequest [])) ∧
      (f.version = 1#8 → f.length.toNat ≤ f.rest.length + 1 → s.isManager f.src = false →
        ∃ j, exec c s = .next (s.reply s.settings.port f j .notPermitted [])) ∧
      (f.version = 1#8 → f.length.toNat = 0 → s.isManager f.src = true →
        ∃ j, exec c s = .next (s.reply s.settings.port f j .badRequest []))) ∧
    (∀ (args : List Byte), Requested s f args → ∀ c ∈ requestSizes f, args.length ≠ c.2 →
      ∃ j, exec c.1 s = .next (s.reply s.settings.port f j .badRequest [])) ∧
    (∀ (args : List Byte), Requested s f args →
      (writeSized args = false → ∀ c ∈ [Instr.tableWrite f, .tableWriteContinue f],
        exec c s = .next (s.reply s.settings.port f 0 .badRequest [])) ∧
      (args.length = 10 → 2 ^ 48 ≤ (signed64 (field args 2 8)).natAbs →
        exec (.adjustLimit f) s = .next (s.reply s.settings.port f 0 .badRequest []))) ∧
    exec (.unknownRequestCode f) s = .next (s.reply s.settings.port f 0
      (if f.version = 1#8 ∧ f.length.toNat ≤ f.rest.length ∧ s.isManager f.src = false then .notPermitted
       else .badRequest) [])

/-- The form checks of an accepted job frame (R197, R184): BAD REQUEST, NOT LIVE, BAD REQUEST, in this
order; the reply follows those of earlier frames of the job that wait behind a store (R183). -/
def Obligations.MalformedJobFramesAreRefused : Prop :=
  ∀ (s : State) (f : ShopFrame), s.accepts false f = true →
    (∀ st, (st = .badRequest ∧ (f.version ≠ 1#8 ∨ f.rest.length < f.length.toNat)) ∨
        (st = .notLive ∧ f.version = 1#8 ∧ f.length.toNat ≤ f.rest.length ∧ s.live = .configuring) →
      exec (.jobOpen f) s = .next (s.reply s.settings.port f 0 st []) ∧
      ∀ c ∈ jobFrameSizes f, exec c.1 s = .next
        (if s.queued f.job.toNat = true then { s with held := s.held ++ [.answer f st []] }
         else s.reply s.settings.port f f.job.toNat st [])) ∧
    (f.version = 1#8 → f.length.toNat ≤ f.rest.length → s.live = .live →
      (f.length.toNat ≠ 9 → exec (.jobOpen f) s = .next (s.reply s.settings.port f 0 .badRequest [])) ∧
      ∀ c ∈ jobFrameSizes f, ¬ c.2 f.length.toNat → exec c.1 s = .next
        (if s.queued f.job.toNat = true then { s with held := s.held ++ [.answer f .badRequest []] }
         else s.reply s.settings.port f f.job.toNat .badRequest []))

/-! ### The management unit -/

/-- GO LIVE (R185): LIVE, with RESYNC made on every line that is not RETIRED; in LIVE, OK and no change. -/
def Obligations.GoLiveMakesResync : Prop :=
  ∀ (s : State) (f : ShopFrame), Requested s f [] → NoPassWanted s →
    (s.live = .live → exec (.goLive f) s = .next (answered s s f 0 .ok [])) ∧
    (s.live = .configuring → ∃ u : State,
      exec (.goLive f) s = .next (answered s u f 0 .ok []) ∧ u = { s with live := .live, lines := u.lines } ∧
      ∀ p, u.line p = if (s.line p).state = .retired then s.line p
        else { s.line p with control := (s.line p).control ++ [.resync] })

/-- READ STATUS (R186 to R188): the figures of its scope, each as section 12.1.2 lays it out, and no change, or the
refusal of its arguments. The codes of the part state, a purpose set, a condition set, a leave target and a hold
reason are free values (log 9); a cursor at the window's end (log 25), and an absent window or readout (log 36)
are the model's reading. -/
def Obligations.ReadStatusReportsItsScope : Prop :=
  ∀ (s : State) (f : ShopFrame) (args : List Byte), StatusRequested s f args → args.length = 3 →
    NoPassWanted s →
    (field args 0 1 = 0 → exec (.readStatus f) s = .next (answered s s f 0 .ok s.partStatus)) ∧
    (field args 0 1 = 1 →
      (∀ p : LineNo, p.val = field args 1 2 →
        exec (.readStatus f) s = .next (answered s s f 0 .ok (s.printerStatus p))) ∧
      (16 ≤ field args 1 2 → exec (.readStatus f) s = .next (answered s s f 0 .badRequest []))) ∧
    (field args 0 1 = 2 →
      (∀ x, s.job? (field args 1 2) = some x →
        exec (.readStatus f) s = .next (answered s s f (field args 1 2) .ok (s.jobStatus x))) ∧
      (s.job? (field args 1 2) = none →
        exec (.readStatus f) s = .next (answered s s f (field args 1 2) .unknownJob []))) ∧
    (2 < field args 0 1 → exec (.readStatus f) s = .next (answered s s f 0 .badRequest [])) ∧
    (∃ state : BitVec 64, s.partStatus =
      be 8 state.toNat ++ be 8 s.settings.port.station.toNat ++ be 8 s.free.length ++ be 8 s.quarantine.length ++
      be 8 s.pool ++ be 8 s.jobs.length ++ be 8 s.jobCtr ++ be 2 s.waiting.length ++ s.waiting.flatMap (be 2) ++
      be 8 s.alerts.length ++ be 8 s.cleared.length ++ be 8 s.alertCtr ++ be 8 (if s.spoolLow then 1 else 0) ++
      (List.finRange 16).flatMap (fun p => be 1 (lineStateCode (s.line p).state)) ++
      (match s.readout with
        | some n => be 8 (meterScopeCode n.scope) ++ be 8 n.next
        | none => List.replicate 16 0xFF#8) ++
      (match s.window with
        | some w => be 8 (tableNumber w.table) ++ be 8 w.firstRow ++ be 8 w.lastRow ++ be 8 w.firstCell ++
            be 8 w.lastCell ++ be 8 (w.write.elim 65535 (·.1)) ++ be 8 (w.write.elim 255 (·.2)) ++
            be 8 (w.read.elim 65535 (·.1)) ++ be 8 (w.read.elim 255 (·.2))
        | none => List.replicate 72 0xFF#8) ++
      be 8 s.timeBase.toNat) ∧
    (∀ p : LineNo,
      let l := s.line p
      ∃ flush conditions : BitVec 64, s.printerStatus p = be 8 (lineStateCode l.state) ++
        (if l.state = .blocked then
          (match l.blockOrigin with
            | some .waking => be 8 1
            | some .ready => be 8 2
            | none => List.replicate 8 0xFF#8) ++ be 8 (if l.flushedDuringBlock then 1 else 0)
         else List.replicate 16 0xFF#8) ++
        (if flushPending l.flush then be 8 flush.toNat else List.replicate 8 0xFF#8) ++
        be 8 (if l.readySeen then 1 else 0) ++ be 8 (if l.standbyPending then 1 else 0) ++
        be 8 conditions.toNat ++ be 1 l.statusText.length ++ l.statusText ++
        (match l.jamTag with
          | some g => be 8 g.toNat
          | none => List.replicate 8 0xFF#8) ++
        be 8 (if l.stalled then 1 else 0) ++ be 8 l.pace ++ be 8 (if l.armed then 1 else 0) ++
        be 8 l.credits ++ be 8 l.capacity ++ be 8 (fifoFill l.fifo) ++ be 8 l.modelCode.toNat ++
        be 8 l.tagCtr.toNat ++ be 2 l.queue.length ++
        l.queue.flatMap (fun j => be 2 j ++ (match s.job? j with
          | some x => be 1 (runStateCode x.run) ++ be 1 x.priority
          | none => be 2 0)) ++
        (match l.feeding with
          | some j => be 8 j
          | none => List.replicate 8 0xFF#8) ++
        be 2 l.inflight.length ++
        l.inflight.flatMap (fun e => be 2 e.job ++ be 1 e.copy ++ be 2 e.sheet ++ [e.tag] ++ be 4 e.cost ++
          be 1 e.sides ++ be 4 e.moved ++ [if e.flushing then 1#8 else 0#8])) ∧
    (∀ x : Job, ∃ target reason : BitVec 64, s.jobStatus x =
        be 8 x.submitterRef.toNat ++ be 8 x.source.toNat ++ be 8 x.account.val ++ be 8 x.kind ++ be 8 x.priority ++ be 8 x.copies ++ be 8 x.mediaSet.toNat ++
        be 8 (if x.retain then 1 else 0) ++ be 8 (if x.moveAllowed then 1 else 0) ++ be 8 x.group.val ++
        be 8 (if x.policy = .spread then 0 else 1) ++ be 8 x.spreadShift ++
        be 8 (if x.ingest = .opened then 0 else 1) ++ be 8 (runStateCode x.run) ++
        (if x.leaveTarget.isSome then be 8 target.toNat else List.replicate 8 0xFF#8) ++
        (if x.holdReason.isSome then be 8 reason.toNat else List.replicate 8 0xFF#8) ++
        (match x.bound with
          | some p => be 8 p.val
          | none => List.replicate 8 0xFF#8) ++
        (match x.excluded with
          | some p => be 8 p.val
          | none => List.replicate 8 0xFF#8) ++
        be 8 x.dispatch.copy ++ be 8 x.dispatch.sheet ++ be 8 x.confirm.copy ++ be 8 x.confirm.sheet ++
        be 8 (completeCount x) ++
        (match openSheet x with
          | some h => be 8 h.index ++ be 8 h.received
          | none => List.replicate 16 0xFF#8) ++
        be 8 (x.sheets.map fun h => h.chain.length).sum ++ be 8 x.noProgress ++ be 8 x.split ++ be 8 x.binding ++
        be 8 x.chargedCost ++ be 8 x.confirmedCopies ++ be 8 x.confirmedSides ++
        (if x.number ∈ s.waiting then be 8 (s.waiting.findIdx fun j => decide (j = x.number))
         else List.replicate 8 0xFF#8) ++
        be 8 (if x.number ∈ (s.account x.account).quotaHeld then 1 else 0))

/-- TABLE WINDOW (R189): the clamps, the window with both cursors at its start, the two refusals, and the
absence of the window after each reset and what it refuses. -/
def Obligations.TableWindowIsSetAndRequired : Prop :=
  (∀ (s : State) (f : ShopFrame) (args : List Byte), Requested s f args → args.length = 7 → NoPassWanted s →
    ((field args 0 1 < 1 ∨ 10 < field args 0 1) →
      exec (.tableWindow f) s = .next (answered s s f 0 .badWindow [])) ∧
    (∀ t, tableOf (field args 0 1) = some t →
      let lastRow := min (field args 3 2) (tableRows t - 1)
      let lastCell := min (field args 6 1) (tableCells t - 1)
      ((lastRow < field args 1 2 ∨ lastCell < field args 5 1) →
        exec (.tableWindow f) s = .next (answered s s f 0 .badWindow [])) ∧
      (field args 1 2 ≤ lastRow → field args 5 1 ≤ lastCell →
        let w : Window :=
          { table := t
            firstRow := field args 1 2
            lastRow := lastRow
            firstCell := field args 5 1
            lastCell := lastCell
            write := some (field args 1 2, field args 5 1)
            read := some (field args 1 2, field args 5 1) }
        exec (.tableWindow f) s = .next (answered s { s with window := some w } f 0 .ok
          (be 1 (field args 0 1) ++ be 2 (field args 1 2) ++ be 2 lastRow ++ be 1 (field args 5 1) ++
            be 1 lastCell))))) ∧
  (∀ n, (∃ t, tableOf n = some t ∧ tableNumber t = n) ↔ (1 ≤ n ∧ n ≤ 10)) ∧
  (∀ (s : State) (f : ShopFrame), NoPassWanted s → s.window = none →
    (∀ args, Requested s f args → writeSized args = true →
      exec (.tableWrite f) s = .next (answered s s f 0 .badWindow []) ∧
      exec (.tableWriteContinue f) s = .next (answered s s f 0 .badWindow [])) ∧
    (Requested s f [] →
      exec (.tableRead f) s = .next (answered s s f 0 .badWindow []) ∧
      exec (.tableReadContinue f) s = .next (answered s s f 0 .badWindow []))) ∧
  State.reset.window = none ∧ (∀ s : State, s.warmReset.window = none) ∧
  (∀ (s : State) (straps : BitVec 4), (s.powerUp straps).window = none)

/-- TABLE WRITE and TABLE WRITE CONTINUE (R190): every value falls in one of taken, skipped and ignored, the
write cursor moves one cell for each value, and no table but the window's is written. -/
def Obligations.TableWriteCountsEveryValue : Prop :=
  ∀ (s : State) (f : ShopFrame) (args : List Byte) (w : Window), Requested s f args →
    writeSized args = true → s.window = some w → ∀ (c : Instr) (start : WindowPos),
    ((c = .tableWrite f ∧ start = some (w.firstRow, w.firstCell)) ∨
      (c = .tableWriteContinue f ∧ start = w.write)) →
    ∃ (t : State) (taken clamped skipped ignored : Nat),
      exec c s = .next t ∧
      t.window = some { w with write := posAfter w (field args 0 1) start } ∧
      taken + skipped + ignored = field args 0 1 ∧
      (posAfter w (field args 0 1) start ≠ none → ignored = 0) ∧
      (w.table ≠ .roster → w.table ≠ .settings → w.table ≠ .account → clamped ≤ taken) ∧
      lastReply t (replyOf s.settings.port f 0 .ok t.free.length
        (be 1 taken ++ (if clamped < 256 then be 1 clamped else [Config.countAbove clamped]) ++
          be 1 skipped ++ be 1 ignored ++ posBytes (posAfter w (field args 0 1) start))) ∧
      (w.table ≠ .route → t.route = s.route) ∧ (w.table ≠ .group → t.group = s.group) ∧
      (w.table ≠ .account → ∀ a, sameFigures (s.account a) (t.account a)) ∧
      (w.table ≠ .rate → t.rate = s.rate) ∧ (w.table ≠ .media → t.media = s.media) ∧
      (w.table ≠ .tier → t.tier = s.tier) ∧ (w.table ≠ .pattern → t.pattern = s.pattern) ∧
      (w.table ≠ .roster → t.roster = s.roster) ∧ (w.table ≠ .settings → t.settings = s.settings) ∧
      t.live = s.live ∧ t.straps = s.straps ∧ t.readout = s.readout ∧ t.timeBase = s.timeBase ∧
      t.dram = s.dram ∧ t.jobCtr = s.jobCtr ∧ t.engine0 = s.engine0 ∧ t.engine1 = s.engine1 ∧
      t.lastGranted = s.lastGranted ∧ t.lineOut = s.lineOut ∧ t.held = s.held ∧ t.pending = s.pending

/-- A write of one value (R190, R198): fitted to its cell as the cell's row of R198 and its owning rule say, and
taken or skipped; the adjustments at the end of a write (R191), as functions and as a write of one value leaves
them in a window that lies in its table (R189, the law of StepKeepsSpoolFormAndQuarantine): the normalisation of a GROUP row with its binding pass (R27), the wake limit (R100), the stall maximum, high
water and the low-mark evaluation (R109, R19), and the limit clamp (R128). A station address value above 2^48 - 1
is clamped before the group-bit rule (R198); that it is clamped and not cut to its low bits, and that it counts as
skipped and not as clamped too where it is then not taken, is the model's choice (log 23). -/
def Obligations.TableWriteFitsValues : Prop :=
  (∀ (s : State) (f : ShopFrame) (bytes : List Byte) (w : Window) (r c : Nat),
    Requested s f (1#8 :: bytes) → bytes.length = 8 → NoPassWanted s → s.window = some w →
    (w.table = .route ∨ w.table = .rate ∨ w.table = .media ∨ w.table = .tier ∨ w.table = .pattern) →
    r = w.firstRow → c = w.firstCell →
    exec (.tableWrite f) s = .next (match s.writeCell w.table r c (beNat bytes) with
      | some (u, cl) => answered s { u with window := some { w with write := nextPos w r c } } f 0 .ok
          ([1#8, if cl then 1#8 else 0#8, 0#8, 0#8] ++ posBytes (nextPos w r c))
      | none => answered s { s with window := some { w with write := nextPos w r c } } f 0 .ok
          ([0#8, 0#8, 1#8, 0#8] ++ posBytes (nextPos w r c)))) ∧
  (∀ (s : State) (r c v : Nat), r < 16 → s.writeCell .media r c v =
    some ({ s with media := s.media.setIfInBounds r (clamp 1 255 v) }, decide (v < 1 ∨ 255 < v))) ∧
  (∀ (s : State) (r : Fin 4) (c v : Nat), s.writeCell .rate r c v =
    some ({ s with rate := s.rate.set r (s.rate[r].setIfInBounds c (clamp 0 65535 v)) }, decide (65535 < v))) ∧
  (∀ (s : State) (r : Fin 4) (v : Nat), s.writeCell .tier r 1 v =
    some ({ s with tier := s.tier.set r { s.tier[r] with discount := clamp 0 50 v } }, decide (50 < v))) ∧
  (∀ (s : State) (p : LineNo) (c v : Nat), (s.line p).state ≠ .down → (s.line p).state ≠ .retired →
    s.writeCell .roster p c v = none) ∧
  (∀ (s : State) (p : LineNo) (v : Nat), ((s.line p).state = .down ∨ (s.line p).state = .retired) →
    s.writeCell .roster p 2 v =
      some ({ s with roster := s.roster.set p ({ s.rosterOf p with maxInFlight := clamp 1 16 v }) },
        decide (v < 1 ∨ 16 < v))) ∧
  (∀ (s : State) (r c v : Nat), 4 ≤ c → s.writeCell .account r c v = none) ∧
  (∀ (s : State) (r c v : Nat), s.writeCell .jobs r c v = none) ∧
  (∀ (s : State) (v : Nat), s.writeCell .settings 0 7 v =
    some ({ s with settings := { s.settings with flushLimit := clamp 500 60000 v } },
      decide (v < 500 ∨ 60000 < v))) ∧
  (∀ a : Account, limitClamp a =
    { a with limit := if a.limited = true then max a.limit (a.chargedCost + a.reservedCost) else a.limit }) ∧
  (∀ r : Roster, raiseWakeLimit r = { r with wakeLimit := max r.wakeLimit r.settle }) ∧
  (∀ (s : State) (cells : List (Nat × Nat)),
    (adjustSettings cells s).1 = { s with settings := { s.settings with
      stallMax := if wroteCell cells 0 9 10 = true then max s.settings.stallMax s.settings.stallMin
        else s.settings.stallMax
      highWater := if wroteCell cells 0 16 17 = true then max s.settings.highWater s.settings.lowWater
        else s.settings.highWater } }) ∧
  (∀ g : GroupRow, g.count ≤ 16 →
    (normaliseGroup g).count ≤ g.count ∧ (groupMembers (normaliseGroup g)).Nodup ∧
    (∀ p, p ∈ groupMembers (normaliseGroup g) ↔ p ∈ groupMembers g) ∧
    (groupMembers (normaliseGroup g)).Sublist (groupMembers g) ∧
    (∀ i : Fin 16, (normaliseGroup g).count ≤ i.val → (normaliseGroup g).members[i] =
      ((g.members.toList.drop g.count)[i.val - (normaliseGroup g).count]?).getD 0)) ∧
  (∀ q ∈ numberCells, ∀ (s : State) (r v : Nat), r < tableRows q.1 →
    (q.1 = .roster → ∀ p : LineNo, p.val = r → (s.line p).state = .down ∨ (s.line p).state = .retired) →
    ∃ u, s.writeCell q.1 r q.2.1 v = some (u, decide (v < q.2.2.1 ∨ q.2.2.2 < v)) ∧
      ∀ t i c, i < tableRows t → c < tableCells t → u.readCell t i c =
        if t = q.1 ∧ i = r ∧ c = q.2.1 then max q.2.2.1 (min q.2.2.2 v) else s.readCell t i c) ∧
  (∀ q ∈ codeCells, ∀ (s : State) (r v : Nat), r < tableRows q.1 →
    ∃ u, s.writeCell q.1 r q.2.1 v = some (u, decide (q.2.2 < v ∧ v ≠ 255)) ∧
      ∀ t i c, i < tableRows t → c < tableCells t → u.readCell t i c =
        if t = q.1 ∧ i = r ∧ c = q.2.1 then (if v = 255 then 255 else min q.2.2 v) else s.readCell t i c) ∧
  (∀ (s : State) (v : Nat), (BitVec.ofNat 48 (min (2 ^ 48 - 1) v)).getLsbD 40 = true →
    s.writeCell .settings 0 0 v = none) ∧
  (∀ (s : State) (v : Nat), (BitVec.ofNat 48 (min (2 ^ 48 - 1) v)).getLsbD 40 = false →
    ∃ u, s.writeCell .settings 0 0 v = some (u, decide (2 ^ 48 - 1 < v)) ∧
      ∀ t i c, i < tableRows t → c < tableCells t → u.readCell t i c =
        if t = .settings ∧ c = 0 then min (2 ^ 48 - 1) v else s.readCell t i c) ∧
  (∀ (s : State) (f : ShopFrame) (bytes : List Byte) (w : Window),
    Requested s f (1#8 :: bytes) → bytes.length = 8 → NoPassWanted s → WindowLaw s → s.window = some w →
    let r := w.firstRow
    let c := w.firstCell
    let v := beNat bytes
    let shown := fun (x : State) => { x with window := some { w with write := nextPos w r c } }
    let body := fun (n : Nat) => [1#8] ++ be 1 n ++ [0#8, 0#8] ++ posBytes (nextPos w r c)
    (s.writeCell w.table r c v = none → exec (.tableWrite f) s =
      .next (answered s (shown s) f 0 .ok ([0#8, 0#8, 1#8, 0#8] ++ posBytes (nextPos w r c)))) ∧
    (∀ (u : State) (cl : Bool), s.writeCell w.table r c v = some (u, cl) →
      let clamps := if cl then 1 else 0
      (∀ i : Fin 8, w.table = .group → i.val = r → exec (.tableWrite f) s = .next (ended s
        (shown { u with
          group := u.group.set i (normaliseGroup u.group[i])
          passesWanted := if normaliseGroup u.group[i] = s.group[i] then 0 else 1 }) f 0 .ok (body clamps))) ∧
      (∀ a : AccountNo, w.table = .account → a.val = r → exec (.tableWrite f) s = .next (ended s
        (shown (u.modAccount a limitClamp)) f 0 .ok
        (body (clamps + if limitClamp (u.account a) = u.account a then 0 else 1)))) ∧
      (∀ p : LineNo, w.table = .roster → p.val = r →
        let x := if c = 4 ∨ c = 6 then raiseWakeLimit (u.rosterOf p) else u.rosterOf p
        exec (.tableWrite f) s = .next (answered s (shown { u with roster := u.roster.set p x }) f 0 .ok
          (body (clamps + if x = u.rosterOf p then 0 else 1)))) ∧
      (w.table = .settings →
        let x := (adjustSettings [(r, c)] u).1
        let marked := ({ u with settings := { x.settings with
          port := s.settings.port, reminderInterval := s.settings.reminderInterval } }).evalSpoolLow
        ∃ t, exec (.tableWrite f) s = .next t ∧ t.settings = x.settings ∧
          t.window = (shown s).window ∧
          (c ≠ 16 → c ≠ 17 → t.spoolLow = s.spoolLow ∧ t.alerts = s.alerts ∧ t.cleared = s.cleared) ∧
          ((c = 16 ∨ c = 17) → t.spoolLow = marked.spoolLow ∧ t.alerts = marked.alerts ∧
            t.cleared = marked.cleared) ∧
          lastReply t (replyOf s.settings.port f 0 .ok t.free.length
            (body (clamps + if x.settings = u.settings then 0 else 1))))))

/-- TABLE READ and TABLE READ CONTINUE (R192): up to 128 cells in cursor order, MORE or LAST, and the read
cursor after them; and the cursor order itself (R190). The position sent by a read that begins at the window's
end, where no cell is returned, is row 65,535, cell 255: the model's reading (log 25). -/
def Obligations.TableReadReturnsCells : Prop :=
  (∀ (s : State) (f : ShopFrame) (w : Window), Requested s f [] → NoPassWanted s → s.window = some w →
    ∀ (c : Instr) (start : WindowPos),
    ((c = .tableRead f ∧ start = some (w.firstRow, w.firstCell)) ∨ (c = .tableReadContinue f ∧ start = w.read)) →
    ∃ values : List Nat,
      (∀ k, values[k]? = if k < 128 then
        (posAfter w k start).map (fun q => s.readCell w.table q.1 q.2) else none) ∧
      exec c s = .next (answered s { s with window := some { w with read := posAfter w 128 start } } f 0
        (if posAfter w 128 start = none then .last else .more)
        (posBytes start ++ be 1 values.length ++ values.flatMap (be 8)))) ∧
  (∀ (w : Window) (k : Nat), w.firstRow ≤ w.lastRow → w.firstCell ≤ w.lastCell →
    posAfter w k (some (w.firstRow, w.firstCell)) =
      if k < (w.lastRow - w.firstRow + 1) * (w.lastCell - w.firstCell + 1) then
        some (w.firstRow + k / (w.lastCell - w.firstCell + 1), w.firstCell + k % (w.lastCell - w.firstCell + 1))
      else none)

/-! ### Accounts and meters -/

/-- ADJUST LIMIT (R129): the limit moved by the delta, saturating, then clamped; the figures of every other
account and everything outside the event machinery unchanged. The request's own change is the limit alone, and the
end of the event takes what it causes (a quota retry, R133). -/
def Obligations.AdjustLimitMovesTheLimit : Prop :=
  ∀ (s : State) (f : ShopFrame) (args : List Byte), Requested s f args → args.length = 10 →
    (signed64 (field args 2 8)).natAbs ≤ 2 ^ 48 - 1 →
    (255 < field args 0 2 → NoPassWanted s →
      exec (.adjustLimit f) s = .next (answered s s f 0 .badRequest [])) ∧
    (∀ a : AccountNo, a.val = field args 0 2 →
      let old := s.account a
      let moved := min (2 ^ 48 - 1) ((old.limit : Int) + signed64 (field args 2 8)).toNat
      let used := old.chargedCost + old.reservedCost
      let limit := if old.limited = true then max moved used else moved
      ∃ t : State, exec (.adjustLimit f) s = .next t ∧
        sameFigures { old with limit := limit } (t.account a) ∧
        (∀ b, b ≠ a → sameFigures (s.account b) (t.account b)) ∧ sameOutside s t ∧
        lastReply t (replyOf s.settings.port f 0 .ok t.free.length
          (be 8 limit ++ be 8 used ++ be 8 (available { old with limit := limit }) ++
            [if limit = moved then 0#8 else 1#8])) ∧
        exec (.adjustLimit f) s = .next (ended s (s.modAccount a fun x => { x with limit := limit }) f 0 .ok
          (be 8 limit ++ be 8 used ++ be 8 (available { old with limit := limit }) ++
            [if limit = moved then 0#8 else 1#8])))

/-- CLOSE PERIOD (R130): charged figures 0 and the period advanced, of one account or of all; the other
figures unchanged. The end of the event takes what the close causes (a quota retry, R133). -/
def Obligations.ClosePeriodZeroesCharges : Prop :=
  ∀ (s : State) (f : ShopFrame) (args : List Byte), Requested s f args → args.length = 2 →
    (255 < field args 0 2 → field args 0 2 ≠ 65535 → NoPassWanted s →
      exec (.closePeriod f) s = .next (answered s s f 0 .badRequest [])) ∧
    (∀ a : AccountNo, a.val = field args 0 2 → ∃ t : State, exec (.closePeriod f) s = .next t ∧
      sameFigures { s.account a with chargedCost := 0, chargedSides := 0, period := (s.account a).period + 1 }
        (t.account a) ∧
      (∀ b, b ≠ a → sameFigures (s.account b) (t.account b)) ∧ sameOutside s t ∧
      lastReply t (replyOf s.settings.port f 0 .ok t.free.length (be 2 ((s.account a).period + 1).toNat)) ∧
      exec (.closePeriod f) s = .next (ended s (s.modAccount a fun x =>
        { x with chargedCost := 0, chargedSides := 0, period := x.period + 1 }) f 0 .ok
        (be 2 ((s.account a).period + 1).toNat))) ∧
    (field args 0 2 = 65535 → ∃ t : State, exec (.closePeriod f) s = .next t ∧
      (∀ a, sameFigures { s.account a with
        chargedCost := 0, chargedSides := 0, period := (s.account a).period + 1 } (t.account a)) ∧
      sameOutside s t ∧ lastReply t (replyOf s.settings.port f 0 .ok t.free.length (be 2 256)) ∧
      ∃ u : State, exec (.closePeriod f) s = .next (ended s u f 0 .ok (be 2 256)) ∧
        u = { s with accounts := u.accounts } ∧ ∀ a, u.account a =
          { s.account a with chargedCost := 0, chargedSides := 0, period := (s.account a).period + 1 })

/-- READ METERS START and NEXT (R173 to R177): the snapshot is copied before the close; part 0 is sent at
once, each later part once, and the buffer is empty after the last. The close flag is yes for every value but 0:
for values above 1 the model's choice (log 21). What the close of the accounts causes (a quota retry, R133) is
taken at the end of the event. -/
def Obligations.MeterReadoutSendsParts : Prop :=
  (∀ (s : State) (f : ShopFrame) (args : List Byte), Requested s f args → args.length = 2 →
    (1 < field args 0 1 → NoPassWanted s →
      exec (.readMetersStart f) s = .next (answered s s f 0 .badRequest [])) ∧
    (field args 0 1 = 0 →
      let n : Snapshot := { scope := .accounts, records := s.snapRecords .accounts, next := 1 }
      (field args 1 1 = 0 → NoPassWanted s → exec (.readMetersStart f) s =
        .next (answered s { s with readout := some n } f 0 .more (partBody n 0))) ∧
      (field args 1 1 ≠ 0 → ∃ t : State, exec (.readMetersStart f) s = .next t ∧
        t.readout = some n ∧
        (∀ a, sameFigures { s.account a with
          chargedCost := 0, chargedSides := 0, period := (s.account a).period + 1 } (t.account a)) ∧
        lastReply t (replyOf s.settings.port f 0 .more t.free.length (partBody n 0)) ∧
        ∃ u : State, exec (.readMetersStart f) s = .next (ended s u f 0 .more (partBody n 0)) ∧
          u = { s with readout := some n, accounts := u.accounts } ∧ ∀ a, u.account a =
            { s.account a with chargedCost := 0, chargedSides := 0, period := (s.account a).period + 1 })) ∧
    (field args 0 1 = 1 → NoPassWanted s → exec (.readMetersStart f) s = .next (answered s
      { s with
        readout := none
        meters := if field args 1 1 = 0 then s.meters else Vector.replicate 16 Meter.zero } f 0 .last
      (partBody { scope := .printers, records := s.snapRecords .printers, next := 0 } 0)))) ∧
  (∀ (s : State) (f : ShopFrame), Requested s f [] → NoPassWanted s →
    (s.readout = none → exec (.readMetersNext f) s = .next (answered s s f 0 .noReadout [])) ∧
    (∀ n, s.readout = some n →
      (n.next + 1 < partCount n.scope → exec (.readMetersNext f) s = .next (answered s
        { s with readout := some { n with next := n.next + 1 } } f 0 .more (partBody n n.next))) ∧
      (partCount n.scope ≤ n.next + 1 → exec (.readMetersNext f) s = .next (answered s
        { s with readout := none } f 0 .last (partBody n n.next))))) ∧
  (∀ (s : State) (k : Fin 16) (n : Nat),
    partRecords { scope := .accounts, records := s.snapRecords .accounts, next := n } k =
      (List.range 16).map fun i =>
        let a : AccountNo := Fin.ofNat 256 (16 * k.val + i)
        .account a.val (s.account a).period (s.account a).limited (s.account a).limit
          (s.account a).chargedCost (s.account a).chargedSides (s.account a).reservedCost)

/-! ### Job control -/

/-- A job control request whose number names no job record in use is refused UNKNOWN JOB and changes nothing
(R35); MOVE JOB judges its group first (log 20). -/
def Obligations.JobControlOfNoJobIsRefused : Prop :=
  ∀ (s : State) (f : ShopFrame) (args : List Byte), Requested s f args → NoPassWanted s →
    (∀ c ∈ jobControls f, args.length = c.2 → s.job? (argJob args) = none →
      (c.1 = .moveJob f → field args 2 1 ≤ 7) →
      exec c.1 s = .next (answered s s f (argJob args) .unknownJob [])) ∧
    (args.length = 3 → 7 < field args 2 1 →
      exec (.moveJob f) s = .next (answered s s f (argJob args) .badRequest []))

/-- HOLD JOB (R36), by run state. -/
def Obligations.HoldJobByRunState : Prop :=
  ∀ (s : State) (f : ShopFrame) (args : List Byte) (x : Job), Requested s f args → args.length = 2 →
    NoPassWanted s → s.job? (argJob args) = some x →
    let j := x.number
    ((x.run = .new ∨ x.run = .waiting) → exec (.holdJob f) s = .next (answered s
      (({ s with waiting := without j s.waiting }).modJob j fun y =>
        { y with run := .held, holdReason := some .operator }) f j .ok [])) ∧
    ((x.run = .queued ∨ x.run = .feeding ∨ x.run = .draining) →
      exec (.holdJob f) s = .next (answered s (s.startLeaving j .held (some .operator)) f j .ok [])) ∧
    (x.run = .leaving → x.leaveTarget ≠ some .held → exec (.holdJob f) s = .next (answered s
      (s.modJob j fun y => { y with leaveTarget := some .held, holdReason := some .operator }) f j .ok [])) ∧
    ((x.run = .held ∨ (x.run = .leaving ∧ x.leaveTarget = some .held)) →
      (x.holdReason = some .quota → exec (.holdJob f) s = .next (answered s
        ((s.modJob j fun y => { y with holdReason := some .operator }).leaveQuota x.account j) f j .ok [])) ∧
      (x.holdReason ≠ some .quota → exec (.holdJob f) s = .next (answered s s f j .ok []))) ∧
    ((x.run = .done ∨ x.run = .failed ∨ x.run = .cancelled) →
      exec (.holdJob f) s = .next (answered s s f j .badState []))

/-- RELEASE JOB (R37), by run state. -/
def Obligations.ReleaseJobByRunState : Prop :=
  ∀ (s : State) (f : ShopFrame) (args : List Byte) (x : Job), Requested s f args → args.length = 2 →
    NoPassWanted s → s.job? (argJob args) = some x →
    let j := x.number
    (x.run = .held → 1 ≤ completeCount x →
      exec (.releaseJob f) s = .next (ended s ((s.leaveQuota x.account j).enterWaiting j) f j .ok [])) ∧
    (x.run = .held → completeCount x = 0 → exec (.releaseJob f) s = .next (answered s
      ((s.leaveQuota x.account j).modJob j fun y => { y with run := .new, holdReason := none }) f j .ok [])) ∧
    (x.run = .leaving → x.leaveTarget = some .held → exec (.releaseJob f) s = .next (answered s
      ((s.leaveQuota x.account j).modJob j fun y => { y with leaveTarget := some .waiting, holdReason := none })
      f j .ok [])) ∧
    (x.run ≠ .held → ¬(x.run = .leaving ∧ x.leaveTarget = some .held) →
      exec (.releaseJob f) s = .next (answered s s f j .badState []))

/-- MOVE JOB (R38), by run state. -/
def Obligations.MoveJobByRunState : Prop :=
  ∀ (s : State) (f : ShopFrame) (args : List Byte) (x : Job) (g : Fin 8), Requested s f args →
    args.length = 3 → NoPassWanted s → s.job? (argJob args) = some x → g.val = field args 2 1 →
    let j := x.number
    let moved := s.modJob j fun y => { y with group := g }
    ((x.run = .new ∨ x.run = .held ∨ (x.run = .leaving ∧ x.leaveTarget = some .held)) →
      exec (.moveJob f) s = .next (answered s moved f j .ok [])) ∧
    (x.run = .waiting → exec (.moveJob f) s = .next (ended s
      (moved.modJob j fun y => { y with excluded := none }).wantPass f j .ok [])) ∧
    ((x.run = .queued ∨ x.run = .feeding ∨ x.run = .draining) →
      exec (.moveJob f) s = .next (ended s (moved.startLeaving j .waiting none) f j .ok [])) ∧
    (x.run = .leaving → x.leaveTarget ≠ some .held → exec (.moveJob f) s = .next (answered s
      (moved.modJob j fun y => { y with leaveTarget := some .waiting }) f j .ok [])) ∧
    ((x.run = .done ∨ x.run = .failed ∨ x.run = .cancelled) →
      exec (.moveJob f) s = .next (answered s s f j .badState []))

/-- REPRINT JOB (R42): a retained DONE job with a complete sheet enters the waiting list anew; any other is
refused BAD STATE. PURGE JOB (R41): refused while the job is live or has entries, taken later while a store is
under way, else the record is freed, its sheet records go to the pool and its blocks to the free list's tail. -/
def Obligations.EndedJobsReprintAndPurge : Prop :=
  ∀ (s : State) (f : ShopFrame) (args : List Byte) (x : Job), Requested s f args →
    NoPassWanted s → s.job? (argJob args) = some x →
    (args.length = 4 → x.run = .done → x.retain = true → 1 ≤ completeCount x → exec (.reprintJob f) s = .next (ended s
      ((s.modJob x.number fun y =>
        { y with
          copies := max 1 (min 255 (field args 2 2))
          dispatch := ⟨0, 0⟩
          confirm := ⟨0, 0⟩
          noProgress := 0
          binding := 0 }).enterWaiting x.number) f x.number .ok [])) ∧
    (args.length = 4 → ¬(x.run = .done ∧ x.retain = true ∧ 1 ≤ completeCount x) →
      exec (.reprintJob f) s = .next (answered s s f x.number .badState [])) ∧
    let j := x.number
    let endedRun := x.run = .done ∨ x.run = .failed ∨ x.run = .cancelled
    (args.length = 2 → ¬endedRun → exec (.purgeJob f) s = .next (answered s s f j .badState [])) ∧
    (args.length = 2 → endedRun → s.hasEntries j = true → exec (.purgeJob f) s = .next (answered s s f j .busy [])) ∧
    (args.length = 2 → endedRun → s.hasEntries j = false → s.storing j = true → exec (.purgeJob f) s = .next (answered s
      { s with stores := s.stores.map fun t => if t.job = j then { t with purge := true } else t } f j .ok [])) ∧
    (args.length = 2 → endedRun → s.hasEntries j = false → s.storing j = false → ∃ u : State,
      exec (.purgeJob f) s = .next (answered s u f j .ok []) ∧ u.job? j = none ∧
      (∀ k, k ≠ j → u.job? k = s.job? k) ∧ u.pool = s.pool + x.sheets.length ∧
      u.free = s.free ++ x.sheets.flatMap (fun (h : Sheet) => h.chain) ∧ u.quarantine = s.quarantine ∧
      u.lines = s.lines ∧ u.accounts = s.accounts ∧ u.meters = s.meters ∧ u.waiting = s.waiting ∧
      u.stores = s.stores ∧ sameOutside s u)

/-- CANCEL JOB (R40) and a permitted JOB CANCEL (R39): the same effect and replies. A JOB CANCEL taken during a
store of its job acts at once, and its reply waits for the store's (R11, R183); behind an earlier frame of the job
that waits, it waits itself (log 11). JOB CANCEL of another station's job by a sender that is no management
station is refused NOT PERMITTED. The cancelled job leaves every list and its open sheet is discarded, or left to
the end of the store under way (R11); without entries its storage is released at once, with entries they take the
flush of purpose CANCEL (R17, R92). -/
def Obligations.CancelJobEndsALiveJob : Prop :=
  (∀ (s : State) (f : ShopFrame) (args : List Byte) (x : Job), Requested s f args → args.length = 2 →
    NoPassWanted s → s.job? (argJob args) = some x →
    (x.run = .cancelled → exec (.cancelJob f) s = .next (answered s s f x.number .ok [])) ∧
    ((x.run = .done ∨ x.run = .failed) → exec (.cancelJob f) s = .next (answered s s f x.number .badState [])) ∧
    (jobLive x = true → exec (.cancelJob f) s = .next (answered s (s.cancelLive x.number) f x.number .ok []))) ∧
  (∀ (s : State) (f : ShopFrame), JobFrameTaken s f [] → NoPassWanted s →
    let j := f.job.toNat
    let after := fun (u : State) (st : Status) =>
      if s.queued j = true then { u.refreshIdle with held := s.held ++ [.answer f st []] } else answered s u f j st []
    ((∃ h ∈ s.held, heldIsFrame h = true ∧ heldJob h = j) →
      exec (.jobCancel f) s = .next { s with held := s.held ++ [.frame .jobCancel f] }) ∧
    ((∀ h ∈ s.held, heldIsFrame h = true → heldJob h ≠ j) →
      (s.job? j = none → exec (.jobCancel f) s = .next (after s .unknownJob)) ∧
      (∀ x, s.job? j = some x →
        (f.src ≠ x.source → s.isManager f.src = false → exec (.jobCancel f) s = .next (after s .notPermitted)) ∧
        ((f.src = x.source ∨ s.isManager f.src = true) →
          (x.run = .cancelled → exec (.jobCancel f) s = .next (after s .ok)) ∧
          ((x.run = .done ∨ x.run = .failed) → exec (.jobCancel f) s = .next (after s .badState)) ∧
          (jobLive x = true → exec (.jobCancel f) s = .next (after (s.cancelLive j) .ok)))))) ∧
  (∀ (s : State) (x : Job), s.job? x.number = some x →
    let j := x.number
    let t := s.cancelLive j
    let storing := s.stores.any fun u => decide (u.job = j)
    let chain := match openSheet x with
      | some h => if storing = true then [] else h.chain
      | none => []
    let y : Job :=
      { x with
        run := .cancelled
        leaveTarget := none
        holdReason := none
        excluded := none
        bound := none
        sheets := if (openSheet x).isSome = true ∧ storing = false then x.sheets.dropLast else x.sheets }
    let kept := if storing = true then x.sheets.filter (fun h => decide (h.state ≠ .complete)) else []
    let released := if storing = true then x.sheets.filter (fun h => decide (h.state = .complete)) else y.sheets
    (s.hasEntries j = false → t.job? j = some { y with sheets := kept } ∧
      t.free = s.free ++ chain ++ released.flatMap (fun (h : Sheet) => h.chain) ∧
      t.pool + kept.length = s.pool + x.sheets.length) ∧
    (s.hasEntries j = true → t.job? j = some y ∧ t.free = s.free ++ chain ∧
      t.pool + y.sheets.length = s.pool + x.sheets.length) ∧
    (∀ p, s.entryLine j = some p →
      let l := s.line p
      l.state ≠ .down → l.state ≠ .standby → l.state ≠ .retired →
      (flushPending l.flush = false → (t.line p).flush = ⟨false, true, false, false, false, false⟩ ∧
        (t.line p).inflight = l.inflight.map (fun e => { e with flushing := true }) ∧ (t.line p).fifo = [] ∧
        (t.line p).control = l.control ++ [.cancelSheets] ∧
        (t.line p).flushLimit = timerStart s.settings.flushLimit) ∧
      (flushPending l.flush = true → (t.line p).flush = { l.flush with cancel := true } ∧
        (t.line p).inflight = l.inflight ∧ (t.line p).fifo = l.fifo ∧ (t.line p).control = l.control ∧
        (t.line p).flushLimit = l.flushLimit)) ∧
    (∀ k, k ∈ t.waiting ↔ k ∈ s.waiting ∧ k ≠ j) ∧
    (∀ p, x.bound = some p → (t.line p).queue = without j (s.line p).queue ∧ (t.line p).feeding ≠ some j) ∧
    (∀ p, x.bound ≠ some p → s.entryLine j ≠ some p → t.line p = s.line p) ∧
    (∀ a, sameFigures (s.account a) (t.account a) ∧
      (t.account a).quotaHeld = if a = x.account then without j (s.account a).quotaHeld
        else (s.account a).quotaHeld) ∧
    t.meters = s.meters ∧ t.stores = s.stores ∧ sameOutside s t)

/-- A job that becomes LEAVING keeps its printer while it has entries, and without entries leaves at once
toward its target (R48, R34). -/
def Obligations.LeavingEndsWithItsEntries : Prop :=
  ∀ (s : State) (j : Nat) (x : Job) (t : LeaveTarget) (r : Option HoldReason), s.job? j = some x →
    (s.hasEntries j = true → (s.startLeaving j t r).job? j =
      some { x with run := .leaving, leaveTarget := some t, holdReason := r }) ∧
    (∀ p, x.bound = some p → s.hasEntries j = false → atEnd x x.confirm = false →
      j ∉ ((s.startLeaving j t r).line p).queue ∧
      (t = .held → (s.startLeaving j t r).job? j =
        some { x with run := .held, leaveTarget := none, holdReason := r, bound := none }) ∧
      (t = .waiting → j ∈ (s.startLeaving j t r).waiting ∧ (s.startLeaving j t r).job? j =
        some (splitRule { x with run := .waiting, leaveTarget := none, holdReason := none, bound := none })) ∧
      (t = .waitingExclude → j ∈ (s.startLeaving j t r).waiting ∧ (s.startLeaving j t r).job? j =
        some (splitRule { x with
          run := .waiting, leaveTarget := none, holdReason := none, bound := none, excluded := some p })))

/-- The places of a job in the waiting list (R26) and in a printer's queue (R33); the printer a binding pass
chooses (R28, R30, R31): the first eligible member on the walk under SPREAD, the first of least finish estimate
(R107, R108) under EARLIEST, none exactly when no member is eligible; and what the binding does to the printer, a
STANDBY one of which makes WAKE and enters WAKING (R32, R82). The binding pass (R29): the waiting list in its order,
each job bound to the printer chosen for it, or left without its exclusion; the requests made while a pass runs are
served by one later pass. The end of an event (`settleEvent`, SheetStartReservesAndEnters) runs a pass for each
request until none is left, then the move delays of 0 that the event has started (R152): that its passes come after
its own changes (log 15) and that of several such lines the lowest comes first, with its passes before the next
(log 40), is the model's choice. -/
def Obligations.BindingChoiceAndPlaces : Prop :=
  (∀ (prio : Nat → Nat) (j q : Nat) (l : List Nat), ∃ a b, l = a ++ b ∧ insertWaiting prio j q l = a ++ j :: b ∧
    (∀ k ∈ a, q ≤ prio k) ∧ (∀ k, b.head? = some k → prio k < q)) ∧
  (∀ (P : Nat → Bool) (j : Nat) (l : List Nat), ∃ a b, l = a ++ b ∧ insertAfterLast P j l = a ++ j :: b ∧
    (∀ k, a.getLast? = some k → P k = true) ∧ (∀ k ∈ b, P k = false)) ∧
  (∀ (s : State) (j q : Nat) (p : LineNo) (x : Job), s.job? j = some x →
    (∃ y, (s.bind j q p).job? j = some y ∧ y.bound = some p ∧ y.binding = 0 ∧ y.excluded = none ∧
      (y.run = .queued ∨ y.run = .feeding) ∧ (y.run = .feeding ↔ ((s.bind j q p).line p).feeding = some j)) ∧
    j ∈ ((s.bind j q p).line p).queue ∧ j ∉ (s.bind j q p).waiting ∧
    ((s.bind j q p).line p).standbyPending = false) ∧
  (∀ (s : State) (x : Job),
    (∀ p, s.choosePrinter x = some p → p ∈ groupMembers s.group[x.group] ∧ x.excluded ≠ some p ∧
      ((s.line p).state = .ready ∨ (s.line p).state = .waking ∨ (s.line p).state = .standby) ∧
      (∀ i : Fin 16, x.mediaSet.getLsbD i = true → (s.rosterOf p).mediaMask.getLsbD i = true) ∧
      (x.policy = .earliest → ∀ q ∈ groupMembers s.group[x.group], s.eligible x q = true →
        s.estimate p ≤ s.estimate q)) ∧
    (s.choosePrinter x = none ↔ ∀ p ∈ groupMembers s.group[x.group], s.eligible x p = false)) ∧
  (∀ (s : State) (x : Job) (p : LineNo), s.eligible x p = true ↔
    (((s.line p).state = .ready ∨ (s.line p).state = .waking ∨ (s.line p).state = .standby) ∧
      x.excluded ≠ some p ∧ ∀ i : Fin 16, x.mediaSet.getLsbD i = true → (s.rosterOf p).mediaMask.getLsbD i = true)) ∧
  (∀ (s : State) (x : Job) (k : Nat) (p : LineNo),
    let members := groupMembers s.group[x.group]
    let walk := fun (i : Nat) => members[(x.number / 2 ^ x.spreadShift + i) % members.length]?
    x.policy = .spread → k < members.length → walk k = some p → s.eligible x p = true →
    (∀ i q, i < k → walk i = some q → s.eligible x q = false) → s.choosePrinter x = some p) ∧
  (∀ (s : State) (x : Job) (p : LineNo), x.policy = .earliest → s.choosePrinter x = some p →
    ∃ a b, groupMembers s.group[x.group] = a ++ p :: b ∧
      (∀ q ∈ a, s.eligible x q = true → s.estimate p < s.estimate q) ∧
      ∀ q ∈ b, s.eligible x q = true → s.estimate p ≤ s.estimate q) ∧
  (∀ (s : State) (p : LineNo),
    let terms := (s.line p).queue.map fun j => (s.job? j).elim 0 fun x => x.copies * completeCount x - x.binding
    let warm := match (s.line p).state with
      | .standby => (s.rosterOf p).settle
      | .waking => timeLeft (s.line p).settle
      | _ => 0
    s.estimate p = min (2 ^ 32 - 1) (min (2 ^ 32 - 1) (terms.sum * (s.line p).pace) + warm)) ∧
  (∀ (s : State) (j q : Nat) (p : LineNo) (x : Job), s.job? j = some x →
    let t := s.bind j q p
    (∀ k, s.goesBehind q k = true ↔ ∃ y, s.job? k = some y ∧
      (y.run = .feeding ∨ y.run = .draining ∨ y.run = .leaving ∨ (y.run = .queued ∧ q ≤ y.priority))) ∧
    (t.line p).queue = insertAfterLast (s.goesBehind q) j (without j (s.line p).queue) ∧
    t.waiting = without j s.waiting ∧ (∀ r, r ≠ p → t.line r = s.line r) ∧ t.accounts = s.accounts ∧
    ((s.line p).state ≠ .standby → (t.line p).state = (s.line p).state ∧
      (t.line p).control = (s.line p).control ∧ t.passesWanted = s.passesWanted) ∧
    ((s.line p).state = .standby → (t.line p).control = (s.line p).control ++ [.wake] ∧
      t.passesWanted = s.passesWanted + 1 ∧
      (blockingPresent (s.line p).conditions = false → (t.line p).state = .waking ∧
        (t.line p).settle = timerStart (s.rosterOf p).settle ∧
        (t.line p).wakeLimit = timerStart (s.rosterOf p).wakeLimit) ∧
      (blockingPresent (s.line p).conditions = true → (t.line p).state = .blocked))) ∧
  (∀ s : State, s.pass =
    let t := s.waiting.foldl State.judge { s with passesWanted := 0 }
    { t with passesWanted := s.passesWanted + if t.passesWanted = 0 then 0 else 1 }) ∧
  (∀ (s : State) (j : Nat), (s.job? j = none → s.judge j = s) ∧
    ∀ x, s.job? j = some x →
      (∀ p, s.choosePrinter x = some p → s.judge j = s.bind j x.priority p) ∧
      (s.choosePrinter x = none → s.judge j = s.modJob j (fun y => { y with excluded := none }) ∧
        (s.judge j).job? j = some { x with excluded := none } ∧ (s.judge j).waiting = s.waiting)) ∧
  (∀ (s : State) (n : Nat), State.passes 0 s = s ∧ State.passes (n + 1) s = State.passes n s.pass) ∧
  settleFuel = 64 ∧
  (∀ (before s : State) (n : Nat),
    let due := fun (p : LineNo) => timerDue (s.line p).moveDelay = true ∧
      timerDue (before.line p).moveDelay = false ∧ (s.line p).state = .blocked
    (s.passesWanted ≠ 0 → settleLoop before (n + 1) s =
      settleLoop before n (State.passes s.passesWanted { s with passesWanted := 0 })) ∧
    (∀ p, s.passesWanted = 0 → due p → (∀ q, q < p → ¬due q) →
      settleLoop before (n + 1) s = settleLoop before n (s.moveOff p)) ∧
    (s.passesWanted = 0 → (∀ p, ¬due p) → settleLoop before n s = s))

/-! ### Printer control -/

/-- STANDBY (R88), by line state and situation. That the line's FIFO stays as it is at the entry into STANDBY is the
model's choice (log 37): R86 names no emptying, and R92 says that the FIFO of a STANDBY line is empty. -/
def Obligations.StandbyByLineState : Prop :=
  ∀ (s : State) (f : ShopFrame) (args : List Byte), Requested s f args → args.length = 1 → NoPassWanted s →
    (15 < field args 0 1 → exec (.standbyRequest f) s = .next (answered s s f 0 .badRequest [])) ∧
    (∀ p : LineNo, p.val = field args 0 1 →
      let l := s.line p
      (l.state = .standby → exec (.standbyRequest f) s = .next (answered s s f 0 .ok [])) ∧
      (l.state = .ready → flushPending l.flush = false →
        ((l.queue ≠ [] ∨ l.inflight ≠ []) →
          exec (.standbyRequest f) s = .next (answered s s f 0 .busy [])) ∧
        (l.queue = [] → l.inflight = [] → timerRuns l.minAwake = true → exec (.standbyRequest f) s =
          .next (answered s (s.modLine p fun l => { l with standbyPending := true }) f 0 .ok [])) ∧
        (l.queue = [] → l.inflight = [] → timerRuns l.minAwake = false → exec (.standbyRequest f) s =
          .next (ended s (s.modLine p fun l =>
            { l with
              state := .standby
              standbyPending := false
              armed := false
              control := l.control ++ [.standby]
              settle := .stopped
              wakeLimit := .stopped
              minAwake := .stopped
              idle := .stopped
              flushLimit := .stopped
              stall := .stopped
              moveDelay := .stopped }).wantPass f 0 .ok []))) ∧
      ((l.state ≠ .standby ∧ (l.state = .ready → flushPending l.flush = true)) →
        exec (.standbyRequest f) s = .next (answered s s f 0 .badState [])))

/-- WAKE (R89): a line in STANDBY enters WAKING (R82) and the reply is OK; in every other state OK, no change.
The entry into WAKING (R82): ready seen no, the two timers started, WAKE made when it is due, a binding pass
asked for; BLOCKED at once when a blocking condition is present, with the block counted. -/
def Obligations.WakeByLineState : Prop :=
  (∀ (s : State) (f : ShopFrame) (args : List Byte), Requested s f args → args.length = 1 → NoPassWanted s →
    (15 < field args 0 1 → exec (.wakeRequest f) s = .next (answered s s f 0 .badRequest [])) ∧
    (∀ p : LineNo, p.val = field args 0 1 →
      ((s.line p).state = .standby →
        exec (.wakeRequest f) s = .next (ended s (s.enterWaking p true) f 0 .ok [])) ∧
      ((s.line p).state ≠ .standby → exec (.wakeRequest f) s = .next (answered s s f 0 .ok []) ∧
        ((answered s s f 0 .ok []).line p).standbyPending = (s.line p).standbyPending))) ∧
  (∀ (s : State) (p : LineNo) (wake : Bool),
    let t := s.enterWaking p wake
    t.passesWanted = s.passesWanted + 1 ∧ (∀ q, q ≠ p → t.line q = s.line q) ∧ (t.line p).readySeen = false ∧
    (t.line p).control = (s.line p).control ++ (if wake then [.wake] else []) ∧
    (t.line p).armed = false ∧ (t.line p).queue = (s.line p).queue ∧
    (blockingPresent (s.line p).conditions = false →
      (t.line p).state = .waking ∧ (t.line p).stall = .stopped ∧
      (t.line p).settle = timerStart (s.rosterOf p).settle ∧
      (t.line p).wakeLimit = timerStart (s.rosterOf p).wakeLimit ∧ t.meters = s.meters) ∧
    (blockingPresent (s.line p).conditions = true →
      (t.line p).state = .blocked ∧ (t.line p).blockOrigin = some .waking ∧
      (t.line p).settle = .stopped ∧ (t.line p).wakeLimit = .stopped ∧
      (t.line p).moveDelay = .running s.settings.moveDelay ∧
      t.meters[p] = { s.meters[p] with blocks := min (2 ^ 48 - 1) (s.meters[p].blocks + 1) }))

/-- RETIRE (R97) and RETURN (R99), by line state: RETIRE always replies OK; RETURN takes a RETIRED line to DOWN
with no credits, with RESYNC made when the part is LIVE, and is BAD STATE in any other state. A suspended stall
timer stops at the entry into RETIRING, the model's choice (log 41). The entry into RETIRED (R99, R148): the queue
unbound, the line down flag no, the conditions emptied, every timer stopped, credits and capacity kept; the flags
that R99 does not name are cleared, the model's choice (log 34). That the line's FIFO stays as it is, at the entry
into RETIRED and at RETURN, is the model's too (log 37): R99 names no emptying, and R65 and R81 say that the FIFO of
a DOWN line is empty. -/
def Obligations.RetireAndReturnByLineState : Prop :=
  (∀ (s : State) (p : LineNo), (∀ j ∈ (s.line p).queue, (s.job? j).isSome = true) → (s.line p).queue.Nodup →
    let t := s.enterRetired p
    let l := s.line p
    t.line p =
      { l with
        state := .retired
        queue := []
        feeding := none
        lineDown := false
        conditions := ⟨false, false, false, false⟩
        jamTag := none
        settle := .stopped
        wakeLimit := .stopped
        minAwake := .stopped
        idle := .stopped
        flushLimit := .stopped
        silence := .stopped
        stall := .stopped
        moveDelay := .stopped
        readySeen := false
        standbyPending := false
        flushedDuringBlock := false
        blockOrigin := none
        armed := false } ∧
    (∀ q, q ≠ p → t.line q = s.line q) ∧
    (∀ j ∈ l.queue, ∀ x, s.job? j = some x → ∃ y, t.job? j = some y ∧ y.bound = none ∧ y.leaveTarget = none ∧
      y.dispatch = x.dispatch ∧ y.confirm = x.confirm ∧
      (x.run = .leaving ∧ x.leaveTarget = some .held → y.run = .held ∧ y.holdReason = x.holdReason) ∧
      (¬(x.run = .leaving ∧ x.leaveTarget = some .held) → y.run = .waiting ∧ j ∈ t.waiting)) ∧
    (l.queue = [] → t.jobs = s.jobs ∧ t.waiting = s.waiting) ∧
    t.accounts = s.accounts ∧ t.meters = s.meters ∧ sameOutside s t) ∧
  ∀ (s : State) (f : ShopFrame) (args : List Byte), Requested s f args → args.length = 1 → NoPassWanted s →
    (15 < field args 0 1 → exec (.retireRequest f) s = .next (answered s s f 0 .badRequest [])) ∧
    (∀ p : LineNo, p.val = field args 0 1 →
      let l := s.line p
      let retiring := s.modLine p fun l =>
        { l with
          state := .retiring
          settle := .stopped
          wakeLimit := .stopped
          minAwake := .stopped
          idle := .stopped
          moveDelay := .stopped
          stall := .stopped
          standbyPending := false
          readySeen := false
          blockOrigin := none
          flushedDuringBlock := false
          armed := false }
      ((l.state = .ready ∨ l.state = .waking) → (l.inflight ≠ [] ∨ flushPending l.flush = true) →
        exec (.retireRequest f) s = .next (answered s retiring f 0 .ok [])) ∧
      ((l.state = .ready ∨ l.state = .waking) → l.inflight = [] → flushPending l.flush = false →
        exec (.retireRequest f) s = .next (ended s (s.enterRetired p) f 0 .ok [])) ∧
      ((l.state = .down ∨ l.state = .standby) →
        exec (.retireRequest f) s = .next (ended s (s.enterRetired p) f 0 .ok [])) ∧
      (l.state = .blocked →
        exec (.retireRequest f) s = .next (answered s (retiring.requestFlush p .retire) f 0 .ok [])) ∧
      (l.state = .retiring →
        exec (.retireRequest f) s = .next (answered s (s.requestFlush p .retire) f 0 .ok [])) ∧
      (l.state = .retired → exec (.retireRequest f) s = .next (answered s s f 0 .ok []))) ∧
    (15 < field args 0 1 → exec (.returnRequest f) s = .next (answered s s f 0 .badRequest [])) ∧
    (∀ p : LineNo, p.val = field args 0 1 →
      ((s.line p).state = .retired → exec (.returnRequest f) s = .next (answered s (s.modLine p fun l =>
        { l with
          state := .down
          credits := 0
          control := l.control ++ if s.live = .live then [.resync] else [] }) f 0 .ok [])) ∧
      ((s.line p).state ≠ .retired →
        exec (.returnRequest f) s = .next (answered s s f 0 .badState [])))

/-! ### Alerts -/

/-- ACK ALERT (R167): by the state of the record with the number; no ALERT frame is sent, an ACKED record
keeps its condition present, its counts and its detail, and the clear of its condition removes it with a CLEAR
frame (R164). That this frame shows the condition present flag as it stood is the model's reading (log 38). -/
def Obligations.AckAlertByRecordState : Prop :=
  ∀ (s : State) (f : ShopFrame) (args : List Byte), Requested s f args → args.length = 2 → NoPassWanted s →
    ((field args 0 2 = 0 ∨ s.alertNumbered (field args 0 2) = none) →
      exec (.ackAlert f) s = .next (answered s s f 0 .notFound [])) ∧
    (∀ r, field args 0 2 ≠ 0 → s.alertNumbered (field args 0 2) = some r →
      let body := fun (code : Nat) => be 2 r.number ++ be 1 (alertKindCode r.kind) ++
        be 1 (subjectType r.subject) ++ be 2 (subjectNumber r.subject) ++ be 1 code
      (r.state = .raised → exec (.ackAlert f) s = .next (answered s
        { s with alerts := s.alerts.map fun q =>
            if q.number = r.number then { q with state := .acked, timer := .stopped } else q }
        f 0 .ok (body 2))) ∧
      (r.state = .acked → exec (.ackAlert f) s = .next (answered s s f 0 .ok (body 2))) ∧
      (r.state = .cleared → exec (.ackAlert f) s = .next (answered s
        { s with
          alerts := s.alerts.filter fun q => decide (q.number ≠ r.number)
          cleared := s.cleared.filter fun n => decide (n ≠ r.number) }
        f 0 .ok (body 4)))) ∧
    (∃ (t : State) (q : Reply), exec (.ackAlert f) s = .next t ∧ t.shopOut = s.shopOut ++ [.reply q]) ∧
    (∀ r k subj, s.alertOf k subj = some r → r.state = .acked →
      s.clearAlert k subj =
        { s with
          alerts := s.alerts.filter fun q => decide (q.number ≠ r.number)
          cleared := s.cleared.filter fun n => decide (n ≠ r.number)
          shopOut := s.shopOut ++
            [.alert (recordFrame s.settings.port .clear { r with state := .cleared })] })

/-- A reminder expiry (R166): reminders sent rises, a REMINDER frame with the record as it now stands is sent,
and the timer restarts below the limit; a timer that is not due makes no expiry (log 3). The opening and the clear
of an alert, which start and restart that timer (R160 to R165). An opening: a RAISED or ACKED record takes the new
detail and sends nothing; a CLEARED one is opened again with its RAISE or EVENT frame; without a record a new one
takes the first number the advancing counter reaches that no record has, and a place, that of the head of the
cleared list when the table is full; without a place the frame goes out with no record. A clear: a RAISED record
becomes CLEARED with a CLEAR frame, a CLEARED one is left, and without a record the CLEAR frame goes out alone. The
spool low flag opens and clears its alert so (R19), and is seen at each return of blocks. -/
def Obligations.ReminderIsSent : Prop :=
  (∀ (s : State) (n : Nat),
      (∀ r, s.alertNumbered n = some r → timerDue r.timer = true →
        let r' : AlertRec :=
          { r with
            reminders := min 255 (r.reminders + 1)
            timer := if s.settings.reminderLimit = 0 ∨ min 255 (r.reminders + 1) < s.settings.reminderLimit then
              timerStart s.settings.reminderInterval else .stopped }
        ∃ t : State, exec (.reminderTimerExpiry n) s = .next t ∧ t.alertNumbered n = some r' ∧
          (∀ m, m ≠ n → t.alertNumbered m = s.alertNumbered m) ∧
          t.shopOut = s.shopOut ++ [.alert (recordFrame s.settings.port .reminder r')] ∧
          t = { s with alerts := t.alerts, shopOut := t.shopOut }) ∧
      ((∀ r, s.alertNumbered n = some r → timerDue r.timer = false) →
        exec (.reminderTimerExpiry n) s = .next s)) ∧
  (∀ (s : State) (k : AlertKind) (subj : Subject) (d : Detail),
      let after := if isCondition k then Transition.raise else .event
      let fresh := fun (n : Nat) =>
        { number := n
          kind := k
          subject := subj
          state := if isCondition k then .raised else .cleared
          present := isCondition k
          repeats := 0
          reminders := 0
          raisedTime := s.timeBase
          detail := d
          timer := timerStart s.settings.reminderInterval : AlertRec }
      (∀ r, s.alertOf k subj = some r →
        let again := fun (q : AlertRec) =>
          { q with
            state := if isCondition k then .raised else .cleared
            present := isCondition k
            repeats := min 255 (q.repeats + 1)
            reminders := 0
            raisedTime := s.timeBase
            detail := d
            timer := timerStart s.settings.reminderInterval }
        let closed := fun (q : AlertRec) =>
          { q with
            state := .cleared
            present := false
            reminders := 0
            timer := timerStart s.settings.reminderInterval }
        let rest := s.cleared.filter fun n => decide (n ≠ r.number)
        (r.state ≠ .cleared → s.openAlert k subj d = { s with
          alerts := s.alerts.map fun q => if q.number = r.number then { q with detail := d } else q }) ∧
        (r.state = .cleared → AlertTableLaw s → s.openAlert k subj d = { s with
          alerts := s.alerts.map fun q => if q.number = r.number then again q else q
          cleared := if isCondition k then rest else rest ++ [r.number]
          shopOut := s.shopOut ++ [.alert (recordFrame s.settings.port after (again r))] }) ∧
        (r.state = .raised → s.clearAlert k subj = { s with
          alerts := s.alerts.map fun q => if q.number = r.number then closed q else q
          cleared := rest ++ [r.number]
          shopOut := s.shopOut ++ [.alert (recordFrame s.settings.port .clear (closed r))] }) ∧
        (r.state = .cleared → s.clearAlert k subj = s)) ∧
      (s.alertOf k subj = none →
        (s.alerts.length < 32 → ∃ i n : Nat, n = numberAfter (i + 1) s.alertCtr ∧ 1 ≤ n ∧ n ≤ 65535 ∧
          (∀ r ∈ s.alerts, r.number ≠ n) ∧ (∀ m, m < i → ∃ r ∈ s.alerts, r.number = numberAfter (m + 1) s.alertCtr) ∧
          s.openAlert k subj d = { s with
            alerts := s.alerts ++ [fresh n]
            cleared := if isCondition k then s.cleared else s.cleared ++ [n]
            alertCtr := n
            shopOut := s.shopOut ++ [.alert (recordFrame s.settings.port after (fresh n))] }) ∧
        (∀ m rest, s.alerts.length = 32 → s.cleared = m :: rest →
          let kept := s.alerts.filter fun r => decide (r.number ≠ m)
          let left := s.cleared.filter fun n => decide (n ≠ m)
          ∃ i n : Nat, n = numberAfter (i + 1) s.alertCtr ∧ 1 ≤ n ∧ n ≤ 65535 ∧ (∀ r ∈ kept, r.number ≠ n) ∧
            (∀ m, m < i → ∃ r ∈ kept, r.number = numberAfter (m + 1) s.alertCtr) ∧
            s.openAlert k subj d = { s with
              alerts := kept ++ [fresh n]
              cleared := if isCondition k then left else left ++ [n]
              alertCtr := n
              shopOut := s.shopOut ++ [.alert (recordFrame s.settings.port after (fresh n))] }) ∧
        (32 ≤ s.alerts.length → s.cleared = [] → s.openAlert k subj d = { s with shopOut := s.shopOut ++
          [.alert (untrackedFrame s.settings.port s.timeBase (if isCondition k then .raise else .event) k subj d)] }) ∧
        s.clearAlert k subj = { s with shopOut := s.shopOut ++
          [.alert (untrackedFrame s.settings.port s.timeBase .clear k subj ⟨none, none, none, none⟩)] })) ∧
  (∀ s : State,
    (s.spoolLow = false → s.free.length < s.settings.lowWater → s.evalSpoolLow =
      ({ s with spoolLow := true }).openAlert .spoolLow .part ⟨none, none, none, some s.free.length⟩) ∧
    (s.spoolLow = true → s.settings.highWater ≤ s.free.length → s.evalSpoolLow =
      ({ s with spoolLow := false }).clearAlert .spoolLow .part) ∧
    (s.spoolLow = false → s.settings.lowWater ≤ s.free.length → s.evalSpoolLow = s) ∧
    (s.spoolLow = true → s.free.length < s.settings.highWater → s.evalSpoolLow = s) ∧
    (∀ bs : List Block, bs ≠ [] → s.returnBlocks bs = ({ s with free := s.free ++ bs }).evalSpoolLow))

/-- Every step keeps the law of the lists, the in-flight entries and the cursors (R26, R29, R33, R44, R46, R49, R59,
R115), and with it that of the accounts (R116, R124): what each list holds, no job with an excluded printer left
between events and no binding pass left to run, one feeding job to a queue, every job's
entries exactly the sheet-copies between its cursors, consecutive tags, and the reserved figures equal to the sums
over the entries, below the ceiling. -/
def Obligations.StepKeepsQueuesEntriesAndAccounts : Prop :=
  (∀ s t : State, SchedulerLaw s → step s = .next t → SchedulerLaw t) ∧
  (∀ s t : State, SchedulerLaw s → AccountLaw s → step s = .next t → AccountLaw t)

/-! ### Resets -/

/-- RESET WARM (R194): every store under way is answered JOB ENDED, then the reset is answered OK with 32,768
free blocks; frames that waited behind a store change only what is sent (log 12); what the reset empties and
what it keeps. That the stores, which are of different jobs, are answered in the order they began (log 44) and with the
received length 0 (log 13), and that the reset keeps the spool bytes, which no chain names any more (log 29), is the
model's choice. -/
def Obligations.ResetWarmEmptiesAndKeeps : Prop :=
  (∀ (s : State) (f : ShopFrame), Requested s f [1#8] →
    ∃ o, exec (.resetWarm f) s = .next { s.warmReset with shopOut := o }) ∧
  (∀ (s : State) (f : ShopFrame), Requested s f [1#8] → s.held = [] →
    exec (.resetWarm f) s = .next { s.warmReset with shopOut := s.shopOut ++
      (s.stores.map fun t => .reply (replyOf s.settings.port t.frame t.job .jobEnded 32768 (be 4 0))) ++
      [.reply (replyOf s.settings.port f 0 .ok 32768 [])] }) ∧
  (∀ (s : State) (f : ShopFrame) (m : Byte), Requested s f [m] → m ≠ 1#8 → m ≠ 2#8 →
    exec (.resetWarm f) s = .next (s.reply s.settings.port f 0 .badRequest []) ∧
    exec (.resetFull f) s = .next (s.reply s.settings.port f 0 .badRequest [])) ∧
  (∀ s : State,
    let t := s.warmReset
    t.free.length = 32768 ∧ (∀ b : Block, t.free[b.val]? = some b) ∧ t.pool = 4096 ∧ t.quarantine = [] ∧
    t.spoolLow = false ∧ t.jobs = [] ∧ t.waiting = [] ∧ t.stores = [] ∧ t.alerts = [] ∧ t.cleared = [] ∧
    t.window = none ∧ t.readout = none ∧ t.engine0 = none ∧ t.engine1 = none ∧ t.lastGranted = 15 ∧
    t.live = s.live ∧ t.straps = s.straps ∧ t.timeBase = s.timeBase ∧ t.jobCtr = s.jobCtr ∧
    t.alertCtr = s.alertCtr ∧ sameTables s t ∧ t.meters = s.meters ∧ t.dram = s.dram ∧
    (∀ a, t.account a = { s.account a with reservedCost := 0, reservedSides := 0, quotaHeld := [] }) ∧
    (∀ p, (t.line p).state = (if (s.line p).state = .retired then .retired else .down) ∧
      (t.line p).credits = 0 ∧ (t.line p).capacity = (s.line p).capacity ∧
      (t.line p).modelCode = (s.line p).modelCode ∧ (t.line p).pace = (s.line p).pace ∧
      (t.line p).lastDone = (s.line p).lastDone ∧ (t.line p).queue = [] ∧ (t.line p).inflight = [] ∧
      (t.line p).fifo = [] ∧ (t.line p).tagCtr = 0 ∧ (t.line p).statusText = [] ∧
      flushPending (t.line p).flush = false ∧
      (t.line p).control = (if s.live = .live ∧ (s.line p).state ≠ .retired then [.resync] else [])))

/-- RESET FULL and POWER ON (R194, R195): every field at its power-on value with the strap value kept or
sampled; the reply of RESET FULL leaves from the reset station address with the reset frame type. That the stores
under way, which are of different jobs, are answered in the order they began (log 44) and with the received length 0
(log 13), and that the queue, the logs of sent frames and the order counter stay (log 29), is the model's choice. -/
def Obligations.FullResetGivesPowerOnValues : Prop :=
  (∀ (s : State) (straps : BitVec 4), exec (.powerOn straps) s = .next
    { State.powerOn straps with
      pending := s.pending, shopOut := s.shopOut, lineOut := s.lineOut, freeCtr := s.freeCtr }) ∧
  (∀ (s : State) (f : ShopFrame), Requested s f [2#8] →
    ∃ o, exec (.resetFull f) s = .next { State.powerOn s.straps with
      pending := s.pending, shopOut := o, lineOut := s.lineOut, freeCtr := s.freeCtr }) ∧
  (∀ (s : State) (f : ShopFrame), Requested s f [2#8] → s.held = [] →
    exec (.resetFull f) s = .next
      { State.powerOn s.straps with
        pending := s.pending
        lineOut := s.lineOut
        freeCtr := s.freeCtr
        shopOut := s.shopOut ++
          (s.stores.map fun t => .reply
            (replyOf (Settings.reset s.straps).port t.frame t.job .jobEnded 32768 (be 4 0))) ++
          [.reply (replyOf (Settings.reset s.straps).port f 0 .ok 32768 [])] }) ∧
  (∀ straps : BitVec 4, (Settings.reset straps).port.station = 0x02524E000000#48 + straps.setWidth 48 ∧
    (Settings.reset straps).port.frameType = 0x8A5C#16 ∧ (State.powerOn straps).straps = straps ∧
    (State.powerOn straps).live = .configuring ∧
    ∀ f : ShopFrame, (State.powerOn straps).isManager f.src = true)

/-! ### The job frames -/

/-- JOB OPEN (R21 to R24): DUPLICATE of a repeat, NO ROUTE, FULL, or a new job record NEW and OPEN, its number
the first after the counter that is not in use; what a repeat is (R22), and the route: the first valid row that
matches (R23). -/
def Obligations.JobOpenAdmitsAJob : Prop :=
  ∀ (s : State) (f : ShopFrame) (body : List Byte), JobFrameTaken s f body → body.length = 9 → NoPassWanted s →
    let o := openFields body
    let used := s.jobs.map fun x => x.number
    (∀ x, s.jobs.find? (isRepeat f.src o.submitterRef) = some x → exec (.jobOpen f) s =
      .next (answered s s f x.number .duplicate (be 2 (field body 0 2)))) ∧
    (s.jobs.find? (isRepeat f.src o.submitterRef) = none →
      (s.routeFor o = none → exec (.jobOpen f) s = .next (answered s s f 0 .noRoute [])) ∧
      (∀ r, s.routeFor o = some r → 128 ≤ s.jobs.length →
        exec (.jobOpen f) s = .next (answered s s f 0 .full [])) ∧
      (∀ r, s.routeFor o = some r → s.jobs.length < 128 → ∃ k n : Nat,
        n = numberAfter (k + 1) s.jobCtr ∧ n ∉ used ∧ 1 ≤ n ∧ n ≤ 65535 ∧
        (∀ i, i < k → numberAfter (i + 1) s.jobCtr ∈ used) ∧
        let x := newJob n f.src o r
        exec (.jobOpen f) s = .next (answered s { s with jobs := insertJob x s.jobs, jobCtr := n } f n .ok
          (be 2 (field body 0 2))) ∧
        x.source = f.src ∧ x.account.val = field body 2 1 ∧ x.kind = min 7 (field body 3 1) ∧
        x.priority = min 3 (field body 4 1) ∧ x.copies = max 1 (min 255 (field body 5 1)) ∧
        x.moveAllowed = (r.moveAllowed && o.moveRequested) ∧ x.group = r.group ∧ x.policy = r.policy ∧
        x.run = .new ∧ x.ingest = .opened ∧ x.sheets = [] ∧ x.bound = none)) ∧
    (∀ x : Job, isRepeat f.src o.submitterRef x = true ↔ (x.source = f.src ∧ x.submitterRef.toNat = field body 0 2 ∧
      x.run = .new ∧ x.ingest = .opened ∧ x.sheets = [])) ∧
    let takes := fun (r : RouteRow) => r.valid = true ∧ (r.cls = none ∨ r.cls = some (s.account o.account).cls) ∧
      (r.kind = none ∨ r.kind = some (min 7 (field body 3 1))) ∧ r.minPriority ≤ min 3 (field body 4 1)
    (∀ k : Fin 32, takes s.route[k] → (∀ i : Fin 32, i < k → ¬takes s.route[i]) →
      s.routeFor o = some s.route[k]) ∧
    ((∀ i : Fin 32, ¬takes s.route[i]) → s.routeFor o = none)

/-- The checks of SHEET DATA in their order (R6, R4, R8, R9, R10), each refusal with the received length; a
segment past 16,777,216 bytes discards the open sheet. -/
def Obligations.SheetDataChecksInOrder : Prop :=
  ∀ (s : State) (f : ShopFrame) (body : List Byte), JobFrameTaken s f body → 1 ≤ body.length →
    body.length ≤ 1024 → NoPassWanted s → s.queued f.job.toNat = false →
    let j := f.job.toNat
    let i := f.sheet.toNat
    let o := f.offset.toNat
    let top := o + body.length
    let refused := fun (st : Status) =>
      exec (.sheetData f) s = .next (answered s s f j st (be 4 (s.receivedOf j i)))
    (s.job? j = none → refused .unknownJob) ∧
    (∀ x, s.job? j = some x →
      ((x.ingest = .closed ∨ jobKilled x = true) → refused .jobEnded) ∧
      (x.ingest = .opened → jobKilled x = false →
        (isOpenIndex x i = false → opensAt x i = false → refused .order) ∧
        ((isOpenIndex x i = true ∨ opensAt x i = true) →
          let L := if opensAt x i then 0 else s.receivedOf j i
          let need := decide (blocksFor L < blocksFor top)
          (top ≤ L → refused .duplicate) ∧
          (L < o → refused .gap) ∧
          (o ≤ L → L < top →
            (16777216 < top → exec (.sheetData f) s = .next (answered s (s.discardOpen j) f j .tooLarge
              (be 4 ((s.discardOpen j).receivedOf j i)))) ∧
            (top ≤ 16777216 →
              (need = true → s.blockAllowed x i = false → refused .noSpace) ∧
              ((need = false ∨ s.blockAllowed x i = true) → opensAt x i = true → s.pool = 0 →
                refused .noRecord)))))) ∧
    (∀ (x : Job) (i : Nat), s.blockAllowed x i = true ↔ (s.settings.ingestFloor < s.free.length ∨
      (0 < s.free.length ∧ x.run = .feeding ∧ x.dispatch.sheet = i)))

/-- A segment that passes every check (R6, R9, R10): the record and the block are taken, the received length
rises, the store begins, and no reply is sent yet: only the spool low alert, which the block taken may open or
clear. All else of the job, its other sheets and cursors among it, and of the part is unchanged. That record, block
and length are taken when the store begins is the model's reading (log 10). -/
def Obligations.SheetDataBeginsAStore : Prop :=
  ∀ (s : State) (f : ShopFrame) (body : List Byte) (x : Job) (h : Sheet), JobFrameTaken s f body →
    1 ≤ body.length → body.length ≤ 1024 → NoPassWanted s → s.queued f.job.toNat = false →
    let j := f.job.toNat
    let i := f.sheet.toNat
    let o := f.offset.toNat
    let top := o + body.length
    let need := decide (blocksFor h.received < blocksFor top)
    s.job? j = some x → x.ingest = .opened → jobKilled x = false →
    ((opensAt x i = true ∧ sheetOf x i = none ∧ h = freshSheet j i ∧ 1 ≤ s.pool) ∨
      (isOpenIndex x i = true ∧ sheetOf x i = some h)) →
    o ≤ h.received → h.received < top → top ≤ 16777216 → (need = true → s.blockAllowed x i = true) →
    ∃ (u : State) (y : Job), exec (.sheetData f) s = .next u.refreshIdle ∧ u.job? j = some y ∧
      sheetOf y i = some { h with
        received := top
        chain := h.chain ++ (if need = true then s.free.take 1 else []) } ∧
      y = { x with sheets := y.sheets } ∧ (∀ k, k ≠ i → sheetOf y k = sheetOf x k) ∧
      y.sheets.length = (if opensAt x i = true then x.sheets.length + 1 else x.sheets.length) ∧
      (let w := { s with jobs := u.jobs, free := u.free, pool := u.pool, stores := u.stores }
       (need = true → u = w.evalSpoolLow) ∧ (need = false → u = w)) ∧
      (∃ o, u.shopOut = s.shopOut ++ o ∧ (need = false → o = []) ∧ ∀ q ∈ o, ∃ a, q = .alert a) ∧
      y.run = x.run ∧ (∀ k, k ≠ j → u.job? k = s.job? k) ∧
      u.free = (if need = true then s.free.drop 1 else s.free) ∧
      u.pool = (if opensAt x i = true then s.pool - 1 else s.pool) ∧
      u.stores = s.stores ++ [{
        job := j, sheet := i, offset := h.received, bytes := body.drop (h.received - o), frame := f,
        purge := false }] ∧
      u.quarantine = s.quarantine ∧ u.lines = s.lines ∧ u.accounts = s.accounts ∧ u.meters = s.meters ∧
      u.waiting = s.waiting ∧ sameOutside s u ∧
      (s.blockAllowed x i = true ↔ (s.settings.ingestFloor < s.free.length ∨
        (0 < s.free.length ∧ x.run = .feeding ∧ x.dispatch.sheet = i)))

/-- The end of a store (R11, R7): the bytes stand in the spool at their place in the chain, every other spool
byte is unchanged, and the reply is OK with the received length; the open sheet of an ended job is then
discarded, and a purge taken during the store frees the job record (R41). Then what waits behind the store is taken,
each item in its turn (R6, R183): that the purge comes before it is the model's choice (log 42). SHEET DATA, SHEET
END and JOB CLOSE of a job with a store under way or a waiting item join what waits (R6); an item taken while a new
store of its job is under way waits again, a JOB CANCEL among them (log 11). Without a store of the job there is no
such event (log 3). -/
def Obligations.StoreEndPlacesTheBytes : Prop :=
  (∀ (s : State) (j : Nat), (∀ t ∈ s.stores, t.job ≠ j) → exec (.sheetDataStoreEnd j) s = .next s) ∧
  (∀ (s : State) (j : Nat) (t : Store) (x : Job) (h : Sheet),
    s.stores.find? (fun t => decide (t.job = j)) = some t → s.held = [] → NoPassWanted s →
    s.job? j = some x → sheetOf x t.sheet = some h → t.purge = false →
    let u : State :=
      { s with
        dram := writeChain h.chain t.offset t.bytes s.dram
        stores := s.stores.filter fun t => decide (t.job ≠ j) }
    (jobKilled x = false →
      exec (.sheetDataStoreEnd j) s = .next (answered s u t.frame j .ok (be 4 h.received))) ∧
    (jobKilled x = true → exec (.sheetDataStoreEnd j) s = .next
      ((u.reply s.settings.port t.frame j .ok (be 4 h.received)).discardOpen j).refreshIdle)) ∧
  (∀ (chain : List Block) (o : Nat) (bytes : List Byte) (m : Memory), Memory.wf m = true →
    (∀ a, (∀ k, k < bytes.length → chainAddress chain (o + k) ≠ some a) →
      Memory.read (writeChain chain o bytes m) a = Memory.read m a) ∧
    (chain.Nodup → ∀ k v a, bytes[k]? = some v → chainAddress chain (o + k) = some a →
      Memory.read (writeChain chain o bytes m) a = v)) ∧
  (∀ (s : State) (j : Nat) (t : Store) (x : Job) (h : Sheet),
    s.stores.find? (fun t => decide (t.job = j)) = some t → s.job? j = some x → sheetOf x t.sheet = some h →
    let r : State := ({ s with
      dram := writeChain h.chain t.offset t.bytes s.dram
      stores := s.stores.filter fun t => decide (t.job ≠ j) }).reply s.settings.port t.frame j .ok (be 4 h.received)
    let v := if jobKilled x = true then r.discardOpen j else r
    let w := if t.purge = true then v.purge j else v
    exec (.sheetDataStoreEnd j) s = .next (settleEvent s w).drainHeld ∧
    (t.purge = true → jobKilled x = true → w.job? j = none ∧ (∀ k, k ≠ j → w.job? k = s.job? k) ∧
      w.pool = s.pool + x.sheets.length ∧ (∀ u ∈ w.stores, u ∈ s.stores ∧ u.job ≠ j) ∧ w.held = s.held ∧
      w.free = s.free ++ (match openSheet x with
        | some o => o.chain ++ x.sheets.dropLast.flatMap fun (g : Sheet) => g.chain
        | none => x.sheets.flatMap fun (g : Sheet) => g.chain))) ∧
  (∀ s : State, (s.held = [] → s.drainHeld = s) ∧
    ∀ hs h, s.held = hs ++ [h] → s.drainHeld = ({ s with held := hs }).drainHeld.takeHeld h) ∧
  (∀ (s : State) (f : ShopFrame),
    let j := f.job.toNat
    let waits := fun (h : Held) => { s with held := s.held ++ [h] }
    (((∃ t ∈ s.stores, t.job = j) ∨ ∃ h ∈ s.held, heldJob h = j) →
      (∀ body, JobFrameTaken s f body →
        (1 ≤ body.length → body.length ≤ 1024 → exec (.sheetData f) s = .next (waits (.frame .sheetData f))) ∧
        (body.length = 8 → exec (.sheetEnd f) s = .next (waits (.frame .sheetEnd f))) ∧
        (body = [] → exec (.jobClose f) s = .next (waits (.frame .jobClose f)))) ∧
      (∀ k, s.takeHeld (.frame k f) = waits (.frame k f)) ∧
      ∀ st body, s.takeHeld (.answer f st body) = waits (.answer f st body)) ∧
    ((∀ t ∈ s.stores, t.job ≠ j) → (∀ h ∈ s.held, heldJob h ≠ j) →
      (∀ st body, s.takeHeld (.answer f st body) = s.reply s.settings.port f j st body) ∧
      ∀ body, JobFrameTaken s f body →
        (1 ≤ body.length → body.length ≤ 1024 →
          exec (.sheetData f) s = .next (s.takeHeld (.frame .sheetData f))) ∧
        (body.length = 8 → exec (.sheetEnd f) s = .next (s.takeHeld (.frame .sheetEnd f))) ∧
        (body = [] → exec (.jobClose f) s = .next (s.takeHeld (.frame .jobClose f)) ∧
          exec (.jobCancel f) s = .next (s.takeHeld (.frame .jobCancel f)))))

/-- SHEET END (R12, R13): the checks in their order, and the completed sheet with its fitted media, sides and
classes; the first complete sheet takes a NEW job to the waiting list (R26). -/
def Obligations.SheetEndCompletesASheet : Prop :=
  (∀ (s : State) (f : ShopFrame) (body : List Byte), JobFrameTaken s f body → body.length = 8 →
    NoPassWanted s → s.queued f.job.toNat = false →
    let j := f.job.toNat
    let i := f.sheet.toNat
    let refused := fun (st : Status) => exec (.sheetEnd f) s = .next (answered s s f j st [])
    (s.job? j = none → refused .unknownJob) ∧
    (∀ x, s.job? j = some x →
      ((x.ingest = .closed ∨ jobKilled x = true) → refused .jobEnded) ∧
      (x.ingest = .opened → jobKilled x = false →
        (isOpenIndex x i = false → opensAt x i = false →
          refused (if repeatsEnd x i (field body 0 4) then .duplicate else .order)) ∧
        ((isOpenIndex x i = true ∨ opensAt x i = true) →
          let L := if opensAt x i then 0 else s.receivedOf j i
          let mediaOk := x.mediaSet.getLsbD (field body 4 1)
          (field body 0 4 ≠ L → refused .length) ∧
          (field body 0 4 = L → mediaOk = false → exec (.sheetEnd f) s =
            .next (answered s (if opensAt x i then s else s.discardOpen j) f j .badMedia [])) ∧
          (field body 0 4 = L → mediaOk = true → opensAt x i = true → s.pool = 0 → refused .noRecord) ∧
          (field body 0 4 = L → mediaOk = true → (opensAt x i = true → 1 ≤ s.pool) →
            exec (.sheetEnd f) s =
              .next (ended s (s.completeSheet j i (opensAt x i) body) f j .ok [])))))) ∧
  (∀ (s : State) (j i : Nat) (opens : Bool) (body : List Byte) (x : Job) (h : Sheet), s.job? j = some x →
    ((opens = true ∧ sheetOf x i = none ∧ h = freshSheet j i) ∨ (opens = false ∧ sheetOf x i = some h)) →
    ∃ y, (s.completeSheet j i opens body).job? j = some y ∧
      sheetOf y i = some { h with
        state := .complete
        media := field body 4 1
        sides := max 1 (min 2 (field body 5 1))
        front := if field body 6 1 ≤ 3 then Fin.ofNat 4 (field body 6 1) else 2
        back := if field body 7 1 ≤ 3 then Fin.ofNat 4 (field body 7 1) else 2 } ∧
      y.run = (if x.run = .new then .waiting else x.run) ∧
      (x.run = .new → j ∈ (s.completeSheet j i opens body).waiting ∧
        (s.completeSheet j i opens body).passesWanted = s.passesWanted + 1) ∧
      (s.completeSheet j i opens body).pool = (if opens = true then s.pool - 1 else s.pool) ∧
      (s.completeSheet j i opens body).free = s.free ∧ (s.completeSheet j i opens body).lines = s.lines ∧
      (s.completeSheet j i opens body).accounts = s.accounts)

/-- JOB CLOSE (R14, R45): its refusals, the open sheet discarded and counted, the ingest state CLOSED with the
cursors moved on, and a job that is thereby at its end completed (R55). -/
def Obligations.JobCloseEndsIngest : Prop :=
  ∀ (s : State) (f : ShopFrame), JobFrameTaken s f [] → NoPassWanted s → s.queued f.job.toNat = false →
    let j := f.job.toNat
    let refused := fun (st : Status) => exec (.jobClose f) s = .next (answered s s f j st [])
    (s.job? j = none → refused .unknownJob) ∧
    (∀ x, s.job? j = some x →
      (jobKilled x = true → refused .jobEnded) ∧
      (jobKilled x = false → x.ingest = .closed → refused .duplicate) ∧
      (jobKilled x = false → x.ingest = .opened →
        let n := completeCount x
        let y : Job :=
          { x with
            sheets := if (openSheet x).isSome then x.sheets.dropLast else x.sheets
            ingest := .closed
            dispatch := closeCursor n x.dispatch
            confirm := closeCursor n x.confirm }
        let s1 := (s.discardOpen j).modJob j fun z =>
          { z with
            ingest := .closed
            dispatch := closeCursor n z.dispatch
            confirm := closeCursor n z.confirm }
        exec (.jobClose f) s =
          .next (ended s (s1.afterClose j) f j .ok (be 1 (if (openSheet x).isSome then 1 else 0))) ∧
        s1.job? j = some y ∧
        ((n = 0 ∨ (jobLive x = true ∧ atEnd y y.confirm = true)) →
          s1.afterClose j = s1.complete j ∧
          (x.retain = false → (s1.complete j).job? j = none) ∧
          (x.retain = true → ∃ z, (s1.complete j).job? j = some z ∧ z.run = .done ∧ z.bound = none)) ∧
        (n ≠ 0 → ¬(jobLive x = true ∧ atEnd y y.confirm = true) →
          (∀ p, x.run = .feeding → atEnd y y.dispatch = true → x.bound = some p →
            ∃ z, (s1.afterClose j).job? j = some z ∧ z.run = .draining ∧ z.bound = some p) ∧
          (¬(x.run = .feeding ∧ atEnd y y.dispatch = true) → s1.afterClose j = s1)))) ∧
    (∀ (k : Nat) (c : Cursor), closeCursor k c = if c = ⟨0, k⟩ then ⟨1, 0⟩ else c)

/-! ### The printers' frames -/

/-- Receive activity (R78, R95, R200): in CONFIGURING every frame of a printer is discarded; in LIVE a discarded
frame and the idle signalling restart a running silence monitor and do nothing else. -/
def Obligations.ReceiveActivityRestartsTheMonitor : Prop :=
  (∀ (s : State) (p : LineNo) (a b c : BitVec 16) (tag : Byte) (report : List Byte) (f : RawLineFrame),
    s.live = .configuring → ∀ i ∈ printerFrames p a b c tag report f, exec i s = .next s) ∧
  (∀ (s : State) (p : LineNo) (f : RawLineFrame), s.live = .live → NoPassWanted s →
    let l := s.line p
    let u := s.modLine p fun l =>
      { l with silence := if timerRuns l.silence then .running 100 else l.silence }
    exec (.lineFrameDiscarded p f) s = .next u.refreshIdle ∧ exec (.idleSignalling p) s = .next u.refreshIdle ∧
    (∀ report : List Byte, (report = [] ∨ 32 < report.length) →
      exec (.status p report) s = .next u.refreshIdle) ∧
    (u.refreshIdle.line p).credits = l.credits ∧ (u.refreshIdle.line p).inflight = l.inflight ∧
    (u.refreshIdle.line p).state = l.state ∧ u.refreshIdle.shopOut = s.shopOut)

/-- HELLO by line state (R78, R81, R95, R98), and what a link-up sets (R81, R67, R103); LINE DOWN is cleared when the
line down flag is yes, and no alert changes when it is no. -/
def Obligations.HelloLinksUp : Prop :=
  (∀ (s : State) (p : LineNo) (c n m : BitVec 16), s.live = .live →
    let u := s.modLine p heard
    ((s.line p).state = .down → exec (.hello p c n m) s = .next (settleEvent s (u.linkUp p c n m))) ∧
    ((s.line p).state = .retired → NoPassWanted s → exec (.hello p c n m) s = .next u.refreshIdle) ∧
    ((s.line p).state = .retiring → exec (.hello p c n m) s = .next (settleEvent s (u.loseLine p false)) ∧
      ((u.loseLine p false).line p).state = .retired) ∧
    ((s.line p).state ≠ .down → (s.line p).state ≠ .retired → (s.line p).state ≠ .retiring →
      exec (.hello p c n m) s = .next (settleEvent s ((u.loseLine p false).linkUp p c n m)))) ∧
  (∀ (s : State) (p : LineNo) (c n m : BitVec 16),
    let t := s.linkUp p c n m
    (t.line p).capacity = max 1 (min 4095 c.toNat) ∧ (t.line p).credits = (t.line p).capacity ∧
    (t.line p).modelCode = m ∧
    (t.line p).pace = (if n = 0 then (s.rosterOf p).nominalPace else max 100 (min 60000 n.toNat)) ∧
    (t.line p).tagCtr = 0 ∧ (t.line p).armed = false ∧ (t.line p).lineDown = false ∧
    (t.line p).readySeen = false ∧ (t.line p).control = (s.line p).control ∧ t.passesWanted = s.passesWanted + 1 ∧
    (t.line p).state = (if blockingPresent (s.line p).conditions then .blocked else .waking) ∧
    (∀ q, q ≠ p → t.line q = s.line q) ∧ t.jobs = s.jobs ∧ t.accounts = s.accounts ∧
    sameAlerts (if (s.line p).lineDown = true then s.clearAlert .lineDown (.printer p) else s) t)

/-- CREDIT (R68): the sum clamped to the capacity in every state but DOWN; nothing in DOWN; a count of 0 and a
frame with a bad CRC change no credit count. -/
def Obligations.CreditAddsToTheCapacity : Prop :=
  ∀ (s : State) (p : LineNo), s.live = .live → NoPassWanted s →
    (∀ n : BitVec 16,
      ((s.line p).state ≠ .down → exec (.credit p n) s = .next (((s.modLine p heard).modLine p fun l =>
        { l with credits := min l.capacity (l.credits + n.toNat) }).refreshIdle)) ∧
      ((s.line p).state = .down → exec (.credit p n) s = .next (s.modLine p heard).refreshIdle)) ∧
    ((s.line p).credits ≤ (s.line p).capacity →
      ∃ t, exec (.credit p 0) s = .next t ∧ (t.line p).credits = (s.line p).credits) ∧
    (∀ f : RawLineFrame, ∃ t, exec (.lineFrameDiscarded p f) s = .next t ∧ ∀ q,
      (t.line q).credits = (s.line q).credits)

/-- SHEET DONE (R53, R54): a match confirms the oldest entry, with its charge and meters (R126, R136), the confirm
cursor, the pace, the armed flag and the stall timer (R104, R105, R110, R112), the blocks of a last copy (R16) and
the follow-up of the job's run state (R54 step 6); a mismatch is a protocol fault with a FAULT flush. A protocol
fault opens PROTOCOL FAULT for the printer with the oldest entry's reference, or none on an empty list (R154). That the
line's FIFO stays as it is also where the confirmation takes a RETIRING line into RETIRED is the model's choice (log
37): R92 says that the FIFO of a RETIRED line is empty. -/
def Obligations.SheetDoneConfirmsTheOldestEntry : Prop :=
  (∀ (s : State) (p : LineNo) (tag : Byte), s.live = .live →
    let u := s.modLine p heard
    ((s.line p).state = .down ∨ (s.line p).state = .retired → NoPassWanted s →
      exec (.sheetDone p tag) s = .next u.refreshIdle) ∧
    ((s.line p).state ≠ .down → (s.line p).state ≠ .retired →
      (∀ e, s.matching p tag = some e → exec (.sheetDone p tag) s = .next (settleEvent s (u.confirm p e))) ∧
      (s.matching p tag = none →
        exec (.sheetDone p tag) s = .next (settleEvent s ((u.protocolFault p).requestFlush p .fault)))) ∧
    ∀ e, s.matching p tag = some e ↔
      (s.line p).inflight.head? = some e ∧ e.tag = tag ∧ e.moved = s.entryLength e) ∧
  (∀ (s : State) (p : LineNo),
    ((s.line p).inflight = [] →
      s.protocolFault p = s.openAlert .protocolFault (.printer p) ⟨none, none, none, none⟩) ∧
    ∀ e es, (s.line p).inflight = e :: es → s.protocolFault p =
      s.openAlert .protocolFault (.printer p) ⟨none, some ⟨e.job, e.sheet, e.copy⟩, none, none⟩) ∧
  (∀ (s : State) (p : LineNo) (e : Entry) (es : List Entry) (x : Job) (h : Sheet),
    (s.line p).inflight = e :: es → s.job? e.job = some x → sheetOf x e.sheet = some h →
    let l := s.line p
    let t := s.confirm p e
    let pace := if l.armed = true then smoothPace l.pace (paceSample s.timeBase l.lastDone) else l.pace
    let last := e.copy + 1 = x.copies ∧ x.retain = false
    let y : Job :=
      { x with
        confirm := advance x x.confirm
        noProgress := 0
        binding := x.binding + 1
        chargedCost := min (2 ^ 48 - 1) (x.chargedCost + e.cost)
        confirmedCopies := x.confirmedCopies + 1
        confirmedSides := x.confirmedSides + e.sides
        sheets := if last then changeSheet e.sheet (fun g => { g with chain := [] }) x.sheets else x.sheets }
    let more := (∃ k ∈ es, k.job = e.job) ∨ ∃ q, q ≠ p ∧ ∃ k ∈ (s.line q).inflight, k.job = e.job
    let retires := l.state = .retiring ∧ es = [] ∧ flushPending l.flush = false
    let completes := x.run = .draining ∧ x.copies ≤ y.confirm.copy
    (t.line p).inflight = es ∧ (t.line p).credits = l.credits ∧ (t.line p).capacity = l.capacity ∧
    (t.line p).lastDone = s.timeBase ∧ (t.line p).pace = pace ∧
    (t.line p).armed = (decide (l.state = .ready) && !flushPending l.flush && !es.isEmpty) ∧
    (t.line p).stall = (if es = [] then .stopped
      else if l.state = .ready then timerStart (stallDeadline s.settings pace) else l.stall) ∧
    (t.line p).stalled = false ∧ (t.line p).fifo = l.fifo ∧ (t.line p).tagCtr = l.tagCtr ∧
    (t.line p).flush = l.flush ∧
    sameFigures { s.account x.account with
      reservedCost := (s.account x.account).reservedCost - e.cost
      reservedSides := (s.account x.account).reservedSides - e.sides
      chargedCost := min (2 ^ 48 - 1) ((s.account x.account).chargedCost + e.cost)
      chargedSides := min (2 ^ 48 - 1) ((s.account x.account).chargedSides + e.sides) } (t.account x.account) ∧
    (∀ a, a ≠ x.account → sameFigures (s.account a) (t.account a)) ∧
    t.meters[p] = countSheet e.sides h s.meters[p] ∧ (∀ q : LineNo, q ≠ p → t.meters[q] = s.meters[q]) ∧
    ((x.bound = some p ∨ x.bound = none) → ∀ q, q ≠ p → t.line q = s.line q) ∧ sameOutside s t ∧
    (∀ z, t.job? e.job = some z → z.confirm = y.confirm ∧ z.noProgress = 0 ∧ z.chargedCost = y.chargedCost ∧
      z.confirmedCopies = y.confirmedCopies ∧ z.confirmedSides = y.confirmedSides) ∧
    (retires → (t.line p).state = .retired) ∧
    (¬retires → (t.line p).state = l.state ∧
      (completes → (x.retain = false → t.job? e.job = none) ∧ (x.retain = true → t.job? e.job = some
        { y with run := .done, leaveTarget := none, holdReason := none, excluded := none, bound := none, binding := 0 }) ∧
        ∀ q, x.bound = some q → e.job ∉ (t.line q).queue) ∧
      (x.run = .leaving → ¬more → y.confirm.copy < x.copies → ∀ q, x.bound = some q →
        e.job ∉ (t.line q).queue ∧
        (x.leaveTarget = some .held → t.job? e.job = some { y with run := .held, leaveTarget := none, bound := none }) ∧
        (x.leaveTarget ≠ some .held → e.job ∈ t.waiting ∧
          ∃ z, t.job? e.job = some z ∧ z.run = .waiting ∧ z.leaveTarget = none ∧ z.bound = none ∧ z.binding = 0 ∧
            z.split = min 255 (x.split + 1))) ∧
      (x.run = .leaving → ¬more → x.copies ≤ y.confirm.copy → x.retain = true →
        ∃ z, t.job? e.job = some z ∧ z.run = .done ∧ z.bound = none) ∧
      (jobKilled x = true → ¬more → s.storing e.job = false → t.job? e.job = some { y with sheets := [] } ∧
        t.pool = s.pool + x.sheets.length) ∧
      (¬completes → (x.run = .leaving → more) → (jobKilled x = true → more) → t.job? e.job = some y ∧
        t.free = s.free ++ (if last then h.chain else []) ∧ t.pool = s.pool ∧ t.waiting = s.waiting ∧
        (t.line p).queue = l.queue)))

/-- STATUS (R141 to R147): the text is copied, the first matching row decides, what matches, and what a raise and
a clear do in every line state that takes reports (R143, R145, R146, R98). A raise opens the alert of its condition
with the report text, and for JAM the sheet reference of R144: the in-flight entry that carries the named tag, else
the oldest, else none. A clear clears that alert (R142, R147). -/
def Obligations.StatusRaisesAndClears : Prop :=
  (∀ (s : State) (p : LineNo) (report : List Byte), s.live = .live → 1 ≤ report.length → report.length ≤ 32 →
    let u := (s.modLine p heard).modLine p fun l => { l with statusText := report }
    ((s.line p).state = .down ∨ (s.line p).state = .retired → NoPassWanted s →
      exec (.status p report) s = .next (s.modLine p heard).refreshIdle) ∧
    ((s.line p).state ≠ .down → (s.line p).state ≠ .retired →
      (s.pattern.toList.find? (patternMatches p report) = none → NoPassWanted s →
        exec (.status p report) s = .next u.refreshIdle) ∧
      (∀ r, s.pattern.toList.find? (patternMatches p report) = some r →
        exec (.status p report) s = .next (settleEvent s (u.decideReport p r report))))) ∧
  (∀ (p : LineNo) (report : List Byte) (r : PatternRow), r.length ≤ 8 → (patternMatches p report r = true ↔
    (r.valid = true ∧ r.scope.getLsbD p = true ∧ r.length ≤ report.length ∧
      ∀ i : Fin 8, i.val < r.length → report[i.val]? = some r.bytes[i]))) ∧
  (∀ (r : PatternRow) (report : List Byte), namedTag r report = match r.tagPos with
    | some g => report[g]?
    | none => none) ∧
  (∀ (s : State) (p : LineNo) (r : PatternRow) (report : List Byte),
    let t := s.decideReport p r report
    let has := hasCondition (s.line p).conditions r.kind
    ((r.sense = .raise ∧ has = true) ∨ (r.sense = .clear ∧ has = false) → t = s) ∧
    let oldest := (s.line p).inflight.head?
    let named := match namedTag r report with
      | some g => (s.line p).inflight.find? fun e => decide (e.tag = g)
      | none => none
    let ref := match r.kind, named with
      | .jam, some e => some e
      | .jam, none => oldest
      | _, _ => none
    (conditionAlert .jam = .jam ∧ conditionAlert .doorOpen = .doorOpen ∧ conditionAlert .mediaOut = .mediaOut ∧
      conditionAlert .supplyLow = .supplyLow) ∧
    (r.sense = .raise → has = false → sameAlerts (s.openAlert (conditionAlert r.kind) (.printer p)
      ⟨some report, ref.map fun e => ⟨e.job, e.sheet, e.copy⟩, none, none⟩) t) ∧
    (r.sense = .clear → has = true → sameAlerts (s.clearAlert (conditionAlert r.kind) (.printer p)) t) ∧
    (r.sense = .raise → has = false →
      hasCondition (t.line p).conditions r.kind = true ∧
      (r.kind = .supplyLow → t.lines = (s.modLine p fun l =>
        { l with conditions := setCondition l.conditions .supplyLow true }).lines) ∧
      (r.kind = .jam → (t.line p).jamTag = namedTag r report) ∧
      (r.kind ≠ .supplyLow → (s.line p).state = .ready →
        (t.line p).state = .blocked ∧ (t.line p).blockOrigin = some .ready ∧
        t.meters[p] = { s.meters[p] with blocks := min (2 ^ 48 - 1) (s.meters[p].blocks + 1) } ∧
        (r.kind = .jam → flushPending (s.line p).flush = false →
          (t.line p).flush = addPurpose .block Purposes.none ∧ (t.line p).fifo = [] ∧
          (t.line p).control = (s.line p).control ++ [.cancelSheets] ∧
          (t.line p).flushedDuringBlock = true ∧
          (t.line p).inflight = (s.line p).inflight.map fun e => { e with flushing := true }) ∧
        (r.kind ≠ .jam → (t.line p).flush = (s.line p).flush ∧ (t.line p).fifo = (s.line p).fifo ∧
          (t.line p).inflight = (s.line p).inflight ∧ (t.line p).control = (s.line p).control)) ∧
      (r.kind ≠ .supplyLow → (s.line p).state = .waking →
        (t.line p).state = .blocked ∧ (t.line p).blockOrigin = some .waking ∧ (t.line p).settle = .stopped ∧
        (t.line p).wakeLimit = .stopped ∧ (t.line p).moveDelay = .running s.settings.moveDelay ∧
        t.meters[p] = { s.meters[p] with blocks := min (2 ^ 48 - 1) (s.meters[p].blocks + 1) } ∧
        (r.kind = .jam → (t.line p).flush.block = true ∧ (t.line p).flushedDuringBlock = true) ∧
        (r.kind ≠ .jam → (t.line p).flush = (s.line p).flush)) ∧
      ((s.line p).state = .blocked → (t.line p).state = .blocked ∧
        (t.line p).blockOrigin = (s.line p).blockOrigin ∧ (t.line p).moveDelay = (s.line p).moveDelay ∧
        t.meters = s.meters ∧
        (r.kind = .jam → (t.line p).flush = addPurpose .block
            (if flushPending (s.line p).flush = true then (s.line p).flush else Purposes.none) ∧
          (t.line p).flushedDuringBlock = true) ∧
        (r.kind ≠ .jam → (t.line p).flush = (s.line p).flush ∧
          (t.line p).flushedDuringBlock = (s.line p).flushedDuringBlock)) ∧
      ((s.line p).state = .standby → (t.line p).state = .standby ∧ (t.line p).flush = (s.line p).flush ∧
        (t.line p).control = (s.line p).control ∧ t.meters = s.meters) ∧
      (r.kind ≠ .supplyLow → (s.line p).state = .retiring → (t.line p).state = .retiring ∧ t.meters = s.meters ∧
        (t.line p).flush = addPurpose .retire
          (if flushPending (s.line p).flush = true then (s.line p).flush else Purposes.none) ∧
        (flushPending (s.line p).flush = false →
          (t.line p).control = (s.line p).control ++ [.cancelSheets] ∧ (t.line p).fifo = [] ∧
          (t.line p).inflight = (s.line p).inflight.map fun e => { e with flushing := true })) ∧
      (∀ q, q ≠ p → t.line q = s.line q) ∧ t.jobs = s.jobs) ∧
    (r.sense = .clear → has = true →
      let left := setCondition (s.line p).conditions r.kind false
      (t.line p).conditions = left ∧
      ((s.line p).state ≠ .blocked ∨ r.kind = .supplyLow ∨ blockingPresent left = true →
        (t.line p).state = (s.line p).state) ∧
      ((s.line p).state = .blocked → r.kind ≠ .supplyLow → blockingPresent left = false →
        (t.line p).state = (if (s.line p).flushedDuringBlock = true ∨ (s.line p).blockOrigin = some .waking
          then .waking else .ready) ∧
        (t.line p).moveDelay = .stopped ∧ (t.line p).blockOrigin = none ∧
        t.passesWanted = s.passesWanted + 1)))

/-- READY and the expiries of the settle, min awake and idle timers (R83, R85, R86); an expiry that is not due
changes nothing (log 3). -/
def Obligations.ReadyAndAwakeTimers : Prop :=
  ∀ (s : State) (p : LineNo),
    let l := s.line p
    (s.live = .live →
      let u := (s.modLine p heard).modLine p fun l => { l with readySeen := true }
      (l.state = .waking → l.readySeen = false → timerRuns l.settle = true → NoPassWanted s →
        exec (.ready p) s = .next u.refreshIdle) ∧
      (l.state = .waking → l.readySeen = false → timerRuns l.settle = false →
        exec (.ready p) s = .next (settleEvent s (u.enterReady p)) ∧ (u.enterReady p).passesWanted = s.passesWanted + 1 ∧
        ((u.enterReady p).line p).state = .ready ∧
        ((u.enterReady p).line p).minAwake = timerStart (s.rosterOf p).minAwake) ∧
      ((l.state ≠ .waking ∨ l.readySeen = true) → NoPassWanted s →
        exec (.ready p) s = .next (s.modLine p heard).refreshIdle)) ∧
    (timerDue l.settle = true →
      let u := s.modLine p fun l => { l with settle := .stopped }
      (l.state = .waking → l.readySeen = true →
        exec (.settleExpiry p) s = .next (settleEvent s (u.enterReady p))) ∧
      ((l.state ≠ .waking ∨ l.readySeen = false) → NoPassWanted s →
        exec (.settleExpiry p) s = .next u.refreshIdle)) ∧
    (timerDue l.minAwake = true →
      let u := s.modLine p fun l => { l with minAwake := .stopped }
      (l.standbyPending = false → NoPassWanted s → exec (.minAwakeExpiry p) s = .next u.refreshIdle) ∧
      (l.standbyPending = true → l.state = .ready → l.queue = [] → l.inflight = [] →
        flushPending l.flush = false →
        exec (.minAwakeExpiry p) s = .next (settleEvent s (u.enterStandby p))) ∧
      (l.standbyPending = true →
        ¬(l.state = .ready ∧ l.queue = [] ∧ l.inflight = [] ∧ flushPending l.flush = false) →
        NoPassWanted s → exec (.minAwakeExpiry p) s =
          .next (u.modLine p fun l => { l with standbyPending := false }).refreshIdle)) ∧
    (timerDue l.idle = true →
      exec (.idleTimerExpiry p) s = .next (settleEvent s (s.enterStandby p)) ∧
      ((s.enterStandby p).line p).state = .standby ∧
      ((s.enterStandby p).line p).control = l.control ++ [.standby]) ∧
    (∀ c ∈ lineExpiries p, timerDue (c.2 l) = false → exec c.1 s = .next s)

/-- FLUSHED (R93, R94, R60, R57): a stray is a protocol fault; the end of a flush takes every flushing entry off
the list, gives the capacity back as credits, returns their reservations (R127), and rewinds the jobs to their
confirm cursors; a job ended by a cancel or a failure keeps its cursors and releases its storage (R17). The end of
a flush of purpose BLOCK counts against the job of the entry that the jam tag names, else of the oldest (R149,
R150), which fails at the retry limit, with JOB FAILED opened for it with the reference of its confirm cursor (R151).
A protocol fault opens PROTOCOL FAULT for the printer with the oldest entry's reference, or none on an empty list
(R154). -/
def Obligations.FlushedEndsTheFlush : Prop :=
  (∀ (s : State) (p : LineNo), s.live = .live →
    let u := s.modLine p heard
    ((s.line p).state = .down ∨ (s.line p).state = .retired → NoPassWanted s →
      exec (.flushed p) s = .next u.refreshIdle) ∧
    ((s.line p).state ≠ .down → (s.line p).state ≠ .retired →
      (flushPending (s.line p).flush = false → NoPassWanted s →
        exec (.flushed p) s = .next (u.protocolFault p).refreshIdle) ∧
      (flushPending (s.line p).flush = true →
        exec (.flushed p) s = .next (settleEvent s (u.endFlush p))))) ∧
  (∀ (s : State) (p : LineNo), s.protocolFault p = s.openAlert .protocolFault (.printer p)
    ⟨none, (s.line p).inflight.head?.map fun e => ⟨e.job, e.sheet, e.copy⟩, none, none⟩) ∧
  (∀ (s : State) (j : Nat) (x : Job), s.job? j = some x →
    let n := min 15 (x.noProgress + 1)
    let u := s.modJob j fun y => { y with noProgress := n }
    (jobKilled x = true → s.countNoProgress j = s) ∧
    (jobKilled x = false → (s.settings.retryLimit = 0 ∨ n < s.settings.retryLimit) → s.countNoProgress j = u) ∧
    (jobKilled x = false → s.settings.retryLimit ≠ 0 → s.settings.retryLimit ≤ n → s.countNoProgress j =
      (u.kill j .failed).openAlert .jobFailed (.job j)
        ⟨none, some ⟨j, x.confirm.sheet, x.confirm.copy⟩, none, none⟩)) ∧
  (∀ (s : State) (p : LineNo),
    let t := s.endFlush p
    flushPending (t.line p).flush = false ∧ (t.line p).credits = (s.line p).capacity ∧
    (t.line p).flushLimit = .stopped ∧
    (∀ e ∈ (t.line p).inflight, e ∈ (s.line p).inflight ∧ e.flushing = false) ∧
    (∀ q, q ≠ p → (t.line q).inflight = (s.line q).inflight ∧ (t.line q).credits = (s.line q).credits ∧
      (t.line q).state = (s.line q).state ∧ (t.line q).fifo = (s.line q).fifo) ∧
    (∀ x : Job, s.job? x.number = some x → jobKilled x = false → (s.line p).flush.block = false →
      (s.line p).inflight ≠ [] → (∀ e ∈ (s.line p).inflight, e.flushing = true ∧ e.job = x.number) →
      (t.line p).inflight = [] ∧
      (t.account x.account).reservedCost =
        (s.account x.account).reservedCost - ((s.line p).inflight.map fun e => e.cost).sum ∧
      (t.account x.account).chargedCost = (s.account x.account).chargedCost ∧
      ∀ y, t.job? x.number = some y → y.dispatch = x.confirm ∧ y.confirm = x.confirm)) ∧
  (∀ (s : State) (p : LineNo), (∀ e ∈ (s.line p).inflight, e.flushing = true) →
    let t := s.endFlush p
    let es := (s.line p).inflight
    let ofAccount := fun (a : AccountNo) (e : Entry) => (s.job? e.job).any fun x => decide (x.account = a)
    let tagged := match (s.line p).jamTag with
      | some g => es.find? fun e => decide (e.tag = g)
      | none => none
    let counted := if (s.line p).flush.block = true then (match tagged with
      | some e => some e
      | none => es.head?) else none
    (t.line p).inflight = [] ∧
    (∀ a, sameFigures { s.account a with
      reservedCost := (s.account a).reservedCost - ((es.filter (ofAccount a)).map fun e => e.cost).sum
      reservedSides := (s.account a).reservedSides - ((es.filter (ofAccount a)).map fun e => e.sides).sum }
      (t.account a)) ∧
    (∀ e ∈ es, ∀ x, s.job? e.job = some x →
      (jobKilled x = false → ∀ y, t.job? e.job = some y → y.dispatch = x.confirm ∧ y.confirm = x.confirm) ∧
      (jobKilled x = true → e.job ∉ (s.line p).queue → (∀ q, q ≠ p → s.entriesOn q e.job = []) →
        s.storing e.job = false → t.job? e.job = some { x with sheets := [] }) ∧
      ((∀ c, counted = some c → c.job ≠ e.job) → (x.run = .feeding ∨ x.run = .draining) →
        e.job ∈ (s.line p).queue → (s.line p).state ≠ .retiring →
        ∃ y, t.job? e.job = some y ∧ (y.run = .queued ∨ y.run = .feeding) ∧ y.bound = x.bound)) ∧
    ((s.line p).flush.block = true → (t.line p).jamTag = none) ∧
    (∀ j x y, (∀ c, counted = some c → c.job ≠ j) → s.job? j = some x → t.job? j = some y →
      y.noProgress = x.noProgress) ∧
    (∀ c x, counted = some c → s.job? c.job = some x → jobKilled x = false → x.bound = some p →
      let n := min 15 (x.noProgress + 1)
      ((s.settings.retryLimit = 0 ∨ n < s.settings.retryLimit) →
        (∀ y, t.job? c.job = some y → y.noProgress = n ∧ y.run ≠ .failed) ∧
        (x.run ≠ .leaving → ∃ y, t.job? c.job = some y)) ∧
      (s.settings.retryLimit ≠ 0 → s.settings.retryLimit ≤ n → (∀ q, q ≠ p → s.entriesOn q c.job = []) →
        ∃ y, t.job? c.job = some y ∧ y.run = .failed ∧ y.noProgress = n ∧ y.bound = none ∧ y.leaveTarget = none ∧
          y.holdReason = none ∧ y.chargedCost = x.chargedCost ∧ (s.storing c.job = false → y.sheets = []) ∧
          c.job ∉ (t.line p).queue ∧ c.job ∉ (t.account x.account).quotaHeld) ∧
      (s.settings.retryLimit ≠ 0 → s.settings.retryLimit ≤ n →
        AlertTableLaw s → ∃ (o : List ShopOut) (f : AlertFrame), t.shopOut = s.shopOut ++ o ∧ .alert f ∈ o ∧ f.kind = .jobFailed ∧
          f.subject = .job c.job ∧ f.detail = ⟨none, some ⟨c.job, x.confirm.sheet, x.confirm.copy⟩, none, none⟩)))

/-! ### The timers of a line -/

/-- Line loss by the silence monitor, the flush limit and the wake limit (R95, R94, R84, R96, R61, R98): what is
left of the line and of its jobs, and the LINE DOWN or NO WAKE alert that it opens. -/
def Obligations.LineLossEmptiesTheLine : Prop :=
  (∀ (s : State) (p : LineNo),
    (timerDue (s.line p).silence = true →
      exec (.silenceMonitorExpiry p) s = .next (settleEvent s (s.loseLine p true))) ∧
    (timerDue (s.line p).flushLimit = true →
      exec (.flushLimitExpiry p) s = .next (settleEvent s (s.loseLine p true))) ∧
    (timerDue (s.line p).wakeLimit = true →
      exec (.wakeLimitExpiry p) s = .next (settleEvent s (s.wakeLimitExpiry p)))) ∧
  (∀ (s : State) (p : LineNo) (resync : Bool), (∀ j ∈ (s.line p).queue, (s.job? j).isSome = true) →
    ∀ t : State, (t = s.loseLine p resync ∨ (t = s.wakeLimitExpiry p ∧ resync = true ∧
      (s.line p).state ≠ .retiring)) →
    (t.line p).queue = [] ∧ (t.line p).feeding = none ∧ (t.line p).inflight = [] ∧ (t.line p).fifo = [] ∧
    (t.line p).credits = 0 ∧ flushPending (t.line p).flush = false ∧ (t.line p).silence = .stopped ∧
    (t.line p).flushLimit = .stopped ∧ (t.line p).stall = .stopped ∧ (t.line p).moveDelay = .stopped ∧
    (t.line p).settle = .stopped ∧ (t.line p).wakeLimit = .stopped ∧ (t.line p).minAwake = .stopped ∧
    (t.line p).conditions = Conditions.none ∧ (t.line p).jamTag = none ∧ (t.line p).stalled = false ∧
    (t.line p).capacity = (s.line p).capacity ∧ (t.line p).sending = (s.line p).sending ∧
    (t.line p).statusText = (s.line p).statusText ∧
    ((s.line p).state = .retiring → (t.line p).state = .retired ∧ (t.line p).control = []) ∧
    ((s.line p).state ≠ .retiring → (t.line p).state = .down ∧
      (t.line p).control = (if resync then [.resync] else [])) ∧
    (∀ j ∈ (s.line p).queue, ∀ y, t.job? j = some y → y.bound = none) ∧
    (∀ q, q ≠ p → t.line q = s.line q) ∧ t.meters = s.meters) ∧
  (∀ (s : State) (p : LineNo),
    let down := fun (resync lost : Bool) => (s.dropLine p).modLine p fun l =>
      { l with
        state := .down
        lineDown := lost || l.lineDown
        control := l.control ++ if resync then [.resync] else [] }
    s.wakeLimitExpiry p = (down true false).openAlert .noWake (.printer p) ⟨none, none, none, none⟩ ∧
    ∀ resync, (s.line p).state ≠ .retiring →
      s.loseLine p resync = (down resync true).openAlert .lineDown (.printer p) ⟨none, none, none, none⟩ ∧
      ((s.loseLine p resync).line p).lineDown = true)

/-- The stall expiry (R111) and the move delay expiry (R153). -/
def Obligations.StallAndMoveDelay : Prop :=
  (∀ (s : State) (p : LineNo), timerDue (s.line p).stall = true → NoPassWanted s →
    let u := s.modLine p fun l => { l with stall := .stopped, stalled := true }
    ((s.line p).stalled = true → exec (.stallTimerExpiry p) s = .next u.refreshIdle) ∧
    ((s.line p).stalled = false → exec (.stallTimerExpiry p) s = .next (u.openAlert .stall (.printer p)
      ⟨none, (s.line p).inflight.head?.map fun e => ⟨e.job, e.sheet, e.copy⟩, none, none⟩).refreshIdle)) ∧
  (∀ (s : State) (p : LineNo), timerDue (s.line p).moveDelay = true →
    exec (.moveDelayExpiry p) s = .next (settleEvent s (s.moveOff p))) ∧
  (∀ (s : State) (p : LineNo),
    let t := s.moveOff p
    (t.line p).moveDelay = .stopped ∧ (t.line p).state = (s.line p).state ∧
    (∀ j ∈ (s.line p).queue, ∀ x, s.job? j = some x →
      (x.moveAllowed = false → ∃ y, t.job? j = some y ∧ y.bound = x.bound ∧ y.leaveTarget = x.leaveTarget ∧
        y.excluded = x.excluded) ∧
      (x.moveAllowed = true → (x.run = .queued ∨ x.run = .feeding ∨ x.run = .draining) →
        (s.hasEntries j = true → ∃ y, t.job? j = some y ∧ y.run = .leaving ∧
          y.leaveTarget = some .waitingExclude ∧ y.bound = x.bound) ∧
        (∀ q, s.hasEntries j = false → atEnd x x.confirm = false → x.bound = some q →
          j ∈ t.waiting ∧ ∃ y, t.job? j = some y ∧ y.run = .waiting ∧ y.excluded = some q ∧ y.bound = none)) ∧
      (x.moveAllowed = true → x.run = .leaving → ∃ y, t.job? j = some y ∧ y.run = .leaving ∧ y.bound = x.bound ∧
        y.leaveTarget = if x.leaveTarget = some .waiting then some .waitingExclude else x.leaveTarget) ∧
      (x.moveAllowed = true → (x.run = .queued ∨ x.run = .feeding ∨ x.run = .draining) →
        s.hasEntries j = true → (s.line p).state = .blocked → (s.line p).flushedDuringBlock = false →
        (t.line p).flush.move = true)) ∧
    ((s.line p).flushedDuringBlock = true → (t.line p).flush = (s.line p).flush))

/-! ### Dispatch and feed -/

/-- SHEET START (R51, R52, R110, R124, R131): when it happens, what a start whose reservation fits makes, and the
quota failure of one that does not fit, whose job is not at its end because its confirm cursor is at or before its
dispatch cursor (R44, the law of StepKeepsQueuesEntriesAndAccounts). The quota retry (R133, R134): which accounts'
held jobs an event releases, and what becomes of them. That an event with its own changes made takes its quota
retries in ascending account order (log 16), then all its binding passes (log 15), is the model's choice: R134 puts
only the passes that a retry causes after it. That the SHEET START joins the FIFO also where it holds 16 such frames
is the model's choice too (log 46). Without a possible start nothing happens (log 3). -/
def Obligations.SheetStartReservesAndEnters : Prop :=
  (∀ (s : State) (p : LineNo) (x : Job) (h : Sheet), s.startable p = some (x, h) ↔
    ((s.line p).state = .ready ∧ flushPending (s.line p).flush = false ∧ s.inTransmission p = none ∧
      (s.line p).inflight.length < (s.rosterOf p).maxInFlight ∧
      ∃ j, (s.line p).feeding = some j ∧ s.job? j = some x ∧ namedSheet x x.dispatch = some h)) ∧
  (∀ (s : State) (p : LineNo),
    (s.startable p = none → exec (.sheetStart p) s = .next s) ∧
    (∀ x h, s.startable p = some (x, h) →
      let cost := s.sheetCost p x.account h
      let a := s.account x.account
      let u := s.startSheet p x h cost
      (a.chargedCost + a.reservedCost + cost ≤ ceiling a →
        exec (.sheetStart p) s = .next (settleEvent s u) ∧
        u.account x.account = { a with
          reservedCost := a.reservedCost + cost, reservedSides := a.reservedSides + h.sides } ∧
        (u.line p).inflight = (s.line p).inflight ++
          [⟨x.number, x.dispatch.copy, x.dispatch.sheet, (s.line p).tagCtr, cost, h.sides, 0, false⟩] ∧
        (u.line p).fifo = (s.line p).fifo ++
          [.start (s.line p).tagCtr h.received h.media h.sides x.number x.dispatch.sheet x.dispatch.copy] ∧
        (u.line p).tagCtr = (s.line p).tagCtr + 1 ∧
        (u.line p).stall = (if (s.line p).inflight = [] then timerStart (stallDeadline s.settings (s.line p).pace)
          else (s.line p).stall) ∧
        (∃ y, u.job? x.number = some y ∧ y.dispatch = advance x x.dispatch ∧
          (atEnd x (advance x x.dispatch) = true → y.run = .draining ∧
            (u.line p).feeding ≠ some x.number)) ∧
        (∀ q, q ≠ p → u.line q = s.line q) ∧ (∀ b, b ≠ x.account → u.account b = s.account b) ∧
        u.meters = s.meters) ∧
      (ceiling a < a.chargedCost + a.reservedCost + cost →
        let v := s.quotaFailure x
        exec (.sheetStart p) s = .next (settleEvent s v) ∧
        sameFigures a (v.account x.account) ∧ (∀ b, b ≠ x.account → v.account b = s.account b) ∧
        (v.line p).inflight = (s.line p).inflight ∧ (v.line p).fifo = (s.line p).fifo ∧
        (v.line p).tagCtr = (s.line p).tagCtr ∧ v.meters = s.meters ∧
        v = ((s.joinQuota x.account x.number).startLeaving x.number .held (some .quota)).openAlert .quotaHold
          (.account x.account) ⟨none, none, some (ceiling a - (a.chargedCost + a.reservedCost)), none⟩ ∧
        (x.confirm.copy ≤ x.dispatch.copy →
          (v.account x.account).quotaHeld = without x.number a.quotaHeld ++ [x.number] ∧
          (s.hasEntries x.number = true → v.job? x.number = some
            { x with run := .leaving, leaveTarget := some .held, holdReason := some .quota }) ∧
          (∀ q, s.hasEntries x.number = false → x.bound = some q → v.job? x.number = some
              { x with run := .held, leaveTarget := none, holdReason := some .quota, bound := none } ∧
            x.number ∉ (v.line q).queue))))) ∧
  (∀ before s : State,
    settleEvent before s = (settleLoop before settleFuel (State.quotaRetries before s)).refreshIdle ∧
    (State.quotaRetries before s).lines = s.lines ∧
    (∀ a, sameFigures (s.account a) ((State.quotaRetries before s).account a) ∧
      ((State.quotaRetries before s).account a).quotaHeld =
        if available (before.account a) < available (s.account a) then [] else (s.account a).quotaHeld) ∧
    ((∀ a, available (before.account a) < available (s.account a) → (s.account a).quotaHeld = []) →
      State.quotaRetries before s = s) ∧
    (∀ a, (∀ b, available (before.account b) < available (s.account b) ↔ b = a) →
      State.quotaRetries before s = s.quotaRetry a)) ∧
  (∀ (s : State) (a : AccountNo), (s.account a).quotaHeld ≠ [] → (s.account a).quotaHeld.Nodup →
    let held := (s.account a).quotaHeld
    let t := s.quotaRetry a
    (t.account a).quotaHeld = [] ∧ t.alerts = (s.clearAlert .quotaHold (.account a)).alerts ∧
    t.cleared = (s.clearAlert .quotaHold (.account a)).cleared ∧
    t.shopOut = (s.clearAlert .quotaHold (.account a)).shopOut ∧
    t.waiting = (held.filter fun j => s.runIs j fun r => decide (r = .held)).foldl
      (fun w j => insertWaiting s.priorityOf j (s.priorityOf j) w) s.waiting ∧
    t.passesWanted = s.passesWanted + (held.filter fun j => s.runIs j fun r => decide (r = .held)).length ∧
    (∀ j x, s.job? j = some x →
      t.job? j = some (if j ∈ held ∧ x.run = .held then
          splitRule { x with run := .waiting, leaveTarget := none, holdReason := none }
        else if j ∈ held ∧ x.run = .leaving then { x with leaveTarget := some .waiting, holdReason := none }
        else x)))

/-- BURST GRANT (R70, R71): to the first requesting line of the walk, for its entry in transmission, at the cost
of one credit; which of two free engines takes it cannot be seen (log 28), and a grant whose conditions do not hold
is none (log 3). The transmitter (R65): the next frame is the oldest control frame, else the head of the line FIFO;
that the frame being sent has gone out whole when the transmitter takes the next is the model's reading (log 14).
Between frames the line carries its idle signalling (R199); nothing is sent in CONFIGURING (R78). -/
def Obligations.GrantsAndTransmissions : Prop :=
  (∀ s : State, ((s.engine0.isSome = true ∧ s.engine1.isSome = true) ∨ (∀ p, s.requests p = false)) →
    exec .burstGrant s = .next s) ∧
  (∀ (s : State) (k : Fin 16), (s.engine0 = none ∨ s.engine1 = none) →
    let walk := fun (i : Nat) => (Fin.ofNat 16 (s.lastGranted.val + 1 + i) : LineNo)
    let p := walk k.val
    (∀ i, i < k.val → s.requests (walk i) = false) → s.requests p = true →
    ∃ (e : Entry) (g : Fin 2) (t : State), s.inTransmission p = some e ∧ exec .burstGrant s = .next t ∧
      (g = 0 → s.engine0 = none ∧ t.engine0 = some p ∧ t.engine1 = s.engine1) ∧
      (g = 1 → s.engine1 = none ∧ t.engine1 = some p ∧ t.engine0 = s.engine0) ∧
      t.lastGranted = p ∧
      t.line p = { s.line p with
        credits := (s.line p).credits - 1
        burst := some
          { engine := g
            tag := e.tag
            job := e.job
            copy := e.copy
            sheet := e.sheet
            block := (s.entryChain e)[e.moved / 4096]?
            offset := e.moved
            count := min 256 (s.entryLength e - e.moved)
            discarded := false } } ∧
      t = { s with lines := t.lines, engine0 := t.engine0, engine1 := t.engine1, lastGranted := p } ∧
      (∀ q, q ≠ p → t.line q = s.line q)) ∧
  (∀ (s : State) (p : LineNo),
    (s.live = .configuring → exec (.lineTransmitFrame p) s = .next s) ∧
    (s.live = .live → ∃ t : State, exec (.lineTransmitFrame p) s = .next t ∧
      t.lineOut = s.lineOut ++ (match (s.line p).sending with
        | some f => [(p, f)]
        | none => []) ∧
      (∀ c cs, (s.line p).control = c :: cs →
        t.line p = { s.line p with control := cs, sending := some (.control c) }) ∧
      (∀ f fs, (s.line p).control = [] → (s.line p).fifo = f :: fs →
        t.line p = { s.line p with fifo := fs, sending := some (.sheet f) }) ∧
      ((s.line p).control = [] → (s.line p).fifo = [] → t.line p = { s.line p with sending := none }) ∧
      (∀ q, q ≠ p → t.line q = s.line q) ∧ t = { s with lineOut := t.lineOut, lines := t.lines })) ∧
  (∀ (s : State) (p : LineNo),
    (s.live = .configuring → s.lineSignal p = .silent) ∧
    (s.live = .live → (s.line p).sending = none → s.lineSignal p = .idle) ∧
    (∀ f, s.live = .live → (s.line p).sending = some f → s.lineSignal p = .frame (lineFrameWire f)) ∧
    (s.live = .live → (s.line p).control = [] → (s.line p).fifo = [] →
      ∃ t, exec (.lineTransmitFrame p) s = .next t ∧ t.lineSignal p = .idle))

/-- BURST COMPLETION (R71, R72, R66, R18, R75): the bytes read enter the line FIFO and raise the bytes moved; a
discarded burst places nothing; an uncorrectable read error withdraws the block and fails the job (log 26), opens
JOB FAILED and DATA ERROR with the sheet reference, in an order that is the model's choice (log 43), and asks the
line of the job's entries for a flush of purpose FAIL. An error in a block that has left its sheet's chain has no
effect: R75 says it where the job's storage has been released; for a job that lives on (R16) it is the model's
choice (log 45). -/
def Obligations.BurstCompletionPlacesTheBytes : Prop :=
  ∀ (s : State) (p : LineNo),
    ((s.line p).burst = none → ∀ e, exec (.burstCompletion p e) s = .next s) ∧
    (∀ b, (s.line p).burst = some b → NoPassWanted s →
      let freed : State := { s with
        engine0 := if b.engine = 0 then none else s.engine0
        engine1 := if b.engine = 0 then s.engine1 else none }
      (b.discarded = true → exec (.burstCompletion p false) s =
        .next (freed.modLine p fun l => { l with burst := none }).refreshIdle) ∧
      (∀ n, b.discarded = false → b.block = some n → exec (.burstCompletion p false) s =
        .next (freed.modLine p fun l =>
          { l with
            burst := none
            fifo := l.fifo ++ [.data b.tag ((List.range b.count).map fun k =>
              s.dram.read (n.val * 4096 + (b.offset % 4096 + k)))]
            inflight := l.inflight.map fun e =>
              if e.tag = b.tag then { e with moved := e.moved + b.count } else e }).refreshIdle) ∧
      (∀ n x h, b.block = some n → s.job? b.job = some x → sheetOf x b.sheet = some h → n ∈ h.chain →
        ∃ u : State, exec (.burstCompletion p true) s = .next (settleEvent s u) ∧
          (u.line p).burst = none ∧ u.engine0 = freed.engine0 ∧ u.engine1 = freed.engine1 ∧
          n ∈ u.quarantine ∧ u.quarantine.length ≤ max 64 s.quarantine.length ∧ u.dram = s.dram ∧
          (jobKilled x = false → ∀ y, u.job? b.job = some y → y.run = .failed ∧ y.bound = none) ∧
          (jobKilled x = false →
            let d : Detail := ⟨none, some ⟨b.job, b.sheet, b.copy⟩, none, none⟩
            let v := (((((freed.modLine p fun l => { l with burst := none }).withdrawBlock b.job b.sheet n).kill b.job
              .failed).openAlert .jobFailed (.job b.job) d).openAlert .dataError (.job b.job) d)
            (s.hasEntries b.job = false → u = v.releaseStorage b.job) ∧
            ∀ q, s.entryLine b.job = some q → u = v.requestFlush q .fail ∧
              let l := s.line q
              (l.state ≠ .down → l.state ≠ .standby → l.state ≠ .retired →
                (flushPending l.flush = false → (u.line q).flush = ⟨false, false, true, false, false, false⟩ ∧
                  (u.line q).inflight = l.inflight.map (fun e => { e with flushing := true }) ∧
                  (u.line q).fifo = [] ∧ (u.line q).control = l.control ++ [.cancelSheets] ∧
                  (u.line q).flushLimit = timerStart s.settings.flushLimit) ∧
                (flushPending l.flush = true → (u.line q).flush = { l.flush with fail := true } ∧
                  (u.line q).inflight = l.inflight ∧ (u.line q).fifo = l.fifo ∧
                  (u.line q).control = l.control))) ∧
          (jobKilled x = true → ∃ y, u.job? b.job = some y ∧ y.run = x.run ∧
            sheetOf y b.sheet = some { h with chain := h.chain.filter fun m => decide (m ≠ n) })) ∧
      ((b.block = none ∨ ∃ n, b.block = some n ∧
          ∀ x h, s.job? b.job = some x → sheetOf x b.sheet = some h → n ∉ h.chain) →
        exec (.burstCompletion p true) s =
          .next (freed.modLine p fun l => { l with burst := none }).refreshIdle))

/-! ### Arithmetic -/

/-- The figures the part computes: cost (R121 to R123), available amount (R116), pace (R105, R106), stall
deadline (R109), cursors (R43), numbers (R24), the fields of several bytes, most significant byte first (chapter 12),
and the press-line CRC (R199). -/
def Obligations.ArithmeticRules : Prop :=
  (∀ (rates : Vector Nat 4) (mult basis : Nat) (rows : List TierRow) (minCharge : Nat) (h : Sheet),
    let sum := if h.sides = 2 then rates[h.front] + rates[h.back] else rates[h.front]
    let a := (sum * mult + 8) / 16
    (costOf rates mult false basis rows minCharge h = max a minCharge) ∧
    (∀ d, tierRow basis rows = some d →
      costOf rates mult true basis rows minCharge h = max (a - a * d.discount / 100) minCharge ∧
      d ∈ rows ∧ d.threshold ≠ 0 ∧ d.threshold ≤ basis ∧
      (∀ r ∈ rows, r.threshold ≠ 0 → r.threshold ≤ basis → r.threshold ≤ d.threshold) ∧
      ∃ above below, rows = above ++ d :: below ∧
        ∀ r ∈ above, r.threshold ≠ 0 → r.threshold ≤ basis → r.threshold < d.threshold) ∧
    (tierRow basis rows = none → costOf rates mult true basis rows minCharge h = max a minCharge ∧
      ∀ r ∈ rows, r.threshold = 0 ∨ basis < r.threshold)) ∧
  (∀ a : Account, available a =
    (if a.limited then a.limit else 2 ^ 48 - 1) - (a.chargedCost + a.reservedCost)) ∧
  (∀ now last : BitVec 32, paceSample now last = max 100 (min 60000 (now - last).toNat)) ∧
  (∀ pace sample : Nat, (pace ≤ sample → smoothPace pace sample = pace + (sample - pace) / 8) ∧
    (sample ≤ pace → smoothPace pace sample = pace - (pace - sample) / 8)) ∧
  (∀ (t : Settings) (pace : Nat), t.stallMin ≤ t.stallMax →
    stallDeadline t pace = max t.stallMin (min t.stallMax (pace * t.stallFactor))) ∧
  (∀ (x : Job) (c : Cursor), advance x c =
    if x.ingest = .closed ∧ c.sheet + 1 = completeCount x then ⟨c.copy + 1, 0⟩ else ⟨c.copy, c.sheet + 1⟩) ∧
  (nextNumber 65535 = 1 ∧ ∀ c, c < 65535 → nextNumber c = c + 1) ∧
  (∀ n v, v < 256 ^ n → beNat (be n v) = v ∧ (be n v).length = n) ∧
  (∀ v : Nat, be 0 v = [] ∧ ∀ n, be (n + 1) v = BitVec.ofNat 8 (v / 256 ^ n) :: be n v) ∧
  (beNat [] = 0 ∧ ∀ (b : Byte) (bs : List Byte), beNat (b :: bs) = b.toNat * 256 ^ bs.length + beNat bs) ∧
  crc16 [0x31#8, 0x32#8, 0x33#8, 0x34#8, 0x35#8, 0x36#8, 0x37#8, 0x38#8, 0x39#8] = 0x29B1#16
end

