-- ==== Sys2Proof/Laws/State.lean ====
section
/-! SUPPORT. One lemma per field per update of State, so that no proof unfolds a record update; and what an update does to the record it changes. -/

namespace Sys2Proof.Machine

/-! ### State.modLine -/

@[simp] theorem State.modLine_pending (s : State) (p : LineNo) (f : Line → Line) : (s.modLine p f).pending = s.pending := by simp only [State.modLine]
@[simp] theorem State.modLine_live (s : State) (p : LineNo) (f : Line → Line) : (s.modLine p f).live = s.live := by simp only [State.modLine]
@[simp] theorem State.modLine_straps (s : State) (p : LineNo) (f : Line → Line) : (s.modLine p f).straps = s.straps := by simp only [State.modLine]
@[simp] theorem State.modLine_window (s : State) (p : LineNo) (f : Line → Line) : (s.modLine p f).window = s.window := by simp only [State.modLine]
@[simp] theorem State.modLine_readout (s : State) (p : LineNo) (f : Line → Line) : (s.modLine p f).readout = s.readout := by simp only [State.modLine]
@[simp] theorem State.modLine_timeBase (s : State) (p : LineNo) (f : Line → Line) : (s.modLine p f).timeBase = s.timeBase := by simp only [State.modLine]
@[simp] theorem State.modLine_route (s : State) (p : LineNo) (f : Line → Line) : (s.modLine p f).route = s.route := by simp only [State.modLine]
@[simp] theorem State.modLine_group (s : State) (p : LineNo) (f : Line → Line) : (s.modLine p f).group = s.group := by simp only [State.modLine]
@[simp] theorem State.modLine_accounts (s : State) (p : LineNo) (f : Line → Line) : (s.modLine p f).accounts = s.accounts := by simp only [State.modLine]
@[simp] theorem State.modLine_rate (s : State) (p : LineNo) (f : Line → Line) : (s.modLine p f).rate = s.rate := by simp only [State.modLine]
@[simp] theorem State.modLine_media (s : State) (p : LineNo) (f : Line → Line) : (s.modLine p f).media = s.media := by simp only [State.modLine]
@[simp] theorem State.modLine_tier (s : State) (p : LineNo) (f : Line → Line) : (s.modLine p f).tier = s.tier := by simp only [State.modLine]
@[simp] theorem State.modLine_pattern (s : State) (p : LineNo) (f : Line → Line) : (s.modLine p f).pattern = s.pattern := by simp only [State.modLine]
@[simp] theorem State.modLine_roster (s : State) (p : LineNo) (f : Line → Line) : (s.modLine p f).roster = s.roster := by simp only [State.modLine]
@[simp] theorem State.modLine_settings (s : State) (p : LineNo) (f : Line → Line) : (s.modLine p f).settings = s.settings := by simp only [State.modLine]
@[simp] theorem State.modLine_free (s : State) (p : LineNo) (f : Line → Line) : (s.modLine p f).free = s.free := by simp only [State.modLine]
@[simp] theorem State.modLine_pool (s : State) (p : LineNo) (f : Line → Line) : (s.modLine p f).pool = s.pool := by simp only [State.modLine]
@[simp] theorem State.modLine_quarantine (s : State) (p : LineNo) (f : Line → Line) : (s.modLine p f).quarantine = s.quarantine := by simp only [State.modLine]
@[simp] theorem State.modLine_spoolLow (s : State) (p : LineNo) (f : Line → Line) : (s.modLine p f).spoolLow = s.spoolLow := by simp only [State.modLine]
@[simp] theorem State.modLine_dram (s : State) (p : LineNo) (f : Line → Line) : (s.modLine p f).dram = s.dram := by simp only [State.modLine]
@[simp] theorem State.modLine_stores (s : State) (p : LineNo) (f : Line → Line) : (s.modLine p f).stores = s.stores := by simp only [State.modLine]
@[simp] theorem State.modLine_held (s : State) (p : LineNo) (f : Line → Line) : (s.modLine p f).held = s.held := by simp only [State.modLine]
@[simp] theorem State.modLine_jobs (s : State) (p : LineNo) (f : Line → Line) : (s.modLine p f).jobs = s.jobs := by simp only [State.modLine]
@[simp] theorem State.modLine_jobCtr (s : State) (p : LineNo) (f : Line → Line) : (s.modLine p f).jobCtr = s.jobCtr := by simp only [State.modLine]
@[simp] theorem State.modLine_waiting (s : State) (p : LineNo) (f : Line → Line) : (s.modLine p f).waiting = s.waiting := by simp only [State.modLine]
@[simp] theorem State.modLine_passesWanted (s : State) (p : LineNo) (f : Line → Line) : (s.modLine p f).passesWanted = s.passesWanted := by simp only [State.modLine]
@[simp] theorem State.modLine_engine0 (s : State) (p : LineNo) (f : Line → Line) : (s.modLine p f).engine0 = s.engine0 := by simp only [State.modLine]
@[simp] theorem State.modLine_engine1 (s : State) (p : LineNo) (f : Line → Line) : (s.modLine p f).engine1 = s.engine1 := by simp only [State.modLine]
@[simp] theorem State.modLine_lastGranted (s : State) (p : LineNo) (f : Line → Line) : (s.modLine p f).lastGranted = s.lastGranted := by simp only [State.modLine]
@[simp] theorem State.modLine_meters (s : State) (p : LineNo) (f : Line → Line) : (s.modLine p f).meters = s.meters := by simp only [State.modLine]
@[simp] theorem State.modLine_alerts (s : State) (p : LineNo) (f : Line → Line) : (s.modLine p f).alerts = s.alerts := by simp only [State.modLine]
@[simp] theorem State.modLine_cleared (s : State) (p : LineNo) (f : Line → Line) : (s.modLine p f).cleared = s.cleared := by simp only [State.modLine]
@[simp] theorem State.modLine_alertCtr (s : State) (p : LineNo) (f : Line → Line) : (s.modLine p f).alertCtr = s.alertCtr := by simp only [State.modLine]
@[simp] theorem State.modLine_shopOut (s : State) (p : LineNo) (f : Line → Line) : (s.modLine p f).shopOut = s.shopOut := by simp only [State.modLine]
@[simp] theorem State.modLine_lineOut (s : State) (p : LineNo) (f : Line → Line) : (s.modLine p f).lineOut = s.lineOut := by simp only [State.modLine]
@[simp] theorem State.modLine_freeCtr (s : State) (p : LineNo) (f : Line → Line) : (s.modLine p f).freeCtr = s.freeCtr := by simp only [State.modLine]

/-! ### State.mapLines -/

@[simp] theorem State.mapLines_pending (s : State) (f : LineNo → Line → Line) : (s.mapLines f).pending = s.pending := by simp only [State.mapLines]
@[simp] theorem State.mapLines_live (s : State) (f : LineNo → Line → Line) : (s.mapLines f).live = s.live := by simp only [State.mapLines]
@[simp] theorem State.mapLines_straps (s : State) (f : LineNo → Line → Line) : (s.mapLines f).straps = s.straps := by simp only [State.mapLines]
@[simp] theorem State.mapLines_window (s : State) (f : LineNo → Line → Line) : (s.mapLines f).window = s.window := by simp only [State.mapLines]
@[simp] theorem State.mapLines_readout (s : State) (f : LineNo → Line → Line) : (s.mapLines f).readout = s.readout := by simp only [State.mapLines]
@[simp] theorem State.mapLines_timeBase (s : State) (f : LineNo → Line → Line) : (s.mapLines f).timeBase = s.timeBase := by simp only [State.mapLines]
@[simp] theorem State.mapLines_route (s : State) (f : LineNo → Line → Line) : (s.mapLines f).route = s.route := by simp only [State.mapLines]
@[simp] theorem State.mapLines_group (s : State) (f : LineNo → Line → Line) : (s.mapLines f).group = s.group := by simp only [State.mapLines]
@[simp] theorem State.mapLines_accounts (s : State) (f : LineNo → Line → Line) : (s.mapLines f).accounts = s.accounts := by simp only [State.mapLines]
@[simp] theorem State.mapLines_rate (s : State) (f : LineNo → Line → Line) : (s.mapLines f).rate = s.rate := by simp only [State.mapLines]
@[simp] theorem State.mapLines_media (s : State) (f : LineNo → Line → Line) : (s.mapLines f).media = s.media := by simp only [State.mapLines]
@[simp] theorem State.mapLines_tier (s : State) (f : LineNo → Line → Line) : (s.mapLines f).tier = s.tier := by simp only [State.mapLines]
@[simp] theorem State.mapLines_pattern (s : State) (f : LineNo → Line → Line) : (s.mapLines f).pattern = s.pattern := by simp only [State.mapLines]
@[simp] theorem State.mapLines_roster (s : State) (f : LineNo → Line → Line) : (s.mapLines f).roster = s.roster := by simp only [State.mapLines]
@[simp] theorem State.mapLines_settings (s : State) (f : LineNo → Line → Line) : (s.mapLines f).settings = s.settings := by simp only [State.mapLines]
@[simp] theorem State.mapLines_free (s : State) (f : LineNo → Line → Line) : (s.mapLines f).free = s.free := by simp only [State.mapLines]
@[simp] theorem State.mapLines_pool (s : State) (f : LineNo → Line → Line) : (s.mapLines f).pool = s.pool := by simp only [State.mapLines]
@[simp] theorem State.mapLines_quarantine (s : State) (f : LineNo → Line → Line) : (s.mapLines f).quarantine = s.quarantine := by simp only [State.mapLines]
@[simp] theorem State.mapLines_spoolLow (s : State) (f : LineNo → Line → Line) : (s.mapLines f).spoolLow = s.spoolLow := by simp only [State.mapLines]
@[simp] theorem State.mapLines_dram (s : State) (f : LineNo → Line → Line) : (s.mapLines f).dram = s.dram := by simp only [State.mapLines]
@[simp] theorem State.mapLines_stores (s : State) (f : LineNo → Line → Line) : (s.mapLines f).stores = s.stores := by simp only [State.mapLines]
@[simp] theorem State.mapLines_held (s : State) (f : LineNo → Line → Line) : (s.mapLines f).held = s.held := by simp only [State.mapLines]
@[simp] theorem State.mapLines_jobs (s : State) (f : LineNo → Line → Line) : (s.mapLines f).jobs = s.jobs := by simp only [State.mapLines]
@[simp] theorem State.mapLines_jobCtr (s : State) (f : LineNo → Line → Line) : (s.mapLines f).jobCtr = s.jobCtr := by simp only [State.mapLines]
@[simp] theorem State.mapLines_waiting (s : State) (f : LineNo → Line → Line) : (s.mapLines f).waiting = s.waiting := by simp only [State.mapLines]
@[simp] theorem State.mapLines_passesWanted (s : State) (f : LineNo → Line → Line) : (s.mapLines f).passesWanted = s.passesWanted := by simp only [State.mapLines]
@[simp] theorem State.mapLines_engine0 (s : State) (f : LineNo → Line → Line) : (s.mapLines f).engine0 = s.engine0 := by simp only [State.mapLines]
@[simp] theorem State.mapLines_engine1 (s : State) (f : LineNo → Line → Line) : (s.mapLines f).engine1 = s.engine1 := by simp only [State.mapLines]
@[simp] theorem State.mapLines_lastGranted (s : State) (f : LineNo → Line → Line) : (s.mapLines f).lastGranted = s.lastGranted := by simp only [State.mapLines]
@[simp] theorem State.mapLines_meters (s : State) (f : LineNo → Line → Line) : (s.mapLines f).meters = s.meters := by simp only [State.mapLines]
@[simp] theorem State.mapLines_alerts (s : State) (f : LineNo → Line → Line) : (s.mapLines f).alerts = s.alerts := by simp only [State.mapLines]
@[simp] theorem State.mapLines_cleared (s : State) (f : LineNo → Line → Line) : (s.mapLines f).cleared = s.cleared := by simp only [State.mapLines]
@[simp] theorem State.mapLines_alertCtr (s : State) (f : LineNo → Line → Line) : (s.mapLines f).alertCtr = s.alertCtr := by simp only [State.mapLines]
@[simp] theorem State.mapLines_shopOut (s : State) (f : LineNo → Line → Line) : (s.mapLines f).shopOut = s.shopOut := by simp only [State.mapLines]
@[simp] theorem State.mapLines_lineOut (s : State) (f : LineNo → Line → Line) : (s.mapLines f).lineOut = s.lineOut := by simp only [State.mapLines]
@[simp] theorem State.mapLines_freeCtr (s : State) (f : LineNo → Line → Line) : (s.mapLines f).freeCtr = s.freeCtr := by simp only [State.mapLines]

/-! ### State.modJob -/

@[simp] theorem State.modJob_pending (s : State) (j : Nat) (f : Job → Job) : (s.modJob j f).pending = s.pending := by simp only [State.modJob]
@[simp] theorem State.modJob_live (s : State) (j : Nat) (f : Job → Job) : (s.modJob j f).live = s.live := by simp only [State.modJob]
@[simp] theorem State.modJob_straps (s : State) (j : Nat) (f : Job → Job) : (s.modJob j f).straps = s.straps := by simp only [State.modJob]
@[simp] theorem State.modJob_window (s : State) (j : Nat) (f : Job → Job) : (s.modJob j f).window = s.window := by simp only [State.modJob]
@[simp] theorem State.modJob_readout (s : State) (j : Nat) (f : Job → Job) : (s.modJob j f).readout = s.readout := by simp only [State.modJob]
@[simp] theorem State.modJob_timeBase (s : State) (j : Nat) (f : Job → Job) : (s.modJob j f).timeBase = s.timeBase := by simp only [State.modJob]
@[simp] theorem State.modJob_route (s : State) (j : Nat) (f : Job → Job) : (s.modJob j f).route = s.route := by simp only [State.modJob]
@[simp] theorem State.modJob_group (s : State) (j : Nat) (f : Job → Job) : (s.modJob j f).group = s.group := by simp only [State.modJob]
@[simp] theorem State.modJob_accounts (s : State) (j : Nat) (f : Job → Job) : (s.modJob j f).accounts = s.accounts := by simp only [State.modJob]
@[simp] theorem State.modJob_rate (s : State) (j : Nat) (f : Job → Job) : (s.modJob j f).rate = s.rate := by simp only [State.modJob]
@[simp] theorem State.modJob_media (s : State) (j : Nat) (f : Job → Job) : (s.modJob j f).media = s.media := by simp only [State.modJob]
@[simp] theorem State.modJob_tier (s : State) (j : Nat) (f : Job → Job) : (s.modJob j f).tier = s.tier := by simp only [State.modJob]
@[simp] theorem State.modJob_pattern (s : State) (j : Nat) (f : Job → Job) : (s.modJob j f).pattern = s.pattern := by simp only [State.modJob]
@[simp] theorem State.modJob_roster (s : State) (j : Nat) (f : Job → Job) : (s.modJob j f).roster = s.roster := by simp only [State.modJob]
@[simp] theorem State.modJob_settings (s : State) (j : Nat) (f : Job → Job) : (s.modJob j f).settings = s.settings := by simp only [State.modJob]
@[simp] theorem State.modJob_free (s : State) (j : Nat) (f : Job → Job) : (s.modJob j f).free = s.free := by simp only [State.modJob]
@[simp] theorem State.modJob_pool (s : State) (j : Nat) (f : Job → Job) : (s.modJob j f).pool = s.pool := by simp only [State.modJob]
@[simp] theorem State.modJob_quarantine (s : State) (j : Nat) (f : Job → Job) : (s.modJob j f).quarantine = s.quarantine := by simp only [State.modJob]
@[simp] theorem State.modJob_spoolLow (s : State) (j : Nat) (f : Job → Job) : (s.modJob j f).spoolLow = s.spoolLow := by simp only [State.modJob]
@[simp] theorem State.modJob_dram (s : State) (j : Nat) (f : Job → Job) : (s.modJob j f).dram = s.dram := by simp only [State.modJob]
@[simp] theorem State.modJob_stores (s : State) (j : Nat) (f : Job → Job) : (s.modJob j f).stores = s.stores := by simp only [State.modJob]
@[simp] theorem State.modJob_held (s : State) (j : Nat) (f : Job → Job) : (s.modJob j f).held = s.held := by simp only [State.modJob]
@[simp] theorem State.modJob_jobCtr (s : State) (j : Nat) (f : Job → Job) : (s.modJob j f).jobCtr = s.jobCtr := by simp only [State.modJob]
@[simp] theorem State.modJob_waiting (s : State) (j : Nat) (f : Job → Job) : (s.modJob j f).waiting = s.waiting := by simp only [State.modJob]
@[simp] theorem State.modJob_passesWanted (s : State) (j : Nat) (f : Job → Job) : (s.modJob j f).passesWanted = s.passesWanted := by simp only [State.modJob]
@[simp] theorem State.modJob_lines (s : State) (j : Nat) (f : Job → Job) : (s.modJob j f).lines = s.lines := by simp only [State.modJob]
@[simp] theorem State.modJob_engine0 (s : State) (j : Nat) (f : Job → Job) : (s.modJob j f).engine0 = s.engine0 := by simp only [State.modJob]
@[simp] theorem State.modJob_engine1 (s : State) (j : Nat) (f : Job → Job) : (s.modJob j f).engine1 = s.engine1 := by simp only [State.modJob]
@[simp] theorem State.modJob_lastGranted (s : State) (j : Nat) (f : Job → Job) : (s.modJob j f).lastGranted = s.lastGranted := by simp only [State.modJob]
@[simp] theorem State.modJob_meters (s : State) (j : Nat) (f : Job → Job) : (s.modJob j f).meters = s.meters := by simp only [State.modJob]
@[simp] theorem State.modJob_alerts (s : State) (j : Nat) (f : Job → Job) : (s.modJob j f).alerts = s.alerts := by simp only [State.modJob]
@[simp] theorem State.modJob_cleared (s : State) (j : Nat) (f : Job → Job) : (s.modJob j f).cleared = s.cleared := by simp only [State.modJob]
@[simp] theorem State.modJob_alertCtr (s : State) (j : Nat) (f : Job → Job) : (s.modJob j f).alertCtr = s.alertCtr := by simp only [State.modJob]
@[simp] theorem State.modJob_shopOut (s : State) (j : Nat) (f : Job → Job) : (s.modJob j f).shopOut = s.shopOut := by simp only [State.modJob]
@[simp] theorem State.modJob_lineOut (s : State) (j : Nat) (f : Job → Job) : (s.modJob j f).lineOut = s.lineOut := by simp only [State.modJob]
@[simp] theorem State.modJob_freeCtr (s : State) (j : Nat) (f : Job → Job) : (s.modJob j f).freeCtr = s.freeCtr := by simp only [State.modJob]

/-! ### State.removeJob -/

@[simp] theorem State.removeJob_pending (s : State) (j : Nat) : (s.removeJob j).pending = s.pending := by simp only [State.removeJob]
@[simp] theorem State.removeJob_live (s : State) (j : Nat) : (s.removeJob j).live = s.live := by simp only [State.removeJob]
@[simp] theorem State.removeJob_straps (s : State) (j : Nat) : (s.removeJob j).straps = s.straps := by simp only [State.removeJob]
@[simp] theorem State.removeJob_window (s : State) (j : Nat) : (s.removeJob j).window = s.window := by simp only [State.removeJob]
@[simp] theorem State.removeJob_readout (s : State) (j : Nat) : (s.removeJob j).readout = s.readout := by simp only [State.removeJob]
@[simp] theorem State.removeJob_timeBase (s : State) (j : Nat) : (s.removeJob j).timeBase = s.timeBase := by simp only [State.removeJob]
@[simp] theorem State.removeJob_route (s : State) (j : Nat) : (s.removeJob j).route = s.route := by simp only [State.removeJob]
@[simp] theorem State.removeJob_group (s : State) (j : Nat) : (s.removeJob j).group = s.group := by simp only [State.removeJob]
@[simp] theorem State.removeJob_accounts (s : State) (j : Nat) : (s.removeJob j).accounts = s.accounts := by simp only [State.removeJob]
@[simp] theorem State.removeJob_rate (s : State) (j : Nat) : (s.removeJob j).rate = s.rate := by simp only [State.removeJob]
@[simp] theorem State.removeJob_media (s : State) (j : Nat) : (s.removeJob j).media = s.media := by simp only [State.removeJob]
@[simp] theorem State.removeJob_tier (s : State) (j : Nat) : (s.removeJob j).tier = s.tier := by simp only [State.removeJob]
@[simp] theorem State.removeJob_pattern (s : State) (j : Nat) : (s.removeJob j).pattern = s.pattern := by simp only [State.removeJob]
@[simp] theorem State.removeJob_roster (s : State) (j : Nat) : (s.removeJob j).roster = s.roster := by simp only [State.removeJob]
@[simp] theorem State.removeJob_settings (s : State) (j : Nat) : (s.removeJob j).settings = s.settings := by simp only [State.removeJob]
@[simp] theorem State.removeJob_free (s : State) (j : Nat) : (s.removeJob j).free = s.free := by simp only [State.removeJob]
@[simp] theorem State.removeJob_pool (s : State) (j : Nat) : (s.removeJob j).pool = s.pool := by simp only [State.removeJob]
@[simp] theorem State.removeJob_quarantine (s : State) (j : Nat) : (s.removeJob j).quarantine = s.quarantine := by simp only [State.removeJob]
@[simp] theorem State.removeJob_spoolLow (s : State) (j : Nat) : (s.removeJob j).spoolLow = s.spoolLow := by simp only [State.removeJob]
@[simp] theorem State.removeJob_dram (s : State) (j : Nat) : (s.removeJob j).dram = s.dram := by simp only [State.removeJob]
@[simp] theorem State.removeJob_stores (s : State) (j : Nat) : (s.removeJob j).stores = s.stores := by simp only [State.removeJob]
@[simp] theorem State.removeJob_held (s : State) (j : Nat) : (s.removeJob j).held = s.held := by simp only [State.removeJob]
@[simp] theorem State.removeJob_jobCtr (s : State) (j : Nat) : (s.removeJob j).jobCtr = s.jobCtr := by simp only [State.removeJob]
@[simp] theorem State.removeJob_waiting (s : State) (j : Nat) : (s.removeJob j).waiting = s.waiting := by simp only [State.removeJob]
@[simp] theorem State.removeJob_passesWanted (s : State) (j : Nat) : (s.removeJob j).passesWanted = s.passesWanted := by simp only [State.removeJob]
@[simp] theorem State.removeJob_lines (s : State) (j : Nat) : (s.removeJob j).lines = s.lines := by simp only [State.removeJob]
@[simp] theorem State.removeJob_engine0 (s : State) (j : Nat) : (s.removeJob j).engine0 = s.engine0 := by simp only [State.removeJob]
@[simp] theorem State.removeJob_engine1 (s : State) (j : Nat) : (s.removeJob j).engine1 = s.engine1 := by simp only [State.removeJob]
@[simp] theorem State.removeJob_lastGranted (s : State) (j : Nat) : (s.removeJob j).lastGranted = s.lastGranted := by simp only [State.removeJob]
@[simp] theorem State.removeJob_meters (s : State) (j : Nat) : (s.removeJob j).meters = s.meters := by simp only [State.removeJob]
@[simp] theorem State.removeJob_alerts (s : State) (j : Nat) : (s.removeJob j).alerts = s.alerts := by simp only [State.removeJob]
@[simp] theorem State.removeJob_cleared (s : State) (j : Nat) : (s.removeJob j).cleared = s.cleared := by simp only [State.removeJob]
@[simp] theorem State.removeJob_alertCtr (s : State) (j : Nat) : (s.removeJob j).alertCtr = s.alertCtr := by simp only [State.removeJob]
@[simp] theorem State.removeJob_shopOut (s : State) (j : Nat) : (s.removeJob j).shopOut = s.shopOut := by simp only [State.removeJob]
@[simp] theorem State.removeJob_lineOut (s : State) (j : Nat) : (s.removeJob j).lineOut = s.lineOut := by simp only [State.removeJob]
@[simp] theorem State.removeJob_freeCtr (s : State) (j : Nat) : (s.removeJob j).freeCtr = s.freeCtr := by simp only [State.removeJob]

/-! ### State.modAccount -/

@[simp] theorem State.modAccount_pending (s : State) (a : AccountNo) (f : Account → Account) : (s.modAccount a f).pending = s.pending := by simp only [State.modAccount]
@[simp] theorem State.modAccount_live (s : State) (a : AccountNo) (f : Account → Account) : (s.modAccount a f).live = s.live := by simp only [State.modAccount]
@[simp] theorem State.modAccount_straps (s : State) (a : AccountNo) (f : Account → Account) : (s.modAccount a f).straps = s.straps := by simp only [State.modAccount]
@[simp] theorem State.modAccount_window (s : State) (a : AccountNo) (f : Account → Account) : (s.modAccount a f).window = s.window := by simp only [State.modAccount]
@[simp] theorem State.modAccount_readout (s : State) (a : AccountNo) (f : Account → Account) : (s.modAccount a f).readout = s.readout := by simp only [State.modAccount]
@[simp] theorem State.modAccount_timeBase (s : State) (a : AccountNo) (f : Account → Account) : (s.modAccount a f).timeBase = s.timeBase := by simp only [State.modAccount]
@[simp] theorem State.modAccount_route (s : State) (a : AccountNo) (f : Account → Account) : (s.modAccount a f).route = s.route := by simp only [State.modAccount]
@[simp] theorem State.modAccount_group (s : State) (a : AccountNo) (f : Account → Account) : (s.modAccount a f).group = s.group := by simp only [State.modAccount]
@[simp] theorem State.modAccount_rate (s : State) (a : AccountNo) (f : Account → Account) : (s.modAccount a f).rate = s.rate := by simp only [State.modAccount]
@[simp] theorem State.modAccount_media (s : State) (a : AccountNo) (f : Account → Account) : (s.modAccount a f).media = s.media := by simp only [State.modAccount]
@[simp] theorem State.modAccount_tier (s : State) (a : AccountNo) (f : Account → Account) : (s.modAccount a f).tier = s.tier := by simp only [State.modAccount]
@[simp] theorem State.modAccount_pattern (s : State) (a : AccountNo) (f : Account → Account) : (s.modAccount a f).pattern = s.pattern := by simp only [State.modAccount]
@[simp] theorem State.modAccount_roster (s : State) (a : AccountNo) (f : Account → Account) : (s.modAccount a f).roster = s.roster := by simp only [State.modAccount]
@[simp] theorem State.modAccount_settings (s : State) (a : AccountNo) (f : Account → Account) : (s.modAccount a f).settings = s.settings := by simp only [State.modAccount]
@[simp] theorem State.modAccount_free (s : State) (a : AccountNo) (f : Account → Account) : (s.modAccount a f).free = s.free := by simp only [State.modAccount]
@[simp] theorem State.modAccount_pool (s : State) (a : AccountNo) (f : Account → Account) : (s.modAccount a f).pool = s.pool := by simp only [State.modAccount]
@[simp] theorem State.modAccount_quarantine (s : State) (a : AccountNo) (f : Account → Account) : (s.modAccount a f).quarantine = s.quarantine := by simp only [State.modAccount]
@[simp] theorem State.modAccount_spoolLow (s : State) (a : AccountNo) (f : Account → Account) : (s.modAccount a f).spoolLow = s.spoolLow := by simp only [State.modAccount]
@[simp] theorem State.modAccount_dram (s : State) (a : AccountNo) (f : Account → Account) : (s.modAccount a f).dram = s.dram := by simp only [State.modAccount]
@[simp] theorem State.modAccount_stores (s : State) (a : AccountNo) (f : Account → Account) : (s.modAccount a f).stores = s.stores := by simp only [State.modAccount]
@[simp] theorem State.modAccount_held (s : State) (a : AccountNo) (f : Account → Account) : (s.modAccount a f).held = s.held := by simp only [State.modAccount]
@[simp] theorem State.modAccount_jobs (s : State) (a : AccountNo) (f : Account → Account) : (s.modAccount a f).jobs = s.jobs := by simp only [State.modAccount]
@[simp] theorem State.modAccount_jobCtr (s : State) (a : AccountNo) (f : Account → Account) : (s.modAccount a f).jobCtr = s.jobCtr := by simp only [State.modAccount]
@[simp] theorem State.modAccount_waiting (s : State) (a : AccountNo) (f : Account → Account) : (s.modAccount a f).waiting = s.waiting := by simp only [State.modAccount]
@[simp] theorem State.modAccount_passesWanted (s : State) (a : AccountNo) (f : Account → Account) : (s.modAccount a f).passesWanted = s.passesWanted := by simp only [State.modAccount]
@[simp] theorem State.modAccount_lines (s : State) (a : AccountNo) (f : Account → Account) : (s.modAccount a f).lines = s.lines := by simp only [State.modAccount]
@[simp] theorem State.modAccount_engine0 (s : State) (a : AccountNo) (f : Account → Account) : (s.modAccount a f).engine0 = s.engine0 := by simp only [State.modAccount]
@[simp] theorem State.modAccount_engine1 (s : State) (a : AccountNo) (f : Account → Account) : (s.modAccount a f).engine1 = s.engine1 := by simp only [State.modAccount]
@[simp] theorem State.modAccount_lastGranted (s : State) (a : AccountNo) (f : Account → Account) : (s.modAccount a f).lastGranted = s.lastGranted := by simp only [State.modAccount]
@[simp] theorem State.modAccount_meters (s : State) (a : AccountNo) (f : Account → Account) : (s.modAccount a f).meters = s.meters := by simp only [State.modAccount]
@[simp] theorem State.modAccount_alerts (s : State) (a : AccountNo) (f : Account → Account) : (s.modAccount a f).alerts = s.alerts := by simp only [State.modAccount]
@[simp] theorem State.modAccount_cleared (s : State) (a : AccountNo) (f : Account → Account) : (s.modAccount a f).cleared = s.cleared := by simp only [State.modAccount]
@[simp] theorem State.modAccount_alertCtr (s : State) (a : AccountNo) (f : Account → Account) : (s.modAccount a f).alertCtr = s.alertCtr := by simp only [State.modAccount]
@[simp] theorem State.modAccount_shopOut (s : State) (a : AccountNo) (f : Account → Account) : (s.modAccount a f).shopOut = s.shopOut := by simp only [State.modAccount]
@[simp] theorem State.modAccount_lineOut (s : State) (a : AccountNo) (f : Account → Account) : (s.modAccount a f).lineOut = s.lineOut := by simp only [State.modAccount]
@[simp] theorem State.modAccount_freeCtr (s : State) (a : AccountNo) (f : Account → Account) : (s.modAccount a f).freeCtr = s.freeCtr := by simp only [State.modAccount]

/-! ### State.modMeter -/

@[simp] theorem State.modMeter_pending (s : State) (p : LineNo) (f : Meter → Meter) : (s.modMeter p f).pending = s.pending := by simp only [State.modMeter]
@[simp] theorem State.modMeter_live (s : State) (p : LineNo) (f : Meter → Meter) : (s.modMeter p f).live = s.live := by simp only [State.modMeter]
@[simp] theorem State.modMeter_straps (s : State) (p : LineNo) (f : Meter → Meter) : (s.modMeter p f).straps = s.straps := by simp only [State.modMeter]
@[simp] theorem State.modMeter_window (s : State) (p : LineNo) (f : Meter → Meter) : (s.modMeter p f).window = s.window := by simp only [State.modMeter]
@[simp] theorem State.modMeter_readout (s : State) (p : LineNo) (f : Meter → Meter) : (s.modMeter p f).readout = s.readout := by simp only [State.modMeter]
@[simp] theorem State.modMeter_timeBase (s : State) (p : LineNo) (f : Meter → Meter) : (s.modMeter p f).timeBase = s.timeBase := by simp only [State.modMeter]
@[simp] theorem State.modMeter_route (s : State) (p : LineNo) (f : Meter → Meter) : (s.modMeter p f).route = s.route := by simp only [State.modMeter]
@[simp] theorem State.modMeter_group (s : State) (p : LineNo) (f : Meter → Meter) : (s.modMeter p f).group = s.group := by simp only [State.modMeter]
@[simp] theorem State.modMeter_accounts (s : State) (p : LineNo) (f : Meter → Meter) : (s.modMeter p f).accounts = s.accounts := by simp only [State.modMeter]
@[simp] theorem State.modMeter_rate (s : State) (p : LineNo) (f : Meter → Meter) : (s.modMeter p f).rate = s.rate := by simp only [State.modMeter]
@[simp] theorem State.modMeter_media (s : State) (p : LineNo) (f : Meter → Meter) : (s.modMeter p f).media = s.media := by simp only [State.modMeter]
@[simp] theorem State.modMeter_tier (s : State) (p : LineNo) (f : Meter → Meter) : (s.modMeter p f).tier = s.tier := by simp only [State.modMeter]
@[simp] theorem State.modMeter_pattern (s : State) (p : LineNo) (f : Meter → Meter) : (s.modMeter p f).pattern = s.pattern := by simp only [State.modMeter]
@[simp] theorem State.modMeter_roster (s : State) (p : LineNo) (f : Meter → Meter) : (s.modMeter p f).roster = s.roster := by simp only [State.modMeter]
@[simp] theorem State.modMeter_settings (s : State) (p : LineNo) (f : Meter → Meter) : (s.modMeter p f).settings = s.settings := by simp only [State.modMeter]
@[simp] theorem State.modMeter_free (s : State) (p : LineNo) (f : Meter → Meter) : (s.modMeter p f).free = s.free := by simp only [State.modMeter]
@[simp] theorem State.modMeter_pool (s : State) (p : LineNo) (f : Meter → Meter) : (s.modMeter p f).pool = s.pool := by simp only [State.modMeter]
@[simp] theorem State.modMeter_quarantine (s : State) (p : LineNo) (f : Meter → Meter) : (s.modMeter p f).quarantine = s.quarantine := by simp only [State.modMeter]
@[simp] theorem State.modMeter_spoolLow (s : State) (p : LineNo) (f : Meter → Meter) : (s.modMeter p f).spoolLow = s.spoolLow := by simp only [State.modMeter]
@[simp] theorem State.modMeter_dram (s : State) (p : LineNo) (f : Meter → Meter) : (s.modMeter p f).dram = s.dram := by simp only [State.modMeter]
@[simp] theorem State.modMeter_stores (s : State) (p : LineNo) (f : Meter → Meter) : (s.modMeter p f).stores = s.stores := by simp only [State.modMeter]
@[simp] theorem State.modMeter_held (s : State) (p : LineNo) (f : Meter → Meter) : (s.modMeter p f).held = s.held := by simp only [State.modMeter]
@[simp] theorem State.modMeter_jobs (s : State) (p : LineNo) (f : Meter → Meter) : (s.modMeter p f).jobs = s.jobs := by simp only [State.modMeter]
@[simp] theorem State.modMeter_jobCtr (s : State) (p : LineNo) (f : Meter → Meter) : (s.modMeter p f).jobCtr = s.jobCtr := by simp only [State.modMeter]
@[simp] theorem State.modMeter_waiting (s : State) (p : LineNo) (f : Meter → Meter) : (s.modMeter p f).waiting = s.waiting := by simp only [State.modMeter]
@[simp] theorem State.modMeter_passesWanted (s : State) (p : LineNo) (f : Meter → Meter) : (s.modMeter p f).passesWanted = s.passesWanted := by simp only [State.modMeter]
@[simp] theorem State.modMeter_lines (s : State) (p : LineNo) (f : Meter → Meter) : (s.modMeter p f).lines = s.lines := by simp only [State.modMeter]
@[simp] theorem State.modMeter_engine0 (s : State) (p : LineNo) (f : Meter → Meter) : (s.modMeter p f).engine0 = s.engine0 := by simp only [State.modMeter]
@[simp] theorem State.modMeter_engine1 (s : State) (p : LineNo) (f : Meter → Meter) : (s.modMeter p f).engine1 = s.engine1 := by simp only [State.modMeter]
@[simp] theorem State.modMeter_lastGranted (s : State) (p : LineNo) (f : Meter → Meter) : (s.modMeter p f).lastGranted = s.lastGranted := by simp only [State.modMeter]
@[simp] theorem State.modMeter_alerts (s : State) (p : LineNo) (f : Meter → Meter) : (s.modMeter p f).alerts = s.alerts := by simp only [State.modMeter]
@[simp] theorem State.modMeter_cleared (s : State) (p : LineNo) (f : Meter → Meter) : (s.modMeter p f).cleared = s.cleared := by simp only [State.modMeter]
@[simp] theorem State.modMeter_alertCtr (s : State) (p : LineNo) (f : Meter → Meter) : (s.modMeter p f).alertCtr = s.alertCtr := by simp only [State.modMeter]
@[simp] theorem State.modMeter_shopOut (s : State) (p : LineNo) (f : Meter → Meter) : (s.modMeter p f).shopOut = s.shopOut := by simp only [State.modMeter]
@[simp] theorem State.modMeter_lineOut (s : State) (p : LineNo) (f : Meter → Meter) : (s.modMeter p f).lineOut = s.lineOut := by simp only [State.modMeter]
@[simp] theorem State.modMeter_freeCtr (s : State) (p : LineNo) (f : Meter → Meter) : (s.modMeter p f).freeCtr = s.freeCtr := by simp only [State.modMeter]

/-! ### State.modAlert -/

@[simp] theorem State.modAlert_pending (s : State) (n : Nat) (f : AlertRec → AlertRec) : (s.modAlert n f).pending = s.pending := by simp only [State.modAlert]
@[simp] theorem State.modAlert_live (s : State) (n : Nat) (f : AlertRec → AlertRec) : (s.modAlert n f).live = s.live := by simp only [State.modAlert]
@[simp] theorem State.modAlert_straps (s : State) (n : Nat) (f : AlertRec → AlertRec) : (s.modAlert n f).straps = s.straps := by simp only [State.modAlert]
@[simp] theorem State.modAlert_window (s : State) (n : Nat) (f : AlertRec → AlertRec) : (s.modAlert n f).window = s.window := by simp only [State.modAlert]
@[simp] theorem State.modAlert_readout (s : State) (n : Nat) (f : AlertRec → AlertRec) : (s.modAlert n f).readout = s.readout := by simp only [State.modAlert]
@[simp] theorem State.modAlert_timeBase (s : State) (n : Nat) (f : AlertRec → AlertRec) : (s.modAlert n f).timeBase = s.timeBase := by simp only [State.modAlert]
@[simp] theorem State.modAlert_route (s : State) (n : Nat) (f : AlertRec → AlertRec) : (s.modAlert n f).route = s.route := by simp only [State.modAlert]
@[simp] theorem State.modAlert_group (s : State) (n : Nat) (f : AlertRec → AlertRec) : (s.modAlert n f).group = s.group := by simp only [State.modAlert]
@[simp] theorem State.modAlert_accounts (s : State) (n : Nat) (f : AlertRec → AlertRec) : (s.modAlert n f).accounts = s.accounts := by simp only [State.modAlert]
@[simp] theorem State.modAlert_rate (s : State) (n : Nat) (f : AlertRec → AlertRec) : (s.modAlert n f).rate = s.rate := by simp only [State.modAlert]
@[simp] theorem State.modAlert_media (s : State) (n : Nat) (f : AlertRec → AlertRec) : (s.modAlert n f).media = s.media := by simp only [State.modAlert]
@[simp] theorem State.modAlert_tier (s : State) (n : Nat) (f : AlertRec → AlertRec) : (s.modAlert n f).tier = s.tier := by simp only [State.modAlert]
@[simp] theorem State.modAlert_pattern (s : State) (n : Nat) (f : AlertRec → AlertRec) : (s.modAlert n f).pattern = s.pattern := by simp only [State.modAlert]
@[simp] theorem State.modAlert_roster (s : State) (n : Nat) (f : AlertRec → AlertRec) : (s.modAlert n f).roster = s.roster := by simp only [State.modAlert]
@[simp] theorem State.modAlert_settings (s : State) (n : Nat) (f : AlertRec → AlertRec) : (s.modAlert n f).settings = s.settings := by simp only [State.modAlert]
@[simp] theorem State.modAlert_free (s : State) (n : Nat) (f : AlertRec → AlertRec) : (s.modAlert n f).free = s.free := by simp only [State.modAlert]
@[simp] theorem State.modAlert_pool (s : State) (n : Nat) (f : AlertRec → AlertRec) : (s.modAlert n f).pool = s.pool := by simp only [State.modAlert]
@[simp] theorem State.modAlert_quarantine (s : State) (n : Nat) (f : AlertRec → AlertRec) : (s.modAlert n f).quarantine = s.quarantine := by simp only [State.modAlert]
@[simp] theorem State.modAlert_spoolLow (s : State) (n : Nat) (f : AlertRec → AlertRec) : (s.modAlert n f).spoolLow = s.spoolLow := by simp only [State.modAlert]
@[simp] theorem State.modAlert_dram (s : State) (n : Nat) (f : AlertRec → AlertRec) : (s.modAlert n f).dram = s.dram := by simp only [State.modAlert]
@[simp] theorem State.modAlert_stores (s : State) (n : Nat) (f : AlertRec → AlertRec) : (s.modAlert n f).stores = s.stores := by simp only [State.modAlert]
@[simp] theorem State.modAlert_held (s : State) (n : Nat) (f : AlertRec → AlertRec) : (s.modAlert n f).held = s.held := by simp only [State.modAlert]
@[simp] theorem State.modAlert_jobs (s : State) (n : Nat) (f : AlertRec → AlertRec) : (s.modAlert n f).jobs = s.jobs := by simp only [State.modAlert]
@[simp] theorem State.modAlert_jobCtr (s : State) (n : Nat) (f : AlertRec → AlertRec) : (s.modAlert n f).jobCtr = s.jobCtr := by simp only [State.modAlert]
@[simp] theorem State.modAlert_waiting (s : State) (n : Nat) (f : AlertRec → AlertRec) : (s.modAlert n f).waiting = s.waiting := by simp only [State.modAlert]
@[simp] theorem State.modAlert_passesWanted (s : State) (n : Nat) (f : AlertRec → AlertRec) : (s.modAlert n f).passesWanted = s.passesWanted := by simp only [State.modAlert]
@[simp] theorem State.modAlert_lines (s : State) (n : Nat) (f : AlertRec → AlertRec) : (s.modAlert n f).lines = s.lines := by simp only [State.modAlert]
@[simp] theorem State.modAlert_engine0 (s : State) (n : Nat) (f : AlertRec → AlertRec) : (s.modAlert n f).engine0 = s.engine0 := by simp only [State.modAlert]
@[simp] theorem State.modAlert_engine1 (s : State) (n : Nat) (f : AlertRec → AlertRec) : (s.modAlert n f).engine1 = s.engine1 := by simp only [State.modAlert]
@[simp] theorem State.modAlert_lastGranted (s : State) (n : Nat) (f : AlertRec → AlertRec) : (s.modAlert n f).lastGranted = s.lastGranted := by simp only [State.modAlert]
@[simp] theorem State.modAlert_meters (s : State) (n : Nat) (f : AlertRec → AlertRec) : (s.modAlert n f).meters = s.meters := by simp only [State.modAlert]
@[simp] theorem State.modAlert_cleared (s : State) (n : Nat) (f : AlertRec → AlertRec) : (s.modAlert n f).cleared = s.cleared := by simp only [State.modAlert]
@[simp] theorem State.modAlert_alertCtr (s : State) (n : Nat) (f : AlertRec → AlertRec) : (s.modAlert n f).alertCtr = s.alertCtr := by simp only [State.modAlert]
@[simp] theorem State.modAlert_shopOut (s : State) (n : Nat) (f : AlertRec → AlertRec) : (s.modAlert n f).shopOut = s.shopOut := by simp only [State.modAlert]
@[simp] theorem State.modAlert_lineOut (s : State) (n : Nat) (f : AlertRec → AlertRec) : (s.modAlert n f).lineOut = s.lineOut := by simp only [State.modAlert]
@[simp] theorem State.modAlert_freeCtr (s : State) (n : Nat) (f : AlertRec → AlertRec) : (s.modAlert n f).freeCtr = s.freeCtr := by simp only [State.modAlert]

/-! ### State.send -/

@[simp] theorem State.send_pending (s : State) (o : ShopOut) : (s.send o).pending = s.pending := by simp only [State.send]
@[simp] theorem State.send_live (s : State) (o : ShopOut) : (s.send o).live = s.live := by simp only [State.send]
@[simp] theorem State.send_straps (s : State) (o : ShopOut) : (s.send o).straps = s.straps := by simp only [State.send]
@[simp] theorem State.send_window (s : State) (o : ShopOut) : (s.send o).window = s.window := by simp only [State.send]
@[simp] theorem State.send_readout (s : State) (o : ShopOut) : (s.send o).readout = s.readout := by simp only [State.send]
@[simp] theorem State.send_timeBase (s : State) (o : ShopOut) : (s.send o).timeBase = s.timeBase := by simp only [State.send]
@[simp] theorem State.send_route (s : State) (o : ShopOut) : (s.send o).route = s.route := by simp only [State.send]
@[simp] theorem State.send_group (s : State) (o : ShopOut) : (s.send o).group = s.group := by simp only [State.send]
@[simp] theorem State.send_accounts (s : State) (o : ShopOut) : (s.send o).accounts = s.accounts := by simp only [State.send]
@[simp] theorem State.send_rate (s : State) (o : ShopOut) : (s.send o).rate = s.rate := by simp only [State.send]
@[simp] theorem State.send_media (s : State) (o : ShopOut) : (s.send o).media = s.media := by simp only [State.send]
@[simp] theorem State.send_tier (s : State) (o : ShopOut) : (s.send o).tier = s.tier := by simp only [State.send]
@[simp] theorem State.send_pattern (s : State) (o : ShopOut) : (s.send o).pattern = s.pattern := by simp only [State.send]
@[simp] theorem State.send_roster (s : State) (o : ShopOut) : (s.send o).roster = s.roster := by simp only [State.send]
@[simp] theorem State.send_settings (s : State) (o : ShopOut) : (s.send o).settings = s.settings := by simp only [State.send]
@[simp] theorem State.send_free (s : State) (o : ShopOut) : (s.send o).free = s.free := by simp only [State.send]
@[simp] theorem State.send_pool (s : State) (o : ShopOut) : (s.send o).pool = s.pool := by simp only [State.send]
@[simp] theorem State.send_quarantine (s : State) (o : ShopOut) : (s.send o).quarantine = s.quarantine := by simp only [State.send]
@[simp] theorem State.send_spoolLow (s : State) (o : ShopOut) : (s.send o).spoolLow = s.spoolLow := by simp only [State.send]
@[simp] theorem State.send_dram (s : State) (o : ShopOut) : (s.send o).dram = s.dram := by simp only [State.send]
@[simp] theorem State.send_stores (s : State) (o : ShopOut) : (s.send o).stores = s.stores := by simp only [State.send]
@[simp] theorem State.send_held (s : State) (o : ShopOut) : (s.send o).held = s.held := by simp only [State.send]
@[simp] theorem State.send_jobs (s : State) (o : ShopOut) : (s.send o).jobs = s.jobs := by simp only [State.send]
@[simp] theorem State.send_jobCtr (s : State) (o : ShopOut) : (s.send o).jobCtr = s.jobCtr := by simp only [State.send]
@[simp] theorem State.send_waiting (s : State) (o : ShopOut) : (s.send o).waiting = s.waiting := by simp only [State.send]
@[simp] theorem State.send_passesWanted (s : State) (o : ShopOut) : (s.send o).passesWanted = s.passesWanted := by simp only [State.send]
@[simp] theorem State.send_lines (s : State) (o : ShopOut) : (s.send o).lines = s.lines := by simp only [State.send]
@[simp] theorem State.send_engine0 (s : State) (o : ShopOut) : (s.send o).engine0 = s.engine0 := by simp only [State.send]
@[simp] theorem State.send_engine1 (s : State) (o : ShopOut) : (s.send o).engine1 = s.engine1 := by simp only [State.send]
@[simp] theorem State.send_lastGranted (s : State) (o : ShopOut) : (s.send o).lastGranted = s.lastGranted := by simp only [State.send]
@[simp] theorem State.send_meters (s : State) (o : ShopOut) : (s.send o).meters = s.meters := by simp only [State.send]
@[simp] theorem State.send_alerts (s : State) (o : ShopOut) : (s.send o).alerts = s.alerts := by simp only [State.send]
@[simp] theorem State.send_cleared (s : State) (o : ShopOut) : (s.send o).cleared = s.cleared := by simp only [State.send]
@[simp] theorem State.send_alertCtr (s : State) (o : ShopOut) : (s.send o).alertCtr = s.alertCtr := by simp only [State.send]
@[simp] theorem State.send_lineOut (s : State) (o : ShopOut) : (s.send o).lineOut = s.lineOut := by simp only [State.send]
@[simp] theorem State.send_freeCtr (s : State) (o : ShopOut) : (s.send o).freeCtr = s.freeCtr := by simp only [State.send]

/-! ### State.leaveWaiting -/

@[simp] theorem State.leaveWaiting_pending (s : State) (j : Nat) : (s.leaveWaiting j).pending = s.pending := by simp only [State.leaveWaiting]
@[simp] theorem State.leaveWaiting_live (s : State) (j : Nat) : (s.leaveWaiting j).live = s.live := by simp only [State.leaveWaiting]
@[simp] theorem State.leaveWaiting_straps (s : State) (j : Nat) : (s.leaveWaiting j).straps = s.straps := by simp only [State.leaveWaiting]
@[simp] theorem State.leaveWaiting_window (s : State) (j : Nat) : (s.leaveWaiting j).window = s.window := by simp only [State.leaveWaiting]
@[simp] theorem State.leaveWaiting_readout (s : State) (j : Nat) : (s.leaveWaiting j).readout = s.readout := by simp only [State.leaveWaiting]
@[simp] theorem State.leaveWaiting_timeBase (s : State) (j : Nat) : (s.leaveWaiting j).timeBase = s.timeBase := by simp only [State.leaveWaiting]
@[simp] theorem State.leaveWaiting_route (s : State) (j : Nat) : (s.leaveWaiting j).route = s.route := by simp only [State.leaveWaiting]
@[simp] theorem State.leaveWaiting_group (s : State) (j : Nat) : (s.leaveWaiting j).group = s.group := by simp only [State.leaveWaiting]
@[simp] theorem State.leaveWaiting_accounts (s : State) (j : Nat) : (s.leaveWaiting j).accounts = s.accounts := by simp only [State.leaveWaiting]
@[simp] theorem State.leaveWaiting_rate (s : State) (j : Nat) : (s.leaveWaiting j).rate = s.rate := by simp only [State.leaveWaiting]
@[simp] theorem State.leaveWaiting_media (s : State) (j : Nat) : (s.leaveWaiting j).media = s.media := by simp only [State.leaveWaiting]
@[simp] theorem State.leaveWaiting_tier (s : State) (j : Nat) : (s.leaveWaiting j).tier = s.tier := by simp only [State.leaveWaiting]
@[simp] theorem State.leaveWaiting_pattern (s : State) (j : Nat) : (s.leaveWaiting j).pattern = s.pattern := by simp only [State.leaveWaiting]
@[simp] theorem State.leaveWaiting_roster (s : State) (j : Nat) : (s.leaveWaiting j).roster = s.roster := by simp only [State.leaveWaiting]
@[simp] theorem State.leaveWaiting_settings (s : State) (j : Nat) : (s.leaveWaiting j).settings = s.settings := by simp only [State.leaveWaiting]
@[simp] theorem State.leaveWaiting_free (s : State) (j : Nat) : (s.leaveWaiting j).free = s.free := by simp only [State.leaveWaiting]
@[simp] theorem State.leaveWaiting_pool (s : State) (j : Nat) : (s.leaveWaiting j).pool = s.pool := by simp only [State.leaveWaiting]
@[simp] theorem State.leaveWaiting_quarantine (s : State) (j : Nat) : (s.leaveWaiting j).quarantine = s.quarantine := by simp only [State.leaveWaiting]
@[simp] theorem State.leaveWaiting_spoolLow (s : State) (j : Nat) : (s.leaveWaiting j).spoolLow = s.spoolLow := by simp only [State.leaveWaiting]
@[simp] theorem State.leaveWaiting_dram (s : State) (j : Nat) : (s.leaveWaiting j).dram = s.dram := by simp only [State.leaveWaiting]
@[simp] theorem State.leaveWaiting_stores (s : State) (j : Nat) : (s.leaveWaiting j).stores = s.stores := by simp only [State.leaveWaiting]
@[simp] theorem State.leaveWaiting_held (s : State) (j : Nat) : (s.leaveWaiting j).held = s.held := by simp only [State.leaveWaiting]
@[simp] theorem State.leaveWaiting_jobs (s : State) (j : Nat) : (s.leaveWaiting j).jobs = s.jobs := by simp only [State.leaveWaiting]
@[simp] theorem State.leaveWaiting_jobCtr (s : State) (j : Nat) : (s.leaveWaiting j).jobCtr = s.jobCtr := by simp only [State.leaveWaiting]
@[simp] theorem State.leaveWaiting_passesWanted (s : State) (j : Nat) : (s.leaveWaiting j).passesWanted = s.passesWanted := by simp only [State.leaveWaiting]
@[simp] theorem State.leaveWaiting_lines (s : State) (j : Nat) : (s.leaveWaiting j).lines = s.lines := by simp only [State.leaveWaiting]
@[simp] theorem State.leaveWaiting_engine0 (s : State) (j : Nat) : (s.leaveWaiting j).engine0 = s.engine0 := by simp only [State.leaveWaiting]
@[simp] theorem State.leaveWaiting_engine1 (s : State) (j : Nat) : (s.leaveWaiting j).engine1 = s.engine1 := by simp only [State.leaveWaiting]
@[simp] theorem State.leaveWaiting_lastGranted (s : State) (j : Nat) : (s.leaveWaiting j).lastGranted = s.lastGranted := by simp only [State.leaveWaiting]
@[simp] theorem State.leaveWaiting_meters (s : State) (j : Nat) : (s.leaveWaiting j).meters = s.meters := by simp only [State.leaveWaiting]
@[simp] theorem State.leaveWaiting_alerts (s : State) (j : Nat) : (s.leaveWaiting j).alerts = s.alerts := by simp only [State.leaveWaiting]
@[simp] theorem State.leaveWaiting_cleared (s : State) (j : Nat) : (s.leaveWaiting j).cleared = s.cleared := by simp only [State.leaveWaiting]
@[simp] theorem State.leaveWaiting_alertCtr (s : State) (j : Nat) : (s.leaveWaiting j).alertCtr = s.alertCtr := by simp only [State.leaveWaiting]
@[simp] theorem State.leaveWaiting_shopOut (s : State) (j : Nat) : (s.leaveWaiting j).shopOut = s.shopOut := by simp only [State.leaveWaiting]
@[simp] theorem State.leaveWaiting_lineOut (s : State) (j : Nat) : (s.leaveWaiting j).lineOut = s.lineOut := by simp only [State.leaveWaiting]
@[simp] theorem State.leaveWaiting_freeCtr (s : State) (j : Nat) : (s.leaveWaiting j).freeCtr = s.freeCtr := by simp only [State.leaveWaiting]

/-! ### State.withPort -/

@[simp] theorem State.withPort_pending (s : State) (q : PortSettings) : (s.withPort q).pending = s.pending := by simp only [State.withPort]
@[simp] theorem State.withPort_live (s : State) (q : PortSettings) : (s.withPort q).live = s.live := by simp only [State.withPort]
@[simp] theorem State.withPort_straps (s : State) (q : PortSettings) : (s.withPort q).straps = s.straps := by simp only [State.withPort]
@[simp] theorem State.withPort_window (s : State) (q : PortSettings) : (s.withPort q).window = s.window := by simp only [State.withPort]
@[simp] theorem State.withPort_readout (s : State) (q : PortSettings) : (s.withPort q).readout = s.readout := by simp only [State.withPort]
@[simp] theorem State.withPort_timeBase (s : State) (q : PortSettings) : (s.withPort q).timeBase = s.timeBase := by simp only [State.withPort]
@[simp] theorem State.withPort_route (s : State) (q : PortSettings) : (s.withPort q).route = s.route := by simp only [State.withPort]
@[simp] theorem State.withPort_group (s : State) (q : PortSettings) : (s.withPort q).group = s.group := by simp only [State.withPort]
@[simp] theorem State.withPort_accounts (s : State) (q : PortSettings) : (s.withPort q).accounts = s.accounts := by simp only [State.withPort]
@[simp] theorem State.withPort_rate (s : State) (q : PortSettings) : (s.withPort q).rate = s.rate := by simp only [State.withPort]
@[simp] theorem State.withPort_media (s : State) (q : PortSettings) : (s.withPort q).media = s.media := by simp only [State.withPort]
@[simp] theorem State.withPort_tier (s : State) (q : PortSettings) : (s.withPort q).tier = s.tier := by simp only [State.withPort]
@[simp] theorem State.withPort_pattern (s : State) (q : PortSettings) : (s.withPort q).pattern = s.pattern := by simp only [State.withPort]
@[simp] theorem State.withPort_roster (s : State) (q : PortSettings) : (s.withPort q).roster = s.roster := by simp only [State.withPort]
@[simp] theorem State.withPort_free (s : State) (q : PortSettings) : (s.withPort q).free = s.free := by simp only [State.withPort]
@[simp] theorem State.withPort_pool (s : State) (q : PortSettings) : (s.withPort q).pool = s.pool := by simp only [State.withPort]
@[simp] theorem State.withPort_quarantine (s : State) (q : PortSettings) : (s.withPort q).quarantine = s.quarantine := by simp only [State.withPort]
@[simp] theorem State.withPort_spoolLow (s : State) (q : PortSettings) : (s.withPort q).spoolLow = s.spoolLow := by simp only [State.withPort]
@[simp] theorem State.withPort_dram (s : State) (q : PortSettings) : (s.withPort q).dram = s.dram := by simp only [State.withPort]
@[simp] theorem State.withPort_stores (s : State) (q : PortSettings) : (s.withPort q).stores = s.stores := by simp only [State.withPort]
@[simp] theorem State.withPort_held (s : State) (q : PortSettings) : (s.withPort q).held = s.held := by simp only [State.withPort]
@[simp] theorem State.withPort_jobs (s : State) (q : PortSettings) : (s.withPort q).jobs = s.jobs := by simp only [State.withPort]
@[simp] theorem State.withPort_jobCtr (s : State) (q : PortSettings) : (s.withPort q).jobCtr = s.jobCtr := by simp only [State.withPort]
@[simp] theorem State.withPort_waiting (s : State) (q : PortSettings) : (s.withPort q).waiting = s.waiting := by simp only [State.withPort]
@[simp] theorem State.withPort_passesWanted (s : State) (q : PortSettings) : (s.withPort q).passesWanted = s.passesWanted := by simp only [State.withPort]
@[simp] theorem State.withPort_lines (s : State) (q : PortSettings) : (s.withPort q).lines = s.lines := by simp only [State.withPort]
@[simp] theorem State.withPort_engine0 (s : State) (q : PortSettings) : (s.withPort q).engine0 = s.engine0 := by simp only [State.withPort]
@[simp] theorem State.withPort_engine1 (s : State) (q : PortSettings) : (s.withPort q).engine1 = s.engine1 := by simp only [State.withPort]
@[simp] theorem State.withPort_lastGranted (s : State) (q : PortSettings) : (s.withPort q).lastGranted = s.lastGranted := by simp only [State.withPort]
@[simp] theorem State.withPort_meters (s : State) (q : PortSettings) : (s.withPort q).meters = s.meters := by simp only [State.withPort]
@[simp] theorem State.withPort_alerts (s : State) (q : PortSettings) : (s.withPort q).alerts = s.alerts := by simp only [State.withPort]
@[simp] theorem State.withPort_cleared (s : State) (q : PortSettings) : (s.withPort q).cleared = s.cleared := by simp only [State.withPort]
@[simp] theorem State.withPort_alertCtr (s : State) (q : PortSettings) : (s.withPort q).alertCtr = s.alertCtr := by simp only [State.withPort]
@[simp] theorem State.withPort_shopOut (s : State) (q : PortSettings) : (s.withPort q).shopOut = s.shopOut := by simp only [State.withPort]
@[simp] theorem State.withPort_lineOut (s : State) (q : PortSettings) : (s.withPort q).lineOut = s.lineOut := by simp only [State.withPort]
@[simp] theorem State.withPort_freeCtr (s : State) (q : PortSettings) : (s.withPort q).freeCtr = s.freeCtr := by simp only [State.withPort]

/-! ### State.withPending -/

@[simp] theorem State.withPending_live (s : State) (q : List Instr) : (s.withPending q).live = s.live := by simp only [State.withPending]
@[simp] theorem State.withPending_straps (s : State) (q : List Instr) : (s.withPending q).straps = s.straps := by simp only [State.withPending]
@[simp] theorem State.withPending_window (s : State) (q : List Instr) : (s.withPending q).window = s.window := by simp only [State.withPending]
@[simp] theorem State.withPending_readout (s : State) (q : List Instr) : (s.withPending q).readout = s.readout := by simp only [State.withPending]
@[simp] theorem State.withPending_timeBase (s : State) (q : List Instr) : (s.withPending q).timeBase = s.timeBase := by simp only [State.withPending]
@[simp] theorem State.withPending_route (s : State) (q : List Instr) : (s.withPending q).route = s.route := by simp only [State.withPending]
@[simp] theorem State.withPending_group (s : State) (q : List Instr) : (s.withPending q).group = s.group := by simp only [State.withPending]
@[simp] theorem State.withPending_accounts (s : State) (q : List Instr) : (s.withPending q).accounts = s.accounts := by simp only [State.withPending]
@[simp] theorem State.withPending_rate (s : State) (q : List Instr) : (s.withPending q).rate = s.rate := by simp only [State.withPending]
@[simp] theorem State.withPending_media (s : State) (q : List Instr) : (s.withPending q).media = s.media := by simp only [State.withPending]
@[simp] theorem State.withPending_tier (s : State) (q : List Instr) : (s.withPending q).tier = s.tier := by simp only [State.withPending]
@[simp] theorem State.withPending_pattern (s : State) (q : List Instr) : (s.withPending q).pattern = s.pattern := by simp only [State.withPending]
@[simp] theorem State.withPending_roster (s : State) (q : List Instr) : (s.withPending q).roster = s.roster := by simp only [State.withPending]
@[simp] theorem State.withPending_settings (s : State) (q : List Instr) : (s.withPending q).settings = s.settings := by simp only [State.withPending]
@[simp] theorem State.withPending_free (s : State) (q : List Instr) : (s.withPending q).free = s.free := by simp only [State.withPending]
@[simp] theorem State.withPending_pool (s : State) (q : List Instr) : (s.withPending q).pool = s.pool := by simp only [State.withPending]
@[simp] theorem State.withPending_quarantine (s : State) (q : List Instr) : (s.withPending q).quarantine = s.quarantine := by simp only [State.withPending]
@[simp] theorem State.withPending_spoolLow (s : State) (q : List Instr) : (s.withPending q).spoolLow = s.spoolLow := by simp only [State.withPending]
@[simp] theorem State.withPending_dram (s : State) (q : List Instr) : (s.withPending q).dram = s.dram := by simp only [State.withPending]
@[simp] theorem State.withPending_stores (s : State) (q : List Instr) : (s.withPending q).stores = s.stores := by simp only [State.withPending]
@[simp] theorem State.withPending_held (s : State) (q : List Instr) : (s.withPending q).held = s.held := by simp only [State.withPending]
@[simp] theorem State.withPending_jobs (s : State) (q : List Instr) : (s.withPending q).jobs = s.jobs := by simp only [State.withPending]
@[simp] theorem State.withPending_jobCtr (s : State) (q : List Instr) : (s.withPending q).jobCtr = s.jobCtr := by simp only [State.withPending]
@[simp] theorem State.withPending_waiting (s : State) (q : List Instr) : (s.withPending q).waiting = s.waiting := by simp only [State.withPending]
@[simp] theorem State.withPending_passesWanted (s : State) (q : List Instr) : (s.withPending q).passesWanted = s.passesWanted := by simp only [State.withPending]
@[simp] theorem State.withPending_lines (s : State) (q : List Instr) : (s.withPending q).lines = s.lines := by simp only [State.withPending]
@[simp] theorem State.withPending_engine0 (s : State) (q : List Instr) : (s.withPending q).engine0 = s.engine0 := by simp only [State.withPending]
@[simp] theorem State.withPending_engine1 (s : State) (q : List Instr) : (s.withPending q).engine1 = s.engine1 := by simp only [State.withPending]
@[simp] theorem State.withPending_lastGranted (s : State) (q : List Instr) : (s.withPending q).lastGranted = s.lastGranted := by simp only [State.withPending]
@[simp] theorem State.withPending_meters (s : State) (q : List Instr) : (s.withPending q).meters = s.meters := by simp only [State.withPending]
@[simp] theorem State.withPending_alerts (s : State) (q : List Instr) : (s.withPending q).alerts = s.alerts := by simp only [State.withPending]
@[simp] theorem State.withPending_cleared (s : State) (q : List Instr) : (s.withPending q).cleared = s.cleared := by simp only [State.withPending]
@[simp] theorem State.withPending_alertCtr (s : State) (q : List Instr) : (s.withPending q).alertCtr = s.alertCtr := by simp only [State.withPending]
@[simp] theorem State.withPending_shopOut (s : State) (q : List Instr) : (s.withPending q).shopOut = s.shopOut := by simp only [State.withPending]
@[simp] theorem State.withPending_lineOut (s : State) (q : List Instr) : (s.withPending q).lineOut = s.lineOut := by simp only [State.withPending]
@[simp] theorem State.withPending_freeCtr (s : State) (q : List Instr) : (s.withPending q).freeCtr = s.freeCtr := by simp only [State.withPending]

/-! ### State.withAlertFields -/

@[simp] theorem State.withAlertFields_pending (s : State) (t : Settings) : (s.withAlertFields t).pending = s.pending := by
  simp only [State.withAlertFields]
@[simp] theorem State.withAlertFields_live (s : State) (t : Settings) : (s.withAlertFields t).live = s.live := by
  simp only [State.withAlertFields]
@[simp] theorem State.withAlertFields_straps (s : State) (t : Settings) : (s.withAlertFields t).straps = s.straps := by
  simp only [State.withAlertFields]
@[simp] theorem State.withAlertFields_window (s : State) (t : Settings) : (s.withAlertFields t).window = s.window := by
  simp only [State.withAlertFields]
@[simp] theorem State.withAlertFields_readout (s : State) (t : Settings) : (s.withAlertFields t).readout = s.readout := by
  simp only [State.withAlertFields]
@[simp] theorem State.withAlertFields_timeBase (s : State) (t : Settings) : (s.withAlertFields t).timeBase = s.timeBase := by
  simp only [State.withAlertFields]
@[simp] theorem State.withAlertFields_route (s : State) (t : Settings) : (s.withAlertFields t).route = s.route := by
  simp only [State.withAlertFields]
@[simp] theorem State.withAlertFields_group (s : State) (t : Settings) : (s.withAlertFields t).group = s.group := by
  simp only [State.withAlertFields]
@[simp] theorem State.withAlertFields_accounts (s : State) (t : Settings) : (s.withAlertFields t).accounts = s.accounts := by
  simp only [State.withAlertFields]
@[simp] theorem State.withAlertFields_rate (s : State) (t : Settings) : (s.withAlertFields t).rate = s.rate := by
  simp only [State.withAlertFields]
@[simp] theorem State.withAlertFields_media (s : State) (t : Settings) : (s.withAlertFields t).media = s.media := by
  simp only [State.withAlertFields]
@[simp] theorem State.withAlertFields_tier (s : State) (t : Settings) : (s.withAlertFields t).tier = s.tier := by
  simp only [State.withAlertFields]
@[simp] theorem State.withAlertFields_pattern (s : State) (t : Settings) : (s.withAlertFields t).pattern = s.pattern := by
  simp only [State.withAlertFields]
@[simp] theorem State.withAlertFields_roster (s : State) (t : Settings) : (s.withAlertFields t).roster = s.roster := by
  simp only [State.withAlertFields]
@[simp] theorem State.withAlertFields_free (s : State) (t : Settings) : (s.withAlertFields t).free = s.free := by
  simp only [State.withAlertFields]
@[simp] theorem State.withAlertFields_pool (s : State) (t : Settings) : (s.withAlertFields t).pool = s.pool := by
  simp only [State.withAlertFields]
@[simp] theorem State.withAlertFields_quarantine (s : State) (t : Settings) : (s.withAlertFields t).quarantine = s.quarantine := by
  simp only [State.withAlertFields]
@[simp] theorem State.withAlertFields_spoolLow (s : State) (t : Settings) : (s.withAlertFields t).spoolLow = s.spoolLow := by
  simp only [State.withAlertFields]
@[simp] theorem State.withAlertFields_dram (s : State) (t : Settings) : (s.withAlertFields t).dram = s.dram := by
  simp only [State.withAlertFields]
@[simp] theorem State.withAlertFields_stores (s : State) (t : Settings) : (s.withAlertFields t).stores = s.stores := by
  simp only [State.withAlertFields]
@[simp] theorem State.withAlertFields_held (s : State) (t : Settings) : (s.withAlertFields t).held = s.held := by
  simp only [State.withAlertFields]
@[simp] theorem State.withAlertFields_jobs (s : State) (t : Settings) : (s.withAlertFields t).jobs = s.jobs := by
  simp only [State.withAlertFields]
@[simp] theorem State.withAlertFields_jobCtr (s : State) (t : Settings) : (s.withAlertFields t).jobCtr = s.jobCtr := by
  simp only [State.withAlertFields]
@[simp] theorem State.withAlertFields_waiting (s : State) (t : Settings) : (s.withAlertFields t).waiting = s.waiting := by
  simp only [State.withAlertFields]
@[simp] theorem State.withAlertFields_passesWanted (s : State) (t : Settings) : (s.withAlertFields t).passesWanted = s.passesWanted := by
  simp only [State.withAlertFields]
@[simp] theorem State.withAlertFields_lines (s : State) (t : Settings) : (s.withAlertFields t).lines = s.lines := by
  simp only [State.withAlertFields]
@[simp] theorem State.withAlertFields_engine0 (s : State) (t : Settings) : (s.withAlertFields t).engine0 = s.engine0 := by
  simp only [State.withAlertFields]
@[simp] theorem State.withAlertFields_engine1 (s : State) (t : Settings) : (s.withAlertFields t).engine1 = s.engine1 := by
  simp only [State.withAlertFields]
@[simp] theorem State.withAlertFields_lastGranted (s : State) (t : Settings) : (s.withAlertFields t).lastGranted = s.lastGranted := by
  simp only [State.withAlertFields]
@[simp] theorem State.withAlertFields_meters (s : State) (t : Settings) : (s.withAlertFields t).meters = s.meters := by
  simp only [State.withAlertFields]
@[simp] theorem State.withAlertFields_alerts (s : State) (t : Settings) : (s.withAlertFields t).alerts = s.alerts := by
  simp only [State.withAlertFields]
@[simp] theorem State.withAlertFields_cleared (s : State) (t : Settings) : (s.withAlertFields t).cleared = s.cleared := by
  simp only [State.withAlertFields]
@[simp] theorem State.withAlertFields_alertCtr (s : State) (t : Settings) : (s.withAlertFields t).alertCtr = s.alertCtr := by
  simp only [State.withAlertFields]
@[simp] theorem State.withAlertFields_shopOut (s : State) (t : Settings) : (s.withAlertFields t).shopOut = s.shopOut := by
  simp only [State.withAlertFields]
@[simp] theorem State.withAlertFields_lineOut (s : State) (t : Settings) : (s.withAlertFields t).lineOut = s.lineOut := by
  simp only [State.withAlertFields]
@[simp] theorem State.withAlertFields_freeCtr (s : State) (t : Settings) : (s.withAlertFields t).freeCtr = s.freeCtr := by
  simp only [State.withAlertFields]
@[simp] theorem State.withAlertFields_twice (s : State) (t u : Settings) :
    (s.withAlertFields t).withAlertFields u = s.withAlertFields u := rfl

/-! ### State.wantPass -/

@[simp] theorem State.wantPass_pending (s : State) : s.wantPass.pending = s.pending := by simp only [State.wantPass]
@[simp] theorem State.wantPass_live (s : State) : s.wantPass.live = s.live := by simp only [State.wantPass]
@[simp] theorem State.wantPass_straps (s : State) : s.wantPass.straps = s.straps := by simp only [State.wantPass]
@[simp] theorem State.wantPass_window (s : State) : s.wantPass.window = s.window := by simp only [State.wantPass]
@[simp] theorem State.wantPass_readout (s : State) : s.wantPass.readout = s.readout := by simp only [State.wantPass]
@[simp] theorem State.wantPass_timeBase (s : State) : s.wantPass.timeBase = s.timeBase := by simp only [State.wantPass]
@[simp] theorem State.wantPass_route (s : State) : s.wantPass.route = s.route := by simp only [State.wantPass]
@[simp] theorem State.wantPass_group (s : State) : s.wantPass.group = s.group := by simp only [State.wantPass]
@[simp] theorem State.wantPass_accounts (s : State) : s.wantPass.accounts = s.accounts := by simp only [State.wantPass]
@[simp] theorem State.wantPass_rate (s : State) : s.wantPass.rate = s.rate := by simp only [State.wantPass]
@[simp] theorem State.wantPass_media (s : State) : s.wantPass.media = s.media := by simp only [State.wantPass]
@[simp] theorem State.wantPass_tier (s : State) : s.wantPass.tier = s.tier := by simp only [State.wantPass]
@[simp] theorem State.wantPass_pattern (s : State) : s.wantPass.pattern = s.pattern := by simp only [State.wantPass]
@[simp] theorem State.wantPass_roster (s : State) : s.wantPass.roster = s.roster := by simp only [State.wantPass]
@[simp] theorem State.wantPass_settings (s : State) : s.wantPass.settings = s.settings := by simp only [State.wantPass]
@[simp] theorem State.wantPass_free (s : State) : s.wantPass.free = s.free := by simp only [State.wantPass]
@[simp] theorem State.wantPass_pool (s : State) : s.wantPass.pool = s.pool := by simp only [State.wantPass]
@[simp] theorem State.wantPass_quarantine (s : State) : s.wantPass.quarantine = s.quarantine := by simp only [State.wantPass]
@[simp] theorem State.wantPass_spoolLow (s : State) : s.wantPass.spoolLow = s.spoolLow := by simp only [State.wantPass]
@[simp] theorem State.wantPass_dram (s : State) : s.wantPass.dram = s.dram := by simp only [State.wantPass]
@[simp] theorem State.wantPass_stores (s : State) : s.wantPass.stores = s.stores := by simp only [State.wantPass]
@[simp] theorem State.wantPass_held (s : State) : s.wantPass.held = s.held := by simp only [State.wantPass]
@[simp] theorem State.wantPass_jobs (s : State) : s.wantPass.jobs = s.jobs := by simp only [State.wantPass]
@[simp] theorem State.wantPass_jobCtr (s : State) : s.wantPass.jobCtr = s.jobCtr := by simp only [State.wantPass]
@[simp] theorem State.wantPass_waiting (s : State) : s.wantPass.waiting = s.waiting := by simp only [State.wantPass]
@[simp] theorem State.wantPass_lines (s : State) : s.wantPass.lines = s.lines := by simp only [State.wantPass]
@[simp] theorem State.wantPass_engine0 (s : State) : s.wantPass.engine0 = s.engine0 := by simp only [State.wantPass]
@[simp] theorem State.wantPass_engine1 (s : State) : s.wantPass.engine1 = s.engine1 := by simp only [State.wantPass]
@[simp] theorem State.wantPass_lastGranted (s : State) : s.wantPass.lastGranted = s.lastGranted := by simp only [State.wantPass]
@[simp] theorem State.wantPass_meters (s : State) : s.wantPass.meters = s.meters := by simp only [State.wantPass]
@[simp] theorem State.wantPass_alerts (s : State) : s.wantPass.alerts = s.alerts := by simp only [State.wantPass]
@[simp] theorem State.wantPass_cleared (s : State) : s.wantPass.cleared = s.cleared := by simp only [State.wantPass]
@[simp] theorem State.wantPass_alertCtr (s : State) : s.wantPass.alertCtr = s.alertCtr := by simp only [State.wantPass]
@[simp] theorem State.wantPass_shopOut (s : State) : s.wantPass.shopOut = s.shopOut := by simp only [State.wantPass]
@[simp] theorem State.wantPass_lineOut (s : State) : s.wantPass.lineOut = s.lineOut := by simp only [State.wantPass]
@[simp] theorem State.wantPass_freeCtr (s : State) : s.wantPass.freeCtr = s.freeCtr := by simp only [State.wantPass]
@[simp] theorem State.wantPass_passesWanted (s : State) : s.wantPass.passesWanted = s.passesWanted + 1 := by
  simp only [State.wantPass]

/-! ### The records an update changes -/

@[simp] theorem State.line_modLine_self (s : State) (p : LineNo) (f : Line → Line) :
    (s.modLine p f).line p = f (s.line p) := by
  simp [State.modLine, State.line]

theorem State.line_modLine_ne (s : State) {p q : LineNo} (f : Line → Line) (h : q ≠ p) :
    (s.modLine p f).line q = s.line q := by
  have : p.val ≠ q.val := fun e => h (Fin.ext e.symm)
  simp [State.modLine, State.line, this]

@[simp] theorem State.line_wantPass (s : State) (p : LineNo) : s.wantPass.line p = s.line p := rfl

@[simp] theorem State.job?_wantPass (s : State) (j : Nat) : s.wantPass.job? j = s.job? j := rfl

@[simp] theorem State.line_mapLines (s : State) (f : LineNo → Line → Line) (p : LineNo) :
    (s.mapLines f).line p = f p (s.line p) := by
  simp [State.mapLines, State.line]

@[simp] theorem State.account_modAccount_self (s : State) (a : AccountNo) (f : Account → Account) :
    (s.modAccount a f).account a = f (s.account a) := by
  simp [State.modAccount, State.account]

theorem State.account_modAccount_ne (s : State) {a b : AccountNo} (f : Account → Account) (h : b ≠ a) :
    (s.modAccount a f).account b = s.account b := by
  have : a.val ≠ b.val := fun e => h (Fin.ext e.symm)
  simp [State.modAccount, State.account, this]

@[simp] theorem State.modMeter_self (s : State) (p : LineNo) (f : Meter → Meter) :
    (s.modMeter p f).meters[p] = f s.meters[p] := by
  simp [State.modMeter]

@[simp] theorem State.send_shopOut (s : State) (o : ShopOut) : (s.send o).shopOut = s.shopOut ++ [o] := by
  simp only [State.send]

@[simp] theorem State.leaveWaiting_waiting (s : State) (j : Nat) : (s.leaveWaiting j).waiting = without j s.waiting := by
  simp only [State.leaveWaiting]

@[simp] theorem State.withPending_pending (s : State) (q : List Instr) : (s.withPending q).pending = q := by
  simp only [State.withPending]

@[simp] theorem State.withPort_port (s : State) (q : PortSettings) : (s.withPort q).settings.port = q := by
  simp only [State.withPort]

@[simp] theorem State.withPort_same (s : State) : s.withPort s.settings.port = s := by
  simp only [State.withPort]

/-- A job record is changed by a modification that keeps its number. -/
theorem State.job_modJob_self (s : State) (j : Nat) (f : Job → Job) (x : Job) (h : s.job? j = some x)
    (hf : ∀ y, (f y).number = y.number) : (s.modJob j f).job? j = some (f x) := by
  have key : ∀ l : List Job, l.find? (fun x => decide (x.number = j)) = some x →
      (l.map fun x => if x.number = j then f x else x).find? (fun x => decide (x.number = j)) = some (f x) := by
    intro l
    induction l with
    | nil => simp
    | cons y l ih =>
      by_cases hy : y.number = j
      · intro e
        have e : y = x := by simpa [List.find?, hy] using e
        subst e
        simp [hy, hf]
      · simpa [List.find?, hy] using ih
  exact key s.jobs h

/-- The other job records are as before. -/
theorem State.job_modJob_ne (s : State) {j k : Nat} (f : Job → Job) (h : k ≠ j)
    (hf : ∀ y, (f y).number = y.number) : (s.modJob j f).job? k = s.job? k := by
  have key : ∀ l : List Job, (l.map fun x => if x.number = j then f x else x).find?
      (fun x => decide (x.number = k)) = l.find? (fun x => decide (x.number = k)) := by
    intro l
    induction l with
    | nil => rfl
    | cons y l ih =>
      by_cases hy : y.number = j
      · have : ¬ j = k := fun e => h e.symm
        simp [List.find?, hy, hf, this, ih]
      · by_cases hk : y.number = k
        · simp [List.find?, hk, h]
        · simpa [List.find?, hy, hk] using ih
  exact key s.jobs

end Sys2Proof.Machine
end

