-- ==== Sys2Proof/Laws/Follow.lean ====
section
/-! SUPPORT. What the shared operations can do, said once: every operation of the event machinery (chapters 1 to 9) is a chain of the few kinds of change below. -/

namespace Sys2Proof.Machine

/-- What a change of a line's record may do to its credits, its pace and the load of its FIFO. -/
def LineStep (r : Roster) (l l' : Line) : Prop :=
  ((l'.credits ≤ l.credits ∧ l'.capacity = l.capacity) ∨ l'.credits ≤ l'.capacity) ∧
  (l'.pace = l.pace ∨ l'.pace = r.nominalPace ∨ (100 ≤ l'.pace ∧ l'.pace ≤ 60000) ∨
    ∃ n, 100 ≤ n ∧ n ≤ 60000 ∧ l'.pace = smoothPace l.pace n) ∧
  (lineLoad l' ≤ lineLoad l ∨ (fifoFill l.fifo ≤ r.threshold ∧ lineLoad l' ≤ fifoFill l.fifo + 256))

/-- A change that leaves credits, capacity, pace, FIFO and burst. -/
theorem LineStep.same {r : Roster} {l l' : Line} (hc : l'.credits = l.credits) (hk : l'.capacity = l.capacity)
    (hp : l'.pace = l.pace) (hf : l'.fifo = l.fifo) (hb : l'.burst = l.burst) : LineStep r l l' :=
  ⟨.inl ⟨Nat.le_of_eq hc, hk⟩, .inl hp, .inl (Nat.le_of_eq (by simp only [lineLoad, hf, hb]))⟩

/-- The chains of a job's sheets, in sheet order. -/
def chainsOf (x : Job) : List (List Block) := x.sheets.map fun h => h.chain

/-- Jobs of the same chains have as many sheet records. -/
theorem chainsOf_length {x y : Job} (h : chainsOf x = chainsOf y) : x.sheets.length = y.sheets.length := by
  simpa [chainsOf] using congrArg List.length h

/-- One change of the event machinery. -/
inductive Change : State → State → Prop
  | line (s : State) (p : LineNo) (f : Line → Line) (h : LineStep (s.rosterOf p) (s.line p) (f (s.line p))) :
      Change s (s.modLine p f)
  | lines (s : State) (f : LineNo → Line → Line) (h : ∀ p, LineStep (s.rosterOf p) (s.line p) (f p (s.line p))) :
      Change s (s.mapLines f)
  | jobs (s : State) (f : Job → Job) (h : ∀ x, (f x).number = x.number ∧ chainsOf (f x) = chainsOf x) :
      Change s { s with jobs := s.jobs.map f }
  | sheets (s : State) (j n : Nat) (bs : List Block) (f : Job → Job) (x : Job) (hx : s.job? j = some x)
      (hn : (f x).sheets.length + n = x.sheets.length) (hf : ∀ y, (f y).number = y.number)
      (hb : (bs ++ (chainsOf (f x)).flatten).Perm (chainsOf x).flatten) :
      Change s (({ s with pool := s.pool + n, free := s.free ++ bs }).modJob j f)
  | forget (s : State) (j : Nat) (h : ∀ x, s.job? j = some x → x.sheets = []) : Change s (s.removeJob j)
  | account (s : State) (a : AccountNo) (f : Account → Account) : Change s (s.modAccount a f)
  | meter (s : State) (p : LineNo) (f : Meter → Meter) : Change s (s.modMeter p f)
  | alerts (s : State) (as : List AlertRec) (cs : List Nat) (n : Nat) (o : List ShopOut)
      (h : AlertLaw s.alerts s.cleared → AlertLaw as cs) :
      Change s { s with alerts := as, cleared := cs, alertCtr := n, shopOut := o }
  | blocks (s : State) (fr q : List Block) (j : Nat) (f : Job → Job) (x : Job) (hx : s.job? j = some x)
      (hf : ∀ y, (f y).number = y.number ∧ (f y).sheets.length = y.sheets.length)
      (hq : QuarantineLaw s → q.length ≤ Config.quarantineSize)
      (hb : (s.free ++ (chainsOf x).flatten ++ s.quarantine).Nodup →
        (fr ++ (chainsOf (f x)).flatten ++ q).Perm (s.free ++ (chainsOf x).flatten ++ s.quarantine)) :
      Change s (({ s with free := fr, quarantine := q }).modJob j f)
  | lists (s : State) (low : Bool) (want : Nat) (w : List Nat) (st : List Store) :
      Change s { s with spoolLow := low, passesWanted := want, waiting := w, stores := st }

/-- A chain of changes. -/
inductive Follows : State → State → Prop
  | refl (s : State) : Follows s s
  | step {s t u : State} (h : Follows s t) (c : Change t u) : Follows s u

theorem Follows.trans {s t u : State} (h : Follows s t) (k : Follows t u) : Follows s u := by
  induction k with
  | refl => exact h
  | step _ c ih => exact .step ih c

theorem Change.follows {s t : State} (c : Change s t) : Follows s t := .step (.refl s) c

theorem Follows.foldl {β : Type} (f : State → β → State) (hf : ∀ s b, Follows s (f s b)) (l : List β) (s : State) :
    Follows s (l.foldl f s) := by
  induction l generalizing s with
  | nil => exact .refl s
  | cons b l ih => exact (hf s b).trans (ih _)

theorem Follows.line (s : State) (p : LineNo) (f : Line → Line)
    (h : LineStep (s.rosterOf p) (s.line p) (f (s.line p))) : Follows s (s.modLine p f) :=
  (Change.line s p f h).follows

/-- A change of a line that leaves credits, capacity, pace, FIFO and burst. -/
theorem Follows.lineSame (s : State) (p : LineNo) (f : Line → Line)
    (h : ∀ l, (f l).credits = l.credits ∧ (f l).capacity = l.capacity ∧ (f l).pace = l.pace ∧
      (f l).fifo = l.fifo ∧ (f l).burst = l.burst) : Follows s (s.modLine p f) :=
  have k := h (s.line p)
  .line s p f (.same k.1 k.2.1 k.2.2.1 k.2.2.2.1 k.2.2.2.2)

/-- After a chain, a change of a line that leaves credits, capacity, pace, FIFO and burst. -/
theorem Follows.thenLine {s t : State} (k : Follows s t) (p : LineNo) (f : Line → Line)
    (h : ∀ l, (f l).credits = l.credits ∧ (f l).capacity = l.capacity ∧ (f l).pace = l.pace ∧
      (f l).fifo = l.fifo ∧ (f l).burst = l.burst) : Follows s (t.modLine p f) :=
  k.trans (.lineSame t p f h)

/-- A change of a job record that keeps its number and its chains. -/
theorem Follows.job (s : State) (j : Nat) (f : Job → Job)
    (h : ∀ x, (f x).number = x.number ∧ chainsOf (f x) = chainsOf x) : Follows s (s.modJob j f) := by
  refine (Change.jobs s (fun x => if x.number = j then f x else x) ?_).follows
  intro x
  by_cases hx : x.number = j
  · simpa [hx] using h x
  · simp [hx]

theorem Follows.account (s : State) (a : AccountNo) (f : Account → Account) : Follows s (s.modAccount a f) :=
  (Change.account s a f).follows

theorem Follows.meter (s : State) (p : LineNo) (f : Meter → Meter) : Follows s (s.modMeter p f) :=
  (Change.meter s p f).follows

theorem Follows.lists (s : State) (low : Bool) (want : Nat) (w : List Nat) (st : List Store) :
    Follows s { s with spoolLow := low, passesWanted := want, waiting := w, stores := st } :=
  (Change.lists s low want w st).follows

theorem Follows.wanted (s : State) (b : Nat) : Follows s { s with passesWanted := b } :=
  Follows.lists s s.spoolLow b s.waiting s.stores

/-! ### The alert table -/

theorem Follows.alerts (s : State) (as : List AlertRec) (cs : List Nat) (n : Nat) (o : List ShopOut)
    (h : AlertLaw s.alerts s.cleared → AlertLaw as cs) :
    Follows s { s with alerts := as, cleared := cs, alertCtr := n, shopOut := o } :=
  (Change.alerts s as cs n o h).follows

theorem follows_send (s : State) (o : ShopOut) : Follows s (s.send o) :=
  Follows.alerts s s.alerts s.cleared s.alertCtr _ fun h => h

/-- Two members of a list that a duplicate-free image does not tell apart are one. -/
theorem eq_of_nodup_map {α β : Type} (f : α → β) {l : List α} (h : (l.map f).Nodup) {a b : α} (ha : a ∈ l)
    (hb : b ∈ l) (e : f a = f b) : a = b := by
  induction l with
  | nil => cases ha
  | cons c l ih =>
    rw [List.map_cons, List.nodup_cons] at h
    rcases List.mem_cons.mp ha with rfl | ma <;> rcases List.mem_cons.mp hb with rfl | mb
    · rfl
    · exact absurd (e ▸ List.mem_map_of_mem mb) h.1
    · exact absurd (e ▸ List.mem_map_of_mem ma) h.1
    · exact ih h.2 ma mb

/-- Two records of one number are one record. -/
theorem AlertLaw.unique {as : List AlertRec} {cs : List Nat} (h : AlertLaw as cs) {q r : AlertRec} (hq : q ∈ as)
    (hr : r ∈ as) (e : q.number = r.number) : q = r :=
  eq_of_nodup_map _ h.2.2.1 hq hr e

/-- A change of records that keeps number, kind and subject, and every event record CLEARED, keeps the table's
law. -/
theorem AlertLaw.map {as : List AlertRec} {cs : List Nat} (f : AlertRec → AlertRec)
    (hf : ∀ r, (f r).number = r.number ∧ (f r).kind = r.kind ∧ (f r).subject = r.subject)
    (hev : ∀ r ∈ as, isCondition r.kind = false → r.state = .cleared → (f r).state = .cleared)
    (h : AlertLaw as cs) : AlertLaw (as.map f) cs := by
  obtain ⟨hlen, hks, hnum, hcl, hst⟩ := h
  refine ⟨by simpa using hlen, ?_, ?_, ?_, ?_⟩
  · rw [List.pairwise_map]
    exact hks.imp fun h => by simpa [hf] using h
  · have : (as.map f).map (fun r => r.number) = as.map fun r => r.number := by simp [hf]
    rw [this]
    exact hnum
  · intro n hn
    obtain ⟨r, hr, e⟩ := hcl n hn
    exact ⟨f r, List.mem_map_of_mem hr, by rw [(hf r).1, e]⟩
  · intro q hq hk
    obtain ⟨r, hr, rfl⟩ := List.mem_map.mp hq
    rw [(hf r).2.1] at hk
    exact hev r hr hk (hst r hr hk)

/-- Removing a record from the table and the cleared list keeps the law. -/
theorem AlertLaw.remove {as : List AlertRec} {cs : List Nat} (n : Nat) (h : AlertLaw as cs) :
    AlertLaw (as.filter fun r => decide (r.number ≠ n)) (without n cs) := by
  obtain ⟨hlen, hks, hnum, hcl, hst⟩ := h
  refine ⟨Nat.le_trans (List.length_filter_le _ _) hlen, hks.filter _, ?_, ?_,
    fun r hr => hst r (List.mem_filter.mp hr).1⟩
  · exact hnum.sublist (List.Sublist.map _ List.filter_sublist)
  · intro m hm
    simp only [without, List.mem_filter, decide_eq_true_eq] at hm
    obtain ⟨r, hr, e⟩ := hcl m hm.1
    exact ⟨r, List.mem_filter.mpr ⟨hr, by simpa [e] using hm.2⟩, e⟩

/-- The cleared list may change among the table's numbers. -/
theorem AlertLaw.recleared {as : List AlertRec} {cs ds : List Nat} (h : AlertLaw as cs)
    (hd : ∀ n ∈ ds, n ∈ cs ∨ ∃ r ∈ as, r.number = n) : AlertLaw as ds :=
  ⟨h.1, h.2.1, h.2.2.1, fun n hn => (hd n hn).elim (h.2.2.2.1 n) id, h.2.2.2.2⟩

theorem follows_modAlert (s : State) (n : Nat) (f : AlertRec → AlertRec)
    (hf : ∀ r, (f r).number = r.number ∧ (f r).kind = r.kind ∧ (f r).subject = r.subject)
    (hev : AlertLaw s.alerts s.cleared → ∀ r ∈ s.alerts, r.number = n → isCondition r.kind = false →
      r.state = .cleared → (f r).state = .cleared) :
    Follows s (s.modAlert n f) := by
  refine Follows.alerts s (s.alerts.map fun r => if r.number = n then f r else r) s.cleared s.alertCtr
    s.shopOut fun h => h.map _ ?_ ?_
  · intro r
    by_cases hr : r.number = n
    · simpa [hr] using hf r
    · simp [hr]
  · intro r hr hk hc
    by_cases hn : r.number = n
    · simpa [hn] using hev h r hr hn hk hc
    · simpa [hn] using hc

theorem follows_removeAlert (s : State) (n : Nat) : Follows s (s.removeAlert n) :=
  Follows.alerts s _ _ s.alertCtr s.shopOut fun h => h.remove n

/-- A number that the allocation gives is not in use. -/
theorem allocate_fresh {used : List Nat} {k c n : Nat} (h : allocate used k c = some n) : n ∉ used := by
  induction k generalizing c with
  | zero => cases h
  | succ k ih =>
    unfold allocate at h
    dsimp only at h
    split at h
    · exact ih h
    · rename_i hn
      cases h
      exact hn

/-- A number that the allocation gives lies in 1..65,535. -/
theorem allocate_range {used : List Nat} {k c n : Nat} (h : allocate used k c = some n) :
    1 ≤ n ∧ n ≤ 65535 := by
  induction k generalizing c with
  | zero => cases h
  | succ k ih =>
    unfold allocate at h
    dsimp only at h
    split at h
    · exact ih h
    · cases h
      unfold nextNumber
      split <;> omega

end Sys2Proof.Machine
end

