-- ==== Sys2Proof/Laws/AlertChanges.lean ====
section
/-! SUPPORT. The alert relay's operations are chains of changes (Laws/Follow.lean). -/

namespace Sys2Proof.Machine

/-- A new record of a kind and subject not held, with a fresh number, in a table with a free place. -/
theorem AlertLaw.make {as : List AlertRec} {cs : List Nat} (r : AlertRec) (clear : Bool) (h : AlertLaw as cs)
    (hlen : as.length < Config.alertRecords) (hks : ∀ q ∈ as, ¬(q.kind = r.kind ∧ q.subject = r.subject))
    (hnum : ∀ q ∈ as, q.number ≠ r.number) (hev : isCondition r.kind = false → r.state = .cleared) :
    AlertLaw (as ++ [r]) (if clear then cs else cs ++ [r.number]) := by
  refine ⟨by simpa using Nat.succ_le_of_lt hlen, ?_, ?_, ?_, ?_⟩
  · rw [List.pairwise_append]
    exact ⟨h.2.1, List.pairwise_singleton _ _, fun a ha b hb => by
      rw [List.mem_singleton.mp hb]
      exact hks a ha⟩
  · rw [List.map_append, List.nodup_append]
    refine ⟨h.2.2.1, by simp, ?_⟩
    intro a ha b hb
    obtain ⟨q, hq, rfl⟩ := List.mem_map.mp ha
    obtain rfl : b = r.number := by simpa using hb
    exact hnum q hq
  · intro n hn
    have : n ∈ cs ∨ n = r.number := by
      cases clear
      · simpa using hn
      · exact .inl (by simpa using hn)
    rcases this with hn | rfl
    · obtain ⟨q, hq, e⟩ := h.2.2.2.1 n hn
      exact ⟨q, List.mem_append_left _ hq, e⟩
    · exact ⟨r, by simp, rfl⟩
  · intro q hq hk
    rcases List.mem_append.mp hq with hq | hq
    · exact h.2.2.2.2 q hq hk
    · obtain rfl := List.mem_singleton.mp hq
      exact hev hk

/-- No record of the kind and subject is held when the lookup finds none. -/
theorem alertOf_none {s : State} {k : AlertKind} {subj : Subject} (h : s.alertOf k subj = none) :
    ∀ q ∈ s.alerts, ¬(q.kind = k ∧ q.subject = subj) := by
  intro q hq e
  have := List.find?_eq_none.mp h q hq
  simp [e.1, e.2] at this

/-- The record a lookup finds is in the table and has the kind and subject. -/
theorem alertOf_some {s : State} {k : AlertKind} {subj : Subject} {r : AlertRec}
    (h : s.alertOf k subj = some r) : r ∈ s.alerts ∧ r.kind = k ∧ r.subject = subj := by
  refine ⟨List.mem_of_find?_eq_some h, ?_⟩
  have := List.find?_some h
  simpa using this

theorem follows_makeAlert (s : State) (n : Nat) (k : AlertKind) (subj : Subject) (d : Detail)
    (hlen : AlertLaw s.alerts s.cleared → s.alerts.length < Config.alertRecords)
    (hks : ∀ q ∈ s.alerts, ¬(q.kind = k ∧ q.subject = subj))
    (hnum : n ∉ s.alerts.map fun r => r.number) : Follows s (s.makeAlert n k subj d) := by
  refine Follows.alerts s _ _ n _ fun h => ?_
  refine AlertLaw.make (newAlert s n k subj d) (isCondition k) h (hlen h) hks ?_ fun e => by simp_all [newAlert]
  intro q hq e
  exact hnum (List.mem_map.mpr ⟨q, hq, e⟩)

theorem follows_untrackedOpen (s : State) (k : AlertKind) (subj : Subject) (d : Detail) :
    Follows s (s.untrackedOpen k subj d) := follows_send s _

/-- A place found is the table itself with a free place, or the table without the evicted record. -/
theorem alertPlace_some {s t : State} (h : s.alertPlace = some t) :
    (t = s ∧ s.alerts.length < Config.alertRecords) ∨
      ∃ n, n ∈ s.cleared ∧ t = s.removeAlert n := by
  unfold State.alertPlace at h
  split at h
  · rename_i hl
    exact .inl ⟨by injection h with h; exact h.symm, hl⟩
  · split at h
    · cases h
    · rename_i n l hc
      exact .inr ⟨n, by rw [hc]; simp, by injection h with h; exact h.symm⟩

/-- Removing a record that the table holds frees a place. -/
theorem length_filter_lt {as : List AlertRec} {n : Nat} (h : ∃ r ∈ as, r.number = n) :
    (as.filter fun r => decide (r.number ≠ n)).length < as.length := by
  obtain ⟨r, hr, e⟩ := h
  refine List.length_filter_lt_length_iff_exists.mpr ⟨r, hr, by simp [e]⟩

theorem follows_openAlert (s : State) (k : AlertKind) (subj : Subject) (d : Detail) :
    Follows s (s.openAlert k subj d) := by
  unfold State.openAlert
  split
  · rename_i r hr
    have hm := (alertOf_some hr).1
    split
    · dsimp only
      refine Follows.trans ?_ (follows_send _ _)
      refine Follows.trans (follows_modAlert s r.number (reopened s d) (fun _ => ⟨rfl, rfl, rfl⟩) fun _ q _ _ hk _ => by
        simp [reopened, hk]) ?_
      refine Follows.alerts _ _ _ _ _ fun h => AlertLaw.recleared h ?_
      intro n hn
      have : n ∈ s.cleared ∨ n = r.number := by
        split at hn
        · exact .inl ((List.mem_filter.mp hn).1)
        · rcases List.mem_append.mp hn with hn | hn
          · exact .inl ((List.mem_filter.mp hn).1)
          · exact .inr (List.mem_singleton.mp hn)
      rcases this with hn | rfl
      · exact .inl (by simpa using hn)
      · exact .inr ⟨reopened s d r, List.mem_map.mpr ⟨r, hm, by simp⟩, rfl⟩
    · exact follows_modAlert s r.number _ (fun _ => ⟨rfl, rfl, rfl⟩) fun _ _ _ _ _ hc => hc
  · rename_i hno
    split
    · exact follows_untrackedOpen s k subj d
    · rename_i t ht
      have place := alertPlace_some ht
      have hst : Follows s t := by
        rcases place with ⟨rfl, _⟩ | ⟨n, _, rfl⟩
        · exact .refl _
        · exact follows_removeAlert s n
      split
      · rename_i n hn
        rcases place with ⟨rfl, hl⟩ | ⟨m, hm, rfl⟩
        · exact hst.trans (follows_makeAlert _ n k subj d (fun _ => hl) (alertOf_none hno) (allocate_fresh hn))
        · have hfresh := allocate_fresh hn
          refine Follows.alerts s _ _ n _ fun h => ?_
          refine AlertLaw.make (newAlert (s.removeAlert m) n k subj d) (isCondition k) (h.remove m) ?_ ?_ ?_ fun e => by
            simp_all [newAlert]
          · exact Nat.lt_of_lt_of_le (length_filter_lt (h.2.2.2.1 m hm)) h.1
          · intro q hq
            exact alertOf_none hno q ((List.mem_filter.mp hq).1)
          · intro q hq e
            exact hfresh (List.mem_map.mpr ⟨q, hq, e⟩)
      · exact hst.trans (follows_untrackedOpen _ k subj d)

theorem follows_clearAlert (s : State) (k : AlertKind) (subj : Subject) : Follows s (s.clearAlert k subj) := by
  unfold State.clearAlert
  split
  · rename_i r hr
    have hm := (alertOf_some hr).1
    split
    · dsimp only
      refine Follows.trans ?_ (follows_send _ _)
      refine Follows.trans (follows_modAlert s r.number (clearedRecord s) (fun _ => ⟨rfl, rfl, rfl⟩) fun _ _ _ _ _ _ => rfl) ?_
      refine Follows.alerts _ _ _ _ _ fun h => AlertLaw.recleared h ?_
      intro n hn
      rcases List.mem_append.mp hn with hn | hn
      · exact .inl (by simpa using (List.mem_filter.mp hn).1)
      · rw [List.mem_singleton.mp hn]
        exact .inr ⟨clearedRecord s r, List.mem_map.mpr ⟨r, hm, by simp⟩, rfl⟩
    · exact (follows_removeAlert s r.number).trans (follows_send _ _)
    · exact .refl s
  · exact follows_send s _

theorem follows_remind (s : State) (n : Nat) : Follows s (s.remind n) := by
  unfold State.remind
  split
  · split
    · exact (follows_modAlert s n (remindedRecord s) (fun _ => ⟨rfl, rfl, rfl⟩) fun _ _ _ _ _ hc => hc).trans (follows_send _ _)
    · exact .refl s
  · exact .refl s

end Sys2Proof.Machine
end

