-- ==== Sys2Proof/Laws/JobChanges.lean ====
section
/-! SUPPORT. The operations of the spool store, the job table and the meter unit are chains of changes (Laws/Follow.lean). -/

namespace Sys2Proof.Machine

/-! ### Spool store (chapter 1) -/

theorem follows_evalSpoolLow (s : State) : Follows s s.evalSpoolLow := by
  unfold State.evalSpoolLow
  split
  · exact (Follows.lists s true s.passesWanted s.waiting s.stores).trans (follows_openAlert _ _ _ _)
  · split
    · exact (Follows.lists s false s.passesWanted s.waiting s.stores).trans (follows_clearAlert _ _ _)
    · exact .refl s

/-- Blocks given back to the free list, with what they bring: the low marks see the change (R1, R2). -/
theorem follows_returned {s u : State} (bs : List Block) (h : Follows s { u with free := u.free ++ bs }) :
    Follows s (u.returnBlocks bs) := by
  unfold State.returnBlocks
  split
  · simpa using h
  · exact h.trans (follows_evalSpoolLow _)

/-- The open sheet is the last of the list. -/
theorem openSheet_some {x : Job} {h : Sheet} (e : openSheet x = some h) : x.sheets = x.sheets.dropLast ++ [h] := by
  unfold openSheet at e
  split at e
  · rename_i g hg
    split at e
    · cases e
      obtain ⟨l, hl⟩ := List.getLast?_eq_some_iff.mp hg
      simp [hl]
    · cases e
  · cases e

theorem follows_discardOpen (s : State) (j : Nat) : Follows s (s.discardOpen j) := by
  unfold State.discardOpen
  split
  · rename_i x hx
    split
    · rename_i h ho
      have hs := openSheet_some ho
      refine follows_returned _ (Change.sheets s j 1 h.chain (fun y => { y with sheets := y.sheets.dropLast })
        x hx ?_ (fun _ => rfl) ?_).follows
      · have := congrArg List.length hs
        simpa using this.symm
      · have : chainsOf x = chainsOf { x with sheets := x.sheets.dropLast } ++ [h.chain] := by
          simpa [chainsOf] using congrArg (List.map fun (g : Sheet) => g.chain) hs
        rw [this, List.flatten_append]
        simpa using List.perm_append_comm
    · exact .refl s
  · exact .refl s

theorem follows_discardOpenUnlessStoring (s : State) (j : Nat) :
    Follows s (s.discardOpenUnlessStoring j) := by
  unfold State.discardOpenUnlessStoring
  split
  · exact .refl s
  · exact follows_discardOpen s j

/-- A release parts a job's sheets into those that go and those that stay. -/
theorem released_kept (storing : Bool) (x : Job) :
    (releasedSheets storing x ++ keptSheets storing x).Perm x.sheets := by
  unfold keptSheets releasedSheets
  cases storing
  · simp
  · simp only [if_true]
    have := List.filter_append_perm (fun (h : Sheet) => decide (h.state = .complete)) x.sheets
    simpa using this

theorem follows_releaseStorage (s : State) (j : Nat) : Follows s (s.releaseStorage j) := by
  unfold State.releaseStorage
  split
  · rename_i x hx
    have hp := released_kept (s.storing j) x
    refine follows_returned _ (Change.sheets s j _ _ (fun y => { y with sheets := keptSheets (s.storing j) y })
      x hx ?_ (fun _ => rfl) ?_).follows
    · have := hp.length_eq
      simp only [List.length_append] at this
      simp only
      omega
    · have := (hp.map fun (h : Sheet) => h.chain).flatten
      simpa [chainsOf, List.flatMap] using this
  · exact .refl s

theorem follows_releaseIfKilled (s : State) (j : Nat) : Follows s (s.releaseIfKilled j) := by
  unfold State.releaseIfKilled
  split
  · split
    · exact follows_releaseStorage s j
    · exact .refl s
  · exact .refl s

/-- The job records are those of the state before: the alert and block operations leave them. -/
theorem openAlert_jobs (s : State) (k : AlertKind) (subj : Subject) (d : Detail) :
    (s.openAlert k subj d).jobs = s.jobs := by
  unfold State.openAlert
  split
  · split <;> simp
  · split
    · simp [State.untrackedOpen]
    · rename_i t ht
      have : t.jobs = s.jobs := by
        rcases alertPlace_some ht with ⟨rfl, _⟩ | ⟨n, _, rfl⟩
        · rfl
        · simp only [State.removeAlert]
      split
      · simpa only [State.makeAlert] using this
      · simpa [State.untrackedOpen] using this

theorem clearAlert_jobs (s : State) (k : AlertKind) (subj : Subject) :
    (s.clearAlert k subj).jobs = s.jobs := by
  unfold State.clearAlert
  split
  · split
    · simp
    · simp [State.removeAlert]
    · rfl
  · simp

theorem returnBlocks_jobs (s : State) (bs : List Block) : (s.returnBlocks bs).jobs = s.jobs := by
  unfold State.returnBlocks
  split
  · rfl
  · unfold State.evalSpoolLow
    split
    · rw [openAlert_jobs]
    · split
      · rw [clearAlert_jobs]
      · rfl

/-- After a release outside a store, the job has no sheet record. -/
theorem releaseStorage_sheets (s : State) (j : Nat) (hs : s.storing j = false) (x : Job)
    (hx : (s.releaseStorage j).job? j = some x) : x.sheets = [] := by
  unfold State.releaseStorage at hx
  split at hx
  · rename_i y hy
    simp only [State.job?, returnBlocks_jobs] at hx
    have := State.job_modJob_self { s with pool := s.pool + (releasedSheets (s.storing j) y).length } j
      (fun y => { y with sheets := keptSheets (s.storing j) y }) y hy fun _ => rfl
    simp only [State.job?] at this
    rw [this] at hx
    injection hx with hx
    rw [← hx, hs]
    rfl
  · rename_i hn
    rw [hn] at hx
    cases hx

theorem follows_purge (s : State) (j : Nat) : Follows s (s.purge j) := by
  unfold State.purge
  refine (Follows.lists s s.spoolLow s.passesWanted s.waiting _).trans
    ((follows_releaseStorage _ j).trans (Change.forget _ j fun x hx => ?_).follows)
  refine releaseStorage_sheets _ j ?_ x hx
  simp [State.storing]

/-- A change of one sheet record keeps the number of records. -/
theorem changeSheet_length (i : Nat) (f : Sheet → Sheet) (l : List Sheet) :
    (changeSheet i f l).length = l.length := by
  induction l with
  | nil => rfl
  | cons h l ih =>
    unfold changeSheet
    split
    · rfl
    · simp [ih]

/-- A change of one sheet record that keeps its chain keeps the chains. -/
theorem changeSheet_chains (i : Nat) (f : Sheet → Sheet) (hf : ∀ h, (f h).chain = h.chain) (l : List Sheet) :
    (changeSheet i f l).map (fun h => h.chain) = l.map fun h => h.chain := by
  induction l with
  | nil => rfl
  | cons h l ih =>
    unfold changeSheet
    split
    · simp [hf]
    · simp [ih]

/-- A change of one sheet record, found by its index, changes its chain and no other. -/
theorem changeSheet_split (i : Nat) (f : Sheet → Sheet) (x : Job) (h : Sheet) (e : sheetOf x i = some h) :
    ∃ a b, (chainsOf x).flatten = a ++ (h.chain ++ b) ∧
      (chainsOf (modSheet i f x)).flatten = a ++ ((f h).chain ++ b) := by
  unfold sheetOf at e
  unfold chainsOf modSheet
  dsimp only
  revert e
  induction x.sheets with
  | nil => intro e; cases e
  | cons g l ih =>
    intro e
    unfold changeSheet
    by_cases hg : g.index = i
    · simp only [hg, decide_true, List.find?_cons_of_pos, Option.some.injEq] at e
      subst e
      exact ⟨[], (l.map fun h => h.chain).flatten, by simp [hg]⟩
    · simp only [List.find?, hg, decide_false] at e
      obtain ⟨a, b, e1, e2⟩ := ih e
      exact ⟨g.chain ++ a, b, by simp [e1], by simp [hg, e2]⟩

theorem follows_modSheet (s : State) (j i : Nat) (f : Sheet → Sheet) (hf : ∀ h, (f h).chain = h.chain) :
    Follows s (s.modJob j (modSheet i f)) :=
  .job s j _ fun x => ⟨rfl, changeSheet_chains i f hf x.sheets⟩

theorem follows_freeSheetBlocks (s : State) (j i : Nat) : Follows s (s.freeSheetBlocks j i) := by
  unfold State.freeSheetBlocks
  split
  · rename_i x hx
    split
    · rename_i h hh
      refine follows_returned _ (Change.blocks s (s.free ++ h.chain) s.quarantine j
        (modSheet i fun y => { y with chain := [] }) x hx
        (fun y => ⟨rfl, changeSheet_length i _ y.sheets⟩) (fun h => h) fun _ => ?_).follows
      obtain ⟨a, b, e1, e2⟩ := changeSheet_split i (fun y => { y with chain := [] }) x h hh
      rw [e1, e2]
      refine List.Perm.append_right _ ?_
      rw [List.append_assoc]
      refine List.Perm.append_left _ ?_
      simpa using List.perm_append_comm_assoc h.chain a b
    · exact .refl s
  · exact .refl s

/-- Taking one block out of a chain without repeats. -/
theorem filter_out_perm {n : Block} {l : List Block} (hn : n ∈ l) (hd : l.Nodup) :
    (n :: l.filter fun m => decide (m ≠ n)).Perm l := by
  have h1 : (l.filter fun m => decide (m ≠ n)) = l.erase n := by
    rw [hd.erase_eq_filter]
    exact List.filter_congr fun m _ => by by_cases e : m = n <;> simp [e]
  rw [h1]
  exact (List.perm_cons_erase hn).symm

theorem follows_withdrawBlock (s : State) (j i : Nat) (n : Block) (h : s.inChain j i n = true) :
    Follows s (s.withdrawBlock j i n) := by
  unfold State.inChain at h
  split at h
  · rename_i x hx
    split at h
    · rename_i g hg
      have hn : n ∈ g.chain := by simpa using h
      obtain ⟨a, b, e1, e2⟩ := changeSheet_split i
        (fun h => { h with chain := h.chain.filter fun m => decide (m ≠ n) }) x g hg
      have key (fr q q' : List Block) (h1 : (fr ++ q').Perm (s.free ++ (n :: q))) (hq : q = s.quarantine)
          (hd : (s.free ++ (chainsOf x).flatten ++ s.quarantine).Nodup) :
          (fr ++ (chainsOf (modSheet i (fun h => { h with
            chain := h.chain.filter fun m => decide (m ≠ n) }) x)).flatten ++ q').Perm
            (s.free ++ (chainsOf x).flatten ++ s.quarantine) := by
        have hd2 : g.chain.Nodup := by
          rw [e1] at hd
          refine hd.sublist ?_
          refine ((List.sublist_append_left g.chain b).trans (List.sublist_append_right a _)).trans ?_
          exact (List.sublist_append_right s.free _).trans (List.sublist_append_left _ s.quarantine)
        have hc := filter_out_perm hn hd2
        rw [e1, e2, ← hq]
        rw [List.perm_iff_count] at *
        intro m
        have k1 := h1 m
        have k2 := hc m
        simp only [List.count_append, List.count_cons] at *
        omega
      have hl (y : Job) : (modSheet i (fun h => { h with
          chain := h.chain.filter fun m => decide (m ≠ n) }) y).number = y.number ∧
          (modSheet i (fun h => { h with
            chain := h.chain.filter fun m => decide (m ≠ n) }) y).sheets.length = y.sheets.length :=
        ⟨rfl, changeSheet_length i _ y.sheets⟩
      unfold State.withdrawBlock State.quarantineBlock
      split
      · rename_i hlen
        refine (Change.blocks s s.free (s.quarantine ++ [n]) j _ x hx hl (fun _ => ?_)
          (key s.free s.quarantine _ ?_ rfl)).follows
        · have : s.quarantine.length < Config.quarantineSize := hlen
          simpa using Nat.succ_le_of_lt this
        · exact List.Perm.append_left _ (List.perm_append_singleton n _)
      · split
        · rename_i hq
          have hq : s.quarantine = [] := hq
          refine (Change.blocks s s.free [n] j _ x hx hl (fun _ => by simp [Config.quarantineSize])
            (key s.free s.quarantine _ ?_ rfl)).follows
          rw [hq]
        · rename_i o rest hq
          have hq : s.quarantine = o :: rest := hq
          refine follows_returned _ (Change.blocks s (s.free ++ [o]) (rest ++ [n]) j _ x hx hl (fun h => ?_)
            (key (s.free ++ [o]) s.quarantine _ ?_ rfl)).follows
          · rw [QuarantineLaw, hq] at h
            simpa using h
          · rw [hq, List.append_assoc]
            refine List.Perm.append_left _ ?_
            exact (List.Perm.cons o (List.perm_append_singleton n _)).trans (List.Perm.swap n o rest)
    · cases h
  · cases h

/-! ### Lists and queues (chapters 2 and 3) -/

theorem follows_enterWaiting (s : State) (j : Nat) : Follows s (s.enterWaiting j) := by
  unfold State.enterWaiting
  dsimp only
  refine Follows.trans ?_ (Follows.lists _ _ _ _ _)
  refine Follows.job s j _ fun x => ?_
  unfold splitRule
  split <;> exact ⟨rfl, rfl⟩

theorem follows_leaveWaiting (s : State) (j : Nat) : Follows s (s.leaveWaiting j) :=
  Follows.lists s s.spoolLow s.passesWanted _ s.stores

theorem follows_joinQuota (s : State) (a : AccountNo) (j : Nat) : Follows s (s.joinQuota a j) :=
  .account s a _

theorem follows_leaveQuota (s : State) (a : AccountNo) (j : Nat) : Follows s (s.leaveQuota a j) := by
  unfold State.leaveQuota
  split
  · dsimp only
    split
    · exact (Follows.account s a _).trans (follows_clearAlert _ _ _)
    · exact Follows.account s a _
  · exact .refl s

theorem follows_rechoose (s : State) (p : LineNo) : Follows s (s.rechoose p) := by
  unfold State.rechoose
  dsimp only
  refine Follows.trans (t := { s with jobs := s.jobs.map (afterChoice (s.line p).queue (s.feedingChoice p)) })
    ?_ (Follows.lineSame _ p _ fun _ => ⟨rfl, rfl, rfl, rfl, rfl⟩)
  refine (Change.jobs s _ fun x => ?_).follows
  unfold afterChoice
  split
  · exact ⟨rfl, rfl⟩
  · split <;> exact ⟨rfl, rfl⟩

theorem follows_leaveQueue (s : State) (p : LineNo) (j : Nat) : Follows s (s.leaveQueue p j) := by
  unfold State.leaveQueue
  refine Follows.trans ?_ (follows_rechoose _ p)
  exact Follows.lineSame s p _ fun _ => ⟨rfl, rfl, rfl, rfl, rfl⟩

theorem follows_unqueue (s : State) (j : Nat) : Follows s (s.unqueue j) := by
  unfold State.unqueue
  split
  · split
    · refine Follows.trans ?_ (follows_leaveQueue _ _ j)
      exact Follows.job s j _ fun _ => ⟨rfl, rfl⟩
    · exact .refl s
  · exact .refl s

theorem follows_unbind (s : State) (p : LineNo) (j : Nat) : Follows s (s.unbind p j) := by
  unfold State.unbind
  split
  · exact .refl s
  · dsimp only
    have h : Follows s ((s.modLine p fun l => { l with queue := without j l.queue }).modJob j
        fun y => { y with bound := none }) := by
      refine Follows.trans (t := s.modLine p fun l => { l with queue := without j l.queue }) ?_ ?_
      · exact Follows.lineSame s p _ fun _ => ⟨rfl, rfl, rfl, rfl, rfl⟩
      · exact Follows.job _ j _ fun _ => ⟨rfl, rfl⟩
    split
    · refine h.trans ?_
      exact Follows.job _ j _ fun _ => ⟨rfl, rfl⟩
    · split
      · refine h.trans (Follows.trans ?_ (follows_enterWaiting _ j))
        exact Follows.job _ j _ fun _ => ⟨rfl, rfl⟩
      · exact h.trans (follows_enterWaiting _ j)

theorem follows_unbindAll (s : State) (p : LineNo) : Follows s (s.unbindAll p) :=
  (Follows.foldl _ (fun t j => follows_unbind t p j) _ s).trans (follows_rechoose _ p)

theorem follows_complete (s : State) (j : Nat) : Follows s (s.complete j) := by
  unfold State.complete
  split
  · exact .refl s
  · dsimp only
    have h (f : Job → Job) (hf : ∀ x, (f x).number = x.number ∧ chainsOf (f x) = chainsOf x)
        (a : AccountNo) : Follows s ((((s.unqueue j).leaveWaiting j).modJob j f).leaveQuota a j) :=
      ((follows_unqueue s j).trans (follows_leaveWaiting _ j)).trans
        ((Follows.job _ j f hf).trans (follows_leaveQuota _ a j))
    split
    · refine h _ ?_ _
      exact fun _ => ⟨rfl, rfl⟩
    · refine Follows.trans ?_ (follows_purge _ j)
      refine h _ ?_ _
      exact fun _ => ⟨rfl, rfl⟩

theorem follows_endLeaving (s : State) (j : Nat) : Follows s (s.endLeaving j) := by
  unfold State.endLeaving
  split
  · exact .refl s
  · split
    · split
      · exact follows_complete s j
      · split
        · exact (follows_unbind s _ j).trans (follows_rechoose _ _)
        · exact .refl s
    · exact .refl s

theorem follows_startLeaving (s : State) (j : Nat) (t : LeaveTarget) (r : Option HoldReason) :
    Follows s (s.startLeaving j t r) := by
  unfold State.startLeaving
  split
  · exact .refl s
  · dsimp only
    refine Follows.trans ?_ (follows_endLeaving _ j)
    split
    · refine Follows.trans ?_ (follows_rechoose _ _)
      exact Follows.job s j _ fun _ => ⟨rfl, rfl⟩
    · exact Follows.job s j _ fun _ => ⟨rfl, rfl⟩

theorem follows_kill (s : State) (j : Nat) (run : RunState) : Follows s (s.kill j run) := by
  unfold State.kill
  split
  · exact .refl s
  · dsimp only
    refine Follows.trans ?_ (follows_discardOpenUnlessStoring _ j)
    refine Follows.trans ?_ (follows_leaveQuota _ _ j)
    refine Follows.trans ?_ (follows_unqueue _ j)
    refine Follows.trans ?_ (follows_leaveWaiting _ j)
    exact Follows.job s j _ fun _ => ⟨rfl, rfl⟩

/-! ### Meters (chapter 7) -/

theorem follows_returnEntry (s : State) (e : Entry) : Follows s (s.returnEntry e) := by
  unfold State.returnEntry
  split
  · exact .account s _ _
  · exact .refl s

theorem follows_convertEntry (s : State) (p : LineNo) (e : Entry) : Follows s (s.convertEntry p e) := by
  unfold State.convertEntry
  split
  · dsimp only
    have h (a : AccountNo) (g : Account → Account) (f : Job → Job)
        (hf : ∀ x, (f x).number = x.number ∧ chainsOf (f x) = chainsOf x) :
        Follows s ((s.modAccount a g).modJob e.job f) :=
      (Follows.account s a g).trans (Follows.job _ e.job f hf)
    split
    · refine Follows.trans ?_ (Follows.meter _ p _)
      exact h _ _ _ fun _ => ⟨rfl, rfl⟩
    · exact h _ _ _ fun _ => ⟨rfl, rfl⟩
  · exact .refl s

theorem follows_retryJob (s : State) (j : Nat) : Follows s (s.retryJob j) := by
  unfold State.retryJob
  split
  · split
    · exact follows_enterWaiting s j
    · split
      · exact .job s j _ fun _ => ⟨rfl, rfl⟩
      · exact .refl s
  · exact .refl s

theorem follows_quotaRetry (s : State) (a : AccountNo) : Follows s (s.quotaRetry a) := by
  unfold State.quotaRetry
  split
  · exact .refl s
  · dsimp only
    exact (Follows.foldl _ follows_retryJob _ s).trans ((Follows.account _ a _).trans (follows_clearAlert _ _ _))

theorem follows_quotaRetries (before s : State) : Follows s (State.quotaRetries before s) :=
  Follows.foldl _ follows_quotaRetry _ s

end Sys2Proof.Machine
end

