-- ==== Sys2Proof/Laws/LineChanges.lean ====
section
/-! SUPPORT. The operations of the press lines, and the end of an event, are chains of changes (Laws/Follow.lean). -/

namespace Sys2Proof.Machine

theorem follows_clearStall (s : State) (p : LineNo) : Follows s (s.clearStall p) := by
  unfold State.clearStall
  split
  · refine Follows.trans ?_ (follows_clearAlert _ _ _)
    exact Follows.lineSame s p _ fun _ => ⟨rfl, rfl, rfl, rfl, rfl⟩
  · exact .refl s

theorem follows_listEmptied (s : State) (p : LineNo) : Follows s (s.listEmptied p) := by
  unfold State.listEmptied
  split
  · refine Follows.trans ?_ (follows_clearStall _ p)
    exact Follows.lineSame s p _ fun _ => ⟨rfl, rfl, rfl, rfl, rfl⟩
  · exact .refl s

theorem follows_enterBlocked (s : State) (p : LineNo) (o : BlockOrigin) : Follows s (s.enterBlocked p o) := by
  unfold State.enterBlocked
  refine Follows.trans ?_ (Follows.meter _ p _)
  exact Follows.lineSame s p _ fun _ => ⟨rfl, rfl, rfl, rfl, rfl⟩

theorem follows_enterWaking (s : State) (p : LineNo) (w : Bool) : Follows s (s.enterWaking p w) := by
  unfold State.enterWaking
  have h : Follows s (s.modLine p (wakingLine (s.rosterOf p) w)).wantPass := by
    refine Follows.trans ?_ (Follows.wanted _ _)
    exact Follows.lineSame s p _ fun _ => ⟨rfl, rfl, rfl, rfl, rfl⟩
  dsimp only
  split
  · exact h.trans (follows_enterBlocked _ p _)
  · exact h

theorem follows_enterReady (s : State) (p : LineNo) : Follows s (s.enterReady p) := by
  unfold State.enterReady
  refine Follows.trans ?_ (Follows.wanted _ _)
  exact Follows.lineSame s p _ fun _ => ⟨rfl, rfl, rfl, rfl, rfl⟩

theorem follows_enterStandby (s : State) (p : LineNo) : Follows s (s.enterStandby p) := by
  unfold State.enterStandby
  refine Follows.trans ?_ (Follows.wanted _ _)
  exact Follows.lineSame s p _ fun _ => ⟨rfl, rfl, rfl, rfl, rfl⟩

theorem follows_leaveBlocked (s : State) (p : LineNo) : Follows s (s.leaveBlocked p) := by
  unfold State.leaveBlocked
  dsimp only
  split
  · exact .refl s
  · have h : Follows s (s.modLine p fun l =>
        { l with moveDelay := .stopped, blockOrigin := none, flushedDuringBlock := false }) :=
      Follows.lineSame s p _ fun _ => ⟨rfl, rfl, rfl, rfl, rfl⟩
    split
    · exact h.trans (follows_enterWaking _ p _)
    · exact h.trans (follows_enterReady _ p)

theorem follows_dropCondition (s : State) (p : LineNo) (k : Condition) : Follows s (s.dropCondition p k) := by
  unfold State.dropCondition
  split
  · refine Follows.trans ?_ (follows_clearAlert _ _ _)
    exact Follows.lineSame s p _ fun _ => ⟨rfl, rfl, rfl, rfl, rfl⟩
  · exact .refl s

theorem follows_emptyConditions (s : State) (p : LineNo) : Follows s (s.emptyConditions p) := by
  unfold State.emptyConditions
  refine Follows.thenLine ?_ p _ fun _ => ⟨rfl, rfl, rfl, rfl, rfl⟩
  exact (follows_dropCondition s p _).trans ((follows_dropCondition _ p _).trans
    ((follows_dropCondition _ p _).trans (follows_dropCondition _ p _)))

/-- A discarded burst adds nothing to its FIFO. -/
theorem burstLoad_discard (b : Option Burst) : burstLoad (discardBurst b) = 0 := by
  cases b <;> rfl

theorem follows_requestFlush (s : State) (p : LineNo) (u : Purpose) : Follows s (s.requestFlush p u) := by
  unfold State.requestFlush
  split
  · exact .refl s
  · split
    · exact Follows.lineSame s p _ fun _ => ⟨rfl, rfl, rfl, rfl, rfl⟩
    · refine Follows.line s p _ ⟨.inl ⟨Nat.le_refl _, rfl⟩, .inl rfl, .inl ?_⟩
      simp only [lineLoad, flushStartLine, burstLoad_discard]
      exact Nat.zero_le _

theorem follows_discardEntries (s : State) (p : LineNo) (P : Entry → Bool) : Follows s (s.discardEntries p P) := by
  unfold State.discardEntries
  dsimp only
  refine Follows.trans ?_ (Follows.foldl _ follows_returnEntry _ _)
  exact Follows.lineSame s p _ fun _ => ⟨rfl, rfl, rfl, rfl, rfl⟩

theorem follows_rewind (p : LineNo) (s : State) (j : Nat) : Follows s (State.rewind p s j) := by
  unfold State.rewind
  dsimp only
  refine Follows.trans (t := (s.entriesOn p j).foldl State.returnEntry
    (s.modLine p fun l => { l with inflight := l.inflight.filter fun e => decide (e.job ≠ j) })) ?_ ?_
  · refine Follows.trans ?_ (Follows.foldl _ follows_returnEntry _ _)
    exact Follows.lineSame s p _ fun _ => ⟨rfl, rfl, rfl, rfl, rfl⟩
  · exact Follows.job _ j _ fun _ => ⟨rfl, rfl⟩

theorem follows_clearEntries (s : State) (p : LineNo) (P : Entry → Bool) : Follows s (s.clearEntries p P) := by
  unfold State.clearEntries
  dsimp only
  exact (follows_discardEntries s p P).trans
    ((Follows.foldl _ (fun t j => follows_rewind p t j) _ _).trans (follows_listEmptied _ p))

theorem follows_dropLine (s : State) (p : LineNo) : Follows s (s.dropLine p) := by
  unfold State.dropLine
  dsimp only
  refine Follows.trans ?_ (follows_emptyConditions _ p)
  refine Follows.thenLine ?_ p _ fun _ => ⟨rfl, rfl, rfl, rfl, rfl⟩
  refine Follows.trans ?_ (Follows.foldl _ follows_releaseIfKilled _ _)
  refine Follows.trans ?_ (follows_unbindAll _ p)
  refine Follows.trans ?_ (follows_clearEntries _ p _)
  refine Follows.line s p _ ⟨.inr (Nat.zero_le _), .inl rfl, .inl ?_⟩
  simp only [lineLoad, lossLine, burstLoad_discard]
  exact Nat.zero_le _

theorem follows_enterRetired (s : State) (p : LineNo) : Follows s (s.enterRetired p) := by
  unfold State.enterRetired
  dsimp only
  refine Follows.thenLine ?_ p _ fun _ => ⟨rfl, rfl, rfl, rfl, rfl⟩
  refine Follows.trans ?_ (follows_emptyConditions _ p)
  split
  · refine Follows.trans ?_ (follows_clearAlert _ _ _)
    exact Follows.thenLine (follows_unbindAll s p) p _ fun _ => ⟨rfl, rfl, rfl, rfl, rfl⟩
  · exact follows_unbindAll s p

theorem follows_downLine (s : State) (p : LineNo) (r : Bool) : Follows s (s.modLine p (downLine r)) :=
  Follows.lineSame _ p _ fun _ => ⟨rfl, rfl, rfl, rfl, rfl⟩

theorem follows_loseLine (s : State) (p : LineNo) (r : Bool) : Follows s (s.loseLine p r) := by
  unfold State.loseLine
  split
  · exact (follows_dropLine s p).trans (follows_enterRetired _ p)
  · refine Follows.trans ?_ (follows_openAlert _ _ _ _)
    exact Follows.thenLine (follows_dropLine s p) p _ fun _ => ⟨rfl, rfl, rfl, rfl, rfl⟩

/-- The pace a HELLO gives is the roster's, or lies in 100..60,000. -/
theorem helloPace_range (n r : Nat) : helloPace n r = r ∨ (100 ≤ helloPace n r ∧ helloPace n r ≤ 60000) := by
  unfold helloPace clamp
  split
  · exact .inl rfl
  · right
    split
    · omega
    · split <;> omega

theorem follows_linkUp (s : State) (p : LineNo) (a b c : BitVec 16) : Follows s (s.linkUp p a b c) := by
  unfold State.linkUp
  dsimp only
  have h : Follows s (s.modLine p (linkedLine (s.rosterOf p) a b c)) := by
    refine Follows.line s p _ ⟨.inr (Nat.le_refl _), ?_, .inl (Nat.le_refl _)⟩
    rcases helloPace_range b.toNat (s.rosterOf p).nominalPace with e | e
    · exact .inr (.inl e)
    · exact .inr (.inr (.inl e))
  refine Follows.trans ?_ (follows_enterWaking _ p _)
  split
  · refine Follows.trans ?_ (follows_clearAlert _ _ _)
    exact Follows.thenLine h p _ fun _ => ⟨rfl, rfl, rfl, rfl, rfl⟩
  · exact h

theorem follows_retireIfEmpty (s : State) (p : LineNo) : Follows s (s.retireIfEmpty p) := by
  unfold State.retireIfEmpty
  dsimp only
  split
  · exact follows_enterRetired s p
  · exact .refl s

theorem follows_bind (s : State) (j q : Nat) (p : LineNo) : Follows s (s.bind j q p) := by
  unfold State.bind
  dsimp only
  refine Follows.trans ?_ (follows_rechoose _ p)
  have h (f : Job → Job) (hf : ∀ x, (f x).number = x.number ∧ chainsOf (f x) = chainsOf x)
      (g : Line → Line) (hg : ∀ l, (g l).credits = l.credits ∧ (g l).capacity = l.capacity ∧
        (g l).pace = l.pace ∧ (g l).fifo = l.fifo ∧ (g l).burst = l.burst) :
      Follows s (((s.modJob j f).leaveWaiting j).modLine p g) :=
    ((Follows.job s j f hf).trans (follows_leaveWaiting _ j)).trans (Follows.lineSame _ p g hg)
  split
  · refine Follows.trans ?_ (follows_enterWaking _ p _)
    refine h _ ?_ _ ?_
    · exact fun _ => ⟨rfl, rfl⟩
    · exact fun _ => ⟨rfl, rfl, rfl, rfl, rfl⟩
  · refine h _ ?_ _ ?_
    · exact fun _ => ⟨rfl, rfl⟩
    · exact fun _ => ⟨rfl, rfl, rfl, rfl, rfl⟩

theorem follows_judge (s : State) (j : Nat) : Follows s (s.judge j) := by
  unfold State.judge
  split
  · exact .refl s
  · split
    · exact follows_bind s j _ _
    · exact Follows.job s j _ fun _ => ⟨rfl, rfl⟩

theorem follows_pass (s : State) : Follows s s.pass := by
  unfold State.pass
  exact (Follows.wanted s 0).trans ((Follows.foldl _ follows_judge _ _).trans (Follows.wanted _ _))

theorem follows_passes (n : Nat) (s : State) : Follows s (State.passes n s) := by
  induction n generalizing s with
  | zero => exact .refl s
  | succ n ih => exact (follows_pass s).trans (ih _)

theorem follows_moveJobOff (s : State) (j : Nat) : Follows s (s.moveJobOff j) := by
  unfold State.moveJobOff
  split
  · exact .refl s
  · split
    · exact .refl s
    · split
      · exact follows_startLeaving s j _ _
      · split
        · exact Follows.job s j _ fun _ => ⟨rfl, rfl⟩
        · exact .refl s

theorem follows_moveOff (s : State) (p : LineNo) : Follows s (s.moveOff p) := by
  unfold State.moveOff
  dsimp only
  have h : Follows s ((s.line p).queue.foldl State.moveJobOff
      (s.modLine p fun l => { l with moveDelay := .stopped })) := by
    refine Follows.trans ?_ (Follows.foldl _ follows_moveJobOff _ _)
    exact Follows.lineSame s p _ fun _ => ⟨rfl, rfl, rfl, rfl, rfl⟩
  split
  · exact h.trans (follows_requestFlush _ p _)
  · exact h

/-! ### The end of an event -/

theorem follows_refreshIdle (s : State) : Follows s s.refreshIdle := by
  unfold State.refreshIdle
  refine (Change.lines s _ fun p => ?_).follows
  unfold idleLine
  split
  · split <;> exact .same rfl rfl rfl rfl rfl
  · exact .same rfl rfl rfl rfl rfl

theorem follows_settleLoop (before : State) (n : Nat) (s : State) : Follows s (settleLoop before n s) := by
  induction n generalizing s with
  | zero => exact .refl s
  | succ n ih =>
    unfold settleLoop
    split
    · exact (Follows.wanted s 0).trans ((follows_passes _ _).trans (ih _))
    · split
      · exact (follows_moveOff s _).trans (ih _)
      · exact .refl s

theorem follows_settleEvent (before s : State) : Follows s (settleEvent before s) := by
  unfold settleEvent
  exact (follows_quotaRetries before s).trans ((follows_settleLoop before _ _).trans (follows_refreshIdle _))

/-! ### What a chain of changes leaves -/

/-- A chain of changes leaves everything outside the event machinery. -/
theorem Follows.outside {s t : State} (h : Follows s t) : sameOutside s t := by
  induction h with
  | refl => simp [sameOutside, sameTables]
  | step _ c ih => cases c <;> simpa [sameOutside, sameTables] using ih

/-- An event whose own changes raise no available amount and ask for no binding pass, and that starts no
move delay, ends with the idle timers alone. -/
theorem settleEvent_quiet {before s : State} (ha : s.accounts = before.accounts)
    (hp : s.passesWanted = 0) (hm : zeroMove before s = none) : settleEvent before s = s.refreshIdle := by
  have hr (l : List Account) (n : Nat) : risenAccounts l l n = [] := by
    induction l generalizing n with
    | nil => rfl
    | cons a l ih => simp [risenAccounts, ih]
  have hq : State.quotaRetries before s = s := by
    unfold State.quotaRetries
    rw [ha, hr]
    rfl
  unfold settleEvent
  rw [hq]
  unfold settleFuel settleLoop
  simp [hp, hm]

/-- No move delay is started by changes that leave the timer of every line. -/
theorem zeroMove_none {before s : State} (h : ∀ p, (s.line p).moveDelay = (before.line p).moveDelay) :
    zeroMove before s = none := by
  unfold zeroMove
  refine List.find?_eq_none.mpr fun p _ => ?_
  simp [h p]

end Sys2Proof.Machine
end

