-- ==== Sys2Proof/Laws/Memory.lean ====
section
/-! SUPPORT. The spool memory: a write keeps the canonical form, reads back, and leaves every other address; writing a segment keeps the form. -/

namespace Sys2Proof.Machine

/-- Every listed address of a memory is above `a`. -/
def Memory.above (a : Nat) (m : Memory) : Prop := ∀ c ∈ m, a < c.1

theorem Memory.wf_cons {a : Nat} {v : Byte} {m : Memory} :
    Memory.wf ((a, v) :: m) = true ↔ v ≠ Config.dramFill ∧ Memory.above a m ∧ Memory.wf m = true := by
  induction m generalizing a v with
  | nil => simp [Memory.wf, Memory.above]
  | cons c m ih =>
    obtain ⟨b, w⟩ := c
    have hd : Memory.wf ((a, v) :: (b, w) :: m) = true ↔
        v ≠ Config.dramFill ∧ a < b ∧ Memory.wf ((b, w) :: m) = true := by
      simp [Memory.wf, and_assoc]
    rw [hd]
    constructor
    · rintro ⟨hv, hab, hm⟩
      refine ⟨hv, ?_, hm⟩
      intro c hc
      rcases List.mem_cons.mp hc with rfl | hc
      · exact hab
      · exact Nat.lt_trans hab ((ih.mp hm).2.1 c hc)
    · rintro ⟨hv, hab, hm⟩
      exact ⟨hv, hab (b, w) List.mem_cons_self, hm⟩

theorem Memory.read_above {a b : Nat} {m : Memory} (h : Memory.above b m) (hab : a ≤ b) :
    Memory.read m a = Config.dramFill := by
  induction m with
  | nil => rfl
  | cons c m ih =>
    have hc : b < c.1 := h c List.mem_cons_self
    have : a ≠ c.1 := by omega
    simp only [Memory.read, this, if_false]
    exact ih fun d hd => h d (List.mem_cons_of_mem _ hd)

theorem Memory.above_write {b a : Nat} {v : Byte} {m : Memory} (h : Memory.above b m) (hba : b < a) :
    Memory.above b (m.write a v) := by
  induction m with
  | nil =>
    unfold Memory.write
    split
    · exact h
    · intro c hc
      rcases List.mem_singleton.mp hc with rfl
      exact hba
  | cons c m ih =>
    obtain ⟨d, w⟩ := c
    have hd : b < d := h (d, w) List.mem_cons_self
    have hm : Memory.above b m := fun e he => h e (List.mem_cons_of_mem _ he)
    have cons_above : ∀ (x : Nat) (u : Byte) (l : Memory), b < x → Memory.above b l →
        Memory.above b ((x, u) :: l) := by
      intro x u l hx hl e he
      rcases List.mem_cons.mp he with rfl | he
      · exact hx
      · exact hl e he
    simp only [Memory.write]
    split
    · split
      · exact h
      · exact cons_above _ _ _ hba h
    · split
      · split
        · exact hm
        · exact cons_above _ _ _ hba hm
      · exact cons_above _ _ _ hd (ih hm)

/-- A write keeps the canonical form. -/
theorem Memory.wf_write {m : Memory} (a : Nat) (v : Byte) (h : m.wf = true) : (m.write a v).wf = true := by
  induction m with
  | nil =>
    unfold Memory.write
    split
    · rfl
    · rename_i hv
      simpa [Memory.wf] using hv
  | cons c m ih =>
    obtain ⟨b, w⟩ := c
    have hw := Memory.wf_cons.mp h
    simp only [Memory.write]
    split
    · rename_i hab
      split
      · exact h
      · rename_i hv
        refine Memory.wf_cons.mpr ⟨hv, ?_, h⟩
        intro e he
        rcases List.mem_cons.mp he with rfl | he
        · exact hab
        · exact Nat.lt_trans hab (hw.2.1 e he)
    · split
      · rename_i hab
        subst hab
        split
        · exact hw.2.2
        · rename_i hv
          exact Memory.wf_cons.mpr ⟨hv, hw.2.1, hw.2.2⟩
      · rename_i hlt hne
        exact Memory.wf_cons.mpr ⟨hw.1, Memory.above_write hw.2.1 (by omega), ih hw.2.2⟩

/-- A byte just written reads back. -/
theorem Memory.read_write_self {m : Memory} (a : Nat) (v : Byte) (h : m.wf = true) :
    (m.write a v).read a = v := by
  induction m with
  | nil =>
    unfold Memory.write
    split
    · rename_i hv
      exact hv.symm
    · simp [Memory.read]
  | cons c m ih =>
    obtain ⟨b, w⟩ := c
    have hw := Memory.wf_cons.mp h
    simp only [Memory.write]
    split
    · rename_i hab
      split
      · rename_i hv
        have : a ≠ b := by omega
        simp only [Memory.read, this, if_false]
        rw [hv]
        exact Memory.read_above hw.2.1 (by omega)
      · simp [Memory.read]
    · split
      · rename_i hab
        subst hab
        split
        · rename_i hv
          rw [hv]
          exact Memory.read_above hw.2.1 (Nat.le_refl _)
        · simp [Memory.read]
      · rename_i hlt hne
        simp only [Memory.read, hne, if_false]
        exact ih hw.2.2

/-- Every other byte reads as before. -/
theorem Memory.read_write_ne {m : Memory} {a b : Nat} (v : Byte) (h : m.wf = true) (hb : b ≠ a) :
    (m.write a v).read b = m.read b := by
  induction m with
  | nil =>
    unfold Memory.write
    split
    · rfl
    · simp [Memory.read, hb]
  | cons c m ih =>
    obtain ⟨d, w⟩ := c
    have hw := Memory.wf_cons.mp h
    simp only [Memory.write]
    split
    · split
      · rfl
      · simp only [Memory.read, hb, if_false]
    · split
      · rename_i hab
        subst hab
        split
        · simp only [Memory.read, hb, if_false]
        · simp only [Memory.read, hb, if_false]
      · simp only [Memory.read]
        rw [ih hw.2.2]

/-- Writing a segment keeps the canonical form. -/
theorem writeChain_wf (chain : List Block) (bytes : List Byte) (k : Nat) (m : Memory) (h : m.wf = true) :
    (writeChain chain k bytes m).wf = true := by
  induction bytes generalizing k m with
  | nil => exact h
  | cons v vs ih =>
    unfold writeChain
    split
    · exact ih _ _ (Memory.wf_write _ _ h)
    · exact ih _ _ h

/-- Writing a segment leaves every byte that is not one of its own. -/
theorem writeChain_other (chain : List Block) (bytes : List Byte) (k : Nat) (m : Memory) (h : m.wf = true)
    (a : Nat) (ha : ∀ i, i < bytes.length → chainAddress chain (k + i) ≠ some a) :
    (writeChain chain k bytes m).read a = m.read a := by
  induction bytes generalizing k m with
  | nil => rfl
  | cons v vs ih =>
    have h0 : chainAddress chain k ≠ some a := by
      have := ha 0 (by simp)
      simpa using this
    have hs : ∀ i, i < vs.length → chainAddress chain (k + 1 + i) ≠ some a := by
      intro i hi
      have := ha (i + 1) (by simpa using hi)
      rwa [show k + (i + 1) = k + 1 + i by omega] at this
    unfold writeChain
    split
    · rename_i b hb
      rw [ih _ _ (Memory.wf_write _ _ h) hs]
      exact Memory.read_write_ne _ h fun e => h0 (by rw [hb, e])
    · exact ih _ _ h hs

theorem Memory.wf_reset : Memory.wf State.reset.dram = true := rfl

end Sys2Proof.Machine
end

