-- ==== Sys2Proof/Laws/Moves.lean ====
section
/-! SUPPORT. What a command can do, said once: every meaning is a chain of the few kinds of move below. -/

namespace Sys2Proof.Machine

/-- What a table write may do to a ROSTER row: the nominal pace and the threshold stay or take a value in range. -/
def RosterStep (r r' : Roster) : Prop :=
  (r'.nominalPace = r.nominalPace ∨ (100 ≤ r'.nominalPace ∧ r'.nominalPace ≤ 60000)) ∧
  (r'.threshold = r.threshold ∨ r'.threshold ≤ 768)

theorem RosterStep.refl (r : Roster) : RosterStep r r := ⟨.inl rfl, .inl rfl⟩

/-- One move of a command. -/
inductive Move : State → State → Prop
  | change {s t : State} (c : Change s t) : Move s t
  | take (s : State) (j : Nat) (h : Sheet) (x : Job) (hx : s.job? j = some x) (hp : s.pool ≠ 0)
      (hc : h.chain = []) : Move s (({ s with pool := s.pool - 1 }).modJob j fun y => { y with sheets := y.sheets ++ [h] })
  | enrol (s : State) (x : Job) (hs : x.sheets = []) (hlen : s.jobs.length < Config.jobRecords)
      (hfresh : x.number ∉ s.jobs.map fun y => y.number) (hrange : 1 ≤ x.number ∧ x.number ≤ 65535) :
      Move s { s with jobs := insertJob x s.jobs, jobCtr := x.number }
  | store (s : State) (chain : List Block) (k : Nat) (bytes : List Byte) :
      Move s { s with dram := writeChain chain k bytes s.dram }
  | outside (s : State) (st : PartState) (w : Option Window) (r : Option Snapshot) (h : List Held)
      (o : List (LineNo × LineFrame)) (e0 e1 : Option LineNo) (g : LineNo) (c : Nat) (q : List Instr) :
      Move s { s with live := st, window := w, readout := r, held := h, lineOut := o, engine0 := e0,
                      engine1 := e1, lastGranted := g, freeCtr := c, pending := q }
  | tables (s : State) (route : Vector RouteRow 32) (group : Vector GroupRow 8)
      (accounts : Vector Account 256) (rate : Vector (Vector Nat 4) 4) (media : Vector Nat 16)
      (tier : Vector TierRow 4) (pattern : Vector PatternRow 24) (roster : Vector Roster 16)
      (settings : Settings) (meters : Vector Meter 16)
      (h : ∀ p : LineNo, RosterStep (s.rosterOf p) roster[p]) :
      Move s { s with route := route, group := group, accounts := accounts, rate := rate, media := media,
                      tier := tier, pattern := pattern, roster := roster, settings := settings, meters := meters }
  | tick (s : State) : Move s s.tick
  | warm (s : State) : Move s s.warmReset
  | power (s : State) (straps : BitVec 4) : Move s (s.powerUp straps)

/-- A chain of moves. -/
inductive Moves : State → State → Prop
  | refl (s : State) : Moves s s
  | step {s t u : State} (h : Moves s t) (m : Move t u) : Moves s u

theorem Moves.trans {s t u : State} (h : Moves s t) (k : Moves t u) : Moves s u := by
  induction k with
  | refl => exact h
  | step _ m ih => exact .step ih m

theorem Move.moves {s t : State} (m : Move s t) : Moves s t := .step (.refl s) m

theorem Follows.moves {s t : State} (h : Follows s t) : Moves s t := by
  induction h with
  | refl => exact .refl _
  | step _ c ih => exact .step ih (.change c)

theorem Moves.foldl {β : Type} (f : State → β → State) (hf : ∀ s b, Moves s (f s b)) (l : List β) (s : State) :
    Moves s (l.foldl f s) := by
  induction l generalizing s with
  | nil => exact .refl s
  | cons b l ih => exact (hf s b).trans (ih _)

theorem Moves.outside (s : State) (st : PartState) (w : Option Window) (r : Option Snapshot) (h : List Held)
    (o : List (LineNo × LineFrame)) (e0 e1 : Option LineNo) (g : LineNo) (c : Nat) (q : List Instr) :
    Moves s { s with live := st, window := w, readout := r, held := h, lineOut := o, engine0 := e0,
                     engine1 := e1, lastGranted := g, freeCtr := c, pending := q } :=
  (Move.outside s st w r h o e0 e1 g c q).moves

theorem Moves.readout (s : State) (r : Option Snapshot) : Moves s { s with readout := r } :=
  Moves.outside s s.live s.window r s.held s.lineOut s.engine0 s.engine1 s.lastGranted s.freeCtr s.pending

theorem Moves.window (s : State) (w : Option Window) : Moves s { s with window := w } :=
  Moves.outside s s.live w s.readout s.held s.lineOut s.engine0 s.engine1 s.lastGranted s.freeCtr s.pending

theorem Moves.held (s : State) (h : List Held) : Moves s { s with held := h } :=
  Moves.outside s s.live s.window s.readout h s.lineOut s.engine0 s.engine1 s.lastGranted s.freeCtr s.pending

theorem Moves.line (s : State) (p : LineNo) (f : Line → Line)
    (h : LineStep (s.rosterOf p) (s.line p) (f (s.line p))) : Moves s (s.modLine p f) :=
  (Follows.line s p f h).moves

theorem moves_reply (s : State) (port : PortSettings) (f : ShopFrame) (j : Nat) (st : Status)
    (body : List Byte) : Moves s (s.reply port f j st body) := (follows_send s _).moves

theorem moves_withPort (s : State) (q : PortSettings) : Moves s (s.withPort q) :=
  (Move.tables s s.route s.group s.accounts s.rate s.media s.tier s.pattern s.roster
    { s.settings with port := q } s.meters fun _ => .refl _).moves

theorem moves_withAlertFields (s : State) (t : Settings) : Moves s (s.withAlertFields t) :=
  (Move.tables s s.route s.group s.accounts s.rate s.media s.tier s.pattern s.roster
    { s.settings with port := t.port, reminderInterval := t.reminderInterval } s.meters fun _ => .refl _).moves

theorem moves_settleEvent (before s : State) : Moves s (settleEvent before s) := (follows_settleEvent before s).moves

/-- A MANAGE request moves the state as its act does. -/
theorem moves_manage (b : Bool) (sizeOk : List Byte → Bool) (jobOf : List Byte → Nat)
    (act : List Byte → State → Outcome3) (hact : ∀ args s, Moves s (act args s).1) (f : ShopFrame) (s : State) :
    Moves s (manage b sizeOk jobOf act f s) := by
  unfold manage
  split
  · exact .refl s
  · split
    · exact moves_reply s _ f _ _ _
    · unfold manageEnd
      dsimp only
      refine Moves.trans ?_ (moves_reply _ _ f _ _ _)
      refine Moves.trans ?_ (moves_withPort _ _)
      refine Moves.trans ?_ (moves_settleEvent s _)
      exact (hact _ s).trans (moves_withPort _ _)

/-- A line event moves the state as its act does. -/
theorem moves_lineEvent (p : LineNo) (act : State → State) (hact : ∀ s, Moves s (act s)) (s : State) :
    Moves s (lineEvent p act s) := by
  unfold lineEvent
  split
  · exact .refl s
  · refine Moves.trans ?_ (moves_settleEvent s _)
    refine Moves.trans ?_ (hact _)
    exact (Follows.lineSame s p heard fun _ => ⟨rfl, rfl, rfl, rfl, rfl⟩).moves

/-- An expiry moves the state as its act does. -/
theorem moves_expiry (timer : Line → Timer) (p : LineNo) (act : State → State) (hact : ∀ s, Moves s (act s))
    (s : State) : Moves s (expiry timer p act s) := by
  unfold expiry
  split
  · exact (hact s).trans (moves_settleEvent s _)
  · exact .refl s

/-! ### Job frames -/

theorem moves_take (s : State) (j i : Nat) (x : Job) (hx : s.job? j = some x) (hp : s.pool ≠ 0) :
    Moves s (({ s with pool := s.pool - 1 }).modJob j fun y => { y with sheets := y.sheets ++ [freshSheet j i] }) :=
  (Move.take s j _ x hx hp rfl).moves

theorem follows_takeBlock (s : State) (j i : Nat) (need : Bool) (x : Job) (h : Sheet) (hx : s.job? j = some x)
    (hh : sheetOf x i = some h) : Follows s (s.takeBlock j i need) := by
  unfold State.takeBlock
  split
  · split
    · exact .refl s
    · rename_i c rest hfree
      refine Follows.trans ?_ (follows_evalSpoolLow _)
      refine (Change.blocks s rest s.quarantine j (modSheet i fun h => { h with chain := h.chain ++ [c] }) x hx (fun y => ⟨rfl, changeSheet_length i _ y.sheets⟩)
        (fun h => h) fun _ => ?_).follows
      obtain ⟨a, b, e1, e2⟩ := changeSheet_split i (fun h => { h with chain := h.chain ++ [c] }) x h hh
      rw [e1, e2, hfree]
      refine List.Perm.append_right _ ?_
      rw [List.perm_iff_count]
      intro m
      simp only [List.count_append, List.count_cons, List.count_nil]
      omega
  · exact .refl s

/-- The open sheet's index names a record. -/
theorem sheetOf_openIndex {x : Job} {i : Nat} (h : isOpenIndex x i = true) : ∃ g, sheetOf x i = some g := by
  unfold isOpenIndex at h
  split at h
  · rename_i g hg
    have hm : g ∈ x.sheets := by
      rw [openSheet_some hg]
      simp
    have hi : g.index = i := by simpa using h
    have : (x.sheets.find? fun g => decide (g.index = i)).isSome = true :=
      List.find?_isSome.mpr ⟨g, hm, by simpa using hi⟩
    exact Option.isSome_iff_exists.mp this
  · cases h

/-- A record appended to a list is found by its index. -/
theorem sheetOf_append (x : Job) (h : Sheet) : ∃ g, sheetOf { x with sheets := x.sheets ++ [h] } h.index = some g := by
  have : ((x.sheets ++ [h]).find? fun g => decide (g.index = h.index)).isSome = true :=
    List.find?_isSome.mpr ⟨h, by simp, by simp⟩
  exact Option.isSome_iff_exists.mp this

theorem moves_beginStore (s : State) (x : Job) (i o : Nat) (opens need : Bool) (f : ShopFrame)
    (bytes : List Byte) (L : Nat) (hx : s.job? x.number = some x) (hp : opens = true → s.pool ≠ 0)
    (ho : opens = false → isOpenIndex x i = true) : Moves s (s.beginStore x i o opens need f bytes L) := by
  unfold State.beginStore
  dsimp only
  refine Moves.trans ?_ (Follows.lists _ _ _ _ _).moves
  refine Moves.trans ?_ (follows_modSheet _ x.number i
    (fun h => { h with received := o + bytes.length }) fun _ => rfl).moves
  cases opens with
  | false =>
    obtain ⟨g, hg⟩ := sheetOf_openIndex (ho rfl)
    exact (follows_takeBlock s _ i need x g hx hg).moves
  | true =>
    refine (moves_take s x.number i x hx (hp rfl)).trans ?_
    obtain ⟨g, hg⟩ := sheetOf_append x (freshSheet x.number i)
    refine (follows_takeBlock _ _ i need _ g ?_ hg).moves
    exact State.job_modJob_self { s with pool := s.pool - 1 } x.number
      (fun y => { y with sheets := y.sheets ++ [freshSheet x.number i] }) x hx fun _ => rfl

/-- The record of a lookup has the number looked up. -/
theorem job_number {s : State} {j : Nat} {x : Job} (h : s.job? j = some x) : x.number = j := by
  have := List.find?_some h
  simpa using this

theorem moves_sheetDataFrame (s : State) (f : ShopFrame) : Moves s (s.sheetDataFrame f).1 := by
  unfold State.sheetDataFrame
  dsimp only
  split
  · exact .refl s
  · rename_i x hx
    generalize (if opensAt x f.sheet.toNat = true then 0 else s.receivedOf f.job.toNat f.sheet.toNat) = L
    split
    · exact .refl s
    · split
      · exact .refl s
      · rename_i hindex
        split
        · exact .refl s
        · split
          · exact .refl s
          · split
            · exact (follows_discardOpen s _).moves
            · split
              · exact .refl s
              · split
                · exact .refl s
                · rename_i hpool
                  refine moves_beginStore s x _ _ _ _ f _ _ (by rw [job_number hx]; exact hx) ?_ ?_
                  · intro ho hp
                    simp [ho, hp] at hpool
                  · intro ho
                    simpa [ho] using hindex

theorem moves_completeSheet (s : State) (j i : Nat) (opens : Bool) (b : List Byte) (x : Job)
    (hx : s.job? j = some x) (hp : opens = true → s.pool ≠ 0) : Moves s (s.completeSheet j i opens b) := by
  unfold State.completeSheet
  dsimp only
  have h : Moves s (if opens = true then
      ({ s with pool := s.pool - 1 }).modJob j fun y => { y with sheets := y.sheets ++ [freshSheet j i] }
      else s) := by
    split
    · rename_i ho
      exact moves_take s j _ x hx (hp ho)
    · exact .refl s
  revert h
  generalize (if opens = true then
      ({ s with pool := s.pool - 1 }).modJob j fun y => { y with sheets := y.sheets ++ [freshSheet j i] }
      else s) = s1
  intro h
  have h2 := h.trans (follows_modSheet s1 j i (completedSheet b) fun _ => rfl).moves
  split
  · exact h2.trans (follows_enterWaiting _ j).moves
  · exact h2

theorem moves_sheetEndFrame (s : State) (f : ShopFrame) : Moves s (s.sheetEndFrame f).1 := by
  unfold State.sheetEndFrame
  dsimp only
  split
  · exact .refl s
  · rename_i x hx
    generalize (if opensAt x f.sheet.toNat = true then 0 else s.receivedOf f.job.toNat f.sheet.toNat) = L
    split
    · exact .refl s
    · split
      · exact .refl s
      · split
        · exact .refl s
        · split
          · show Moves s (if opensAt x f.sheet.toNat = true then s else s.discardOpen f.job.toNat)
            split
            · exact .refl s
            · exact (follows_discardOpen s _).moves
          · split
            · exact .refl s
            · rename_i hpool
              refine moves_completeSheet s _ _ _ _ x hx ?_
              intro ho hp
              simp [ho, hp] at hpool

theorem follows_afterClose (s : State) (j : Nat) : Follows s (s.afterClose j) := by
  unfold State.afterClose
  split
  · exact .refl s
  · split
    · exact follows_complete s j
    · split
      · exact follows_complete s j
      · split
        · split
          · refine Follows.trans ?_ (follows_rechoose _ _)
            exact Follows.job s j _ fun _ => ⟨rfl, rfl⟩
          · exact .refl s
        · exact .refl s

theorem follows_jobCloseFrame (s : State) (f : ShopFrame) : Follows s (s.jobCloseFrame f).1 := by
  unfold State.jobCloseFrame
  dsimp only
  split
  · exact .refl s
  · split
    · exact .refl s
    · split
      · exact .refl s
      · refine Follows.trans ?_ (follows_afterClose _ _)
        refine Follows.trans (t := s.discardOpen f.job.toNat) (follows_discardOpen s _) ?_
        exact Follows.job _ _ _ fun _ => ⟨rfl, rfl⟩

theorem follows_cancelLive (s : State) (j : Nat) : Follows s (s.cancelLive j) := by
  unfold State.cancelLive
  dsimp only
  split
  · exact (follows_kill s j _).trans (follows_requestFlush _ _ _)
  · exact (follows_kill s j _).trans (follows_releaseStorage _ j)

theorem follows_cancel (s : State) (x : Job) : Follows s (s.cancel x).1 := by
  unfold State.cancel
  split
  · exact .refl s
  · split
    · exact .refl s
    · exact follows_cancelLive s _

theorem moves_jobFrame (s : State) (k : JobFrame) (f : ShopFrame) : Moves s (s.jobFrame k f).1 := by
  unfold State.jobFrame
  split
  · exact moves_sheetDataFrame s f
  · exact moves_sheetEndFrame s f
  · exact (follows_jobCloseFrame s f).moves
  · unfold State.jobCancelFrame
    split
    · exact .refl s
    · split
      · exact .refl s
      · exact (follows_cancel s _).moves

theorem moves_answerJob (s : State) (port : PortSettings) (f : ShopFrame) (st : Status) (body : List Byte) :
    Moves s (s.answerJob port f st body) := by
  unfold State.answerJob
  split
  · exact Moves.held s _
  · exact moves_reply s port f _ st body

theorem moves_doJobFrame (s : State) (k : JobFrame) (f : ShopFrame) : Moves s (s.doJobFrame k f) := by
  unfold State.doJobFrame
  dsimp only
  have h : Moves s (settleEvent s (s.jobFrame k f).1) := (moves_jobFrame s k f).trans (moves_settleEvent s _)
  split
  · exact h.trans (moves_answerJob _ _ f _ _)
  · exact h

theorem moves_takeJobFrame (k : JobFrame) (f : ShopFrame) (s : State) : Moves s (takeJobFrame k f s) := by
  unfold takeJobFrame
  split
  · exact .refl s
  · split
    · exact moves_answerJob s _ f _ _
    · split
      · exact Moves.held s _
      · exact moves_doJobFrame s k f

theorem moves_enrol (s : State) (src : Station) (o : OpenFields) : Moves s (s.enrol src o).1 := by
  unfold State.enrol
  split
  · exact .refl s
  · split
    · exact .refl s
    · rename_i r hr
      split
      · rename_i hl
        split
        · rename_i n hn
          exact (Move.enrol s (newJob n src o r) rfl hl (allocate_fresh hn) (allocate_range hn)).moves
        · exact .refl s
      · exact .refl s

theorem moves_takeJobOpen (f : ShopFrame) (s : State) : Moves s (takeJobOpen f s) := by
  unfold takeJobOpen
  split
  · exact .refl s
  · split
    · exact moves_reply s _ f _ _ _
    · exact ((moves_enrol s _ _).trans (moves_settleEvent s _)).trans (moves_reply _ _ f _ _ _)

theorem moves_takeHeld (s : State) (h : Held) : Moves s (s.takeHeld h) := by
  unfold State.takeHeld
  split
  · split
    · exact Moves.held s _
    · exact moves_reply s _ _ _ _ _
  · split
    · exact Moves.held s _
    · exact moves_doJobFrame s _ _

theorem moves_afterStore (s : State) (t : Store) : Moves s (s.afterStore t) := by
  unfold State.afterStore
  split
  · dsimp only
    split
    · split
      · exact ((follows_discardOpen _ _).trans (follows_purge _ _)).moves
      · exact (follows_purge _ _).moves
    · split
      · exact (follows_discardOpen _ _).moves
      · exact .refl _
  · exact .refl _

theorem moves_storeEnd (j : Nat) (s : State) : Moves s (storeEnd j s) := by
  unfold storeEnd
  split
  · exact .refl s
  · rename_i t ht
    dsimp only
    refine Moves.trans ?_ (Moves.foldl _ moves_takeHeld _ _)
    refine Moves.trans ?_ (Moves.held _ _)
    refine Moves.trans ?_ (moves_settleEvent _ _)
    refine Moves.trans ?_ (moves_afterStore _ t)
    refine Moves.trans ?_ (moves_reply _ _ _ _ _ _)
    refine Moves.trans ?_ (Follows.lists (s.writeStore t) (s.writeStore t).spoolLow (s.writeStore t).passesWanted
      (s.writeStore t).waiting _).moves
    unfold State.writeStore
    split
    · split
      · exact (Move.store s _ _ _).moves
      · exact .refl s
    · exact .refl s

end Sys2Proof.Machine
end

