-- ==== Sys2Proof/Laws/ExecMoves.lean ====
section
/-! SUPPORT. Every meaning, and every step, is a chain of the moves of Laws/Moves.lean: an invariant is proved once for each kind of move. -/

namespace Sys2Proof.Machine

/-! ### Tables, the window and the readout -/

theorem RosterStep.trans {a b c : Roster} (h : RosterStep a b) (k : RosterStep b c) : RosterStep a c := by
  obtain ⟨h1, h2⟩ := h
  obtain ⟨k1, k2⟩ := k
  exact ⟨k1.elim (fun e => e ▸ h1) .inr, k2.elim (fun e => e ▸ h2) .inr⟩

/-- A table write that leaves the ROSTER. -/
theorem Moves.cells (s : State) (route : Vector RouteRow 32) (group : Vector GroupRow 8)
    (accounts : Vector Account 256) (rate : Vector (Vector Nat 4) 4) (media : Vector Nat 16)
    (tier : Vector TierRow 4) (pattern : Vector PatternRow 24) (settings : Settings) (meters : Vector Meter 16) :
    Moves s { s with route := route, group := group, accounts := accounts, rate := rate, media := media,
                     tier := tier, pattern := pattern, settings := settings, meters := meters } :=
  (Move.tables s route group accounts rate media tier pattern s.roster settings meters fun _ => .refl _).moves

/-- A table write to one ROSTER row. -/
theorem Moves.rosterRow (s : State) (r : Nat) (x : Roster) (h : r < 16)
    (hx : RosterStep (s.rosterOf ⟨r, h⟩) x) : Moves s { s with roster := s.roster.set r x h } := by
  refine (Move.tables s s.route s.group s.accounts s.rate s.media s.tier s.pattern (s.roster.set r x h) s.settings
    s.meters ?_).moves
  intro p
  by_cases e : r = p.val
  · subst e
    simpa using hx
  · have : (s.roster.set r x h)[p] = s.roster[p] := by
      rw [Fin.getElem_fin, Fin.getElem_fin]
      exact Vector.getElem_set_ne h p.isLt e
    rw [this]
    exact .refl _

theorem clamp_range {lo hi : Nat} (v : Nat) (h : lo ≤ hi) : lo ≤ clamp lo hi v ∧ clamp lo hi v ≤ hi := by
  unfold clamp
  split
  · exact ⟨Nat.le_refl _, h⟩
  · split <;> omega

theorem rosterStep_put {x : Roster} {c v : Nat} {y : Roster × Bool} (h : putRoster x c v = some y) :
    RosterStep x y.1 := by
  unfold putRoster at h
  split at h <;> simp only [fit, Option.some.injEq, reduceCtorEq] at h <;> subst h <;>
    simp only [RosterStep, true_or, and_self, true_and, and_true]
  · exact .inr (clamp_range v (by decide))
  · exact .inr (clamp_range v (by decide)).2

theorem moves_writeCell {s t : State} {w : Table} {r c v : Nat} {b : Bool} (h : s.writeCell w r c v = some (t, b)) :
    Moves s t := by
  unfold State.writeCell at h
  split at h
  case h_8 =>
    split at h
    · rename_i hr
      split at h
      · cases hp : putRoster (s.rosterOf ⟨r, hr⟩) c v with
        | none => simp [hp] at h
        | some y =>
          simp only [hp, Option.map_some, Option.some.injEq, Prod.mk.injEq] at h
          obtain ⟨h, -⟩ := h
          subst h
          exact Moves.rosterRow s r y.1 hr (rosterStep_put hp)
      · cases h
    · cases h
  case h_10 => cases h
  case h_5 =>
    simp only [fit, Option.some.injEq, Prod.mk.injEq] at h
    obtain ⟨h, -⟩ := h
    subst h
    exact Moves.cells s _ _ _ _ _ _ _ _ _
  case h_9 =>
    simp only [Option.map_eq_some_iff] at h
    obtain ⟨y, -, h⟩ := h
    injection h with h
    subst h
    exact Moves.cells s _ _ _ _ _ _ _ _ _
  case h_4 =>
    simp only [Option.bind_eq_some_iff, fit, Option.some.injEq, Prod.mk.injEq] at h
    obtain ⟨x, -, h, -⟩ := h
    subst h
    exact Moves.cells s _ _ _ _ _ _ _ _ _
  all_goals
    simp only [Option.bind_eq_some_iff, Option.map_eq_some_iff] at h
    obtain ⟨x, -, y, -, h⟩ := h
    injection h with h
    subst h
    exact Moves.cells s _ _ _ _ _ _ _ _ _

theorem moves_takeValue (w : Window) (k : WriteRun) (v : Nat) : Moves k.state (takeValue w k v).state := by
  unfold takeValue
  split
  · exact .refl _
  · split
    · exact .refl _
    · rename_i h
      exact moves_writeCell h

theorem moves_takeValues (w : Window) (values : List Nat) (k : WriteRun) :
    Moves k.state (values.foldl (takeValue w) k).state := by
  induction values generalizing k with
  | nil => exact .refl _
  | cons v vs ih => exact (moves_takeValue w k v).trans (ih _)

theorem moves_adjustGroups (before : State) (rows : List Nat) (s : State) : Moves s (adjustGroups before rows s) := by
  unfold adjustGroups
  dsimp only
  have h : Moves s (rows.foldl (fun s' r => match s'.group[r]? with
      | some g => { s' with group := s'.group.setIfInBounds r (normaliseGroup g) }
      | none => s') s) := by
    refine Moves.foldl _ ?_ rows s
    intro s r
    split
    · exact Moves.cells s _ _ _ _ _ _ _ _ _
    · exact .refl s
  exact h.trans (Follows.wanted _ _).moves

theorem moves_foldPair {β : Type} (f : State × Nat → β → State × Nat) (hf : ∀ q b, Moves q.1 (f q b).1) (l : List β)
    (q : State × Nat) : Moves q.1 (l.foldl f q).1 := by
  induction l generalizing q with
  | nil => exact .refl _
  | cons b l ih => exact (hf q b).trans (ih _)

theorem moves_adjustRoster (cells : List (Nat × Nat)) (rows : List Nat) (s : State) :
    Moves s (adjustRoster cells rows s).1 := by
  unfold adjustRoster
  refine moves_foldPair _ ?_ rows (s, 0)
  intro q r
  dsimp only
  split
  · rename_i x hx
    split
    · have hr : r < 16 := by
        by_cases h : r < 16
        · exact h
        · simp [h] at hx
      have e : q.1.roster.setIfInBounds r (raiseWakeLimit x) = q.1.roster.set r (raiseWakeLimit x) hr := by
        ext i hi
        simp [Vector.getElem_setIfInBounds, Vector.getElem_set]
      simp only [e]
      refine Moves.rosterRow q.1 r _ hr ?_
      have hx' : q.1.rosterOf ⟨r, hr⟩ = x := by
        have := Vector.getElem?_eq_getElem (xs := q.1.roster) hr
        rw [this] at hx
        injection hx
      rw [hx']
      unfold raiseWakeLimit
      split <;> exact ⟨.inl rfl, .inl rfl⟩
    · exact .refl _
  · exact .refl _

theorem moves_adjustAccounts (rows : List Nat) (s : State) : Moves s (adjustAccounts rows s).1 := by
  unfold adjustAccounts
  refine moves_foldPair _ ?_ rows (s, 0)
  intro q r
  dsimp only
  split
  · split
    · exact .refl _
    · exact Moves.cells q.1 _ _ _ _ _ _ _ _ _
  · exact .refl _

theorem moves_endAdjust (before : State) (t : Table) (cells : List (Nat × Nat)) (s : State) :
    Moves s (endAdjust before t cells s).1 := by
  unfold endAdjust
  dsimp only
  split
  · exact moves_adjustGroups before _ s
  · exact moves_adjustRoster cells _ s
  · have h : Moves s (adjustSettings cells s).1 := Moves.cells s _ _ _ _ _ _ _ _ _
    split
    · refine h.trans ?_
      exact ((moves_withAlertFields _ _).trans (follows_evalSpoolLow _).moves).trans
        (moves_withAlertFields _ _)
    · exact h
  · exact moves_adjustAccounts _ s
  all_goals exact .refl s

theorem moves_tableWriteAct (fromStart : Bool) (args : List Byte) (s : State) :
    Moves s (tableWriteAct fromStart args s).1 := by
  unfold tableWriteAct
  split
  · exact .refl s
  · rename_i w _
    exact ((moves_takeValues w _ ⟨s, _, _, _, _, _, _⟩).trans (moves_endAdjust s _ _ _)).trans (Moves.window _ _)

theorem moves_tableReadAct (fromStart : Bool) (args : List Byte) (s : State) :
    Moves s (tableReadAct fromStart args s).1 := by
  unfold tableReadAct
  split
  · exact .refl s
  · exact Moves.window s _

theorem moves_tableWindowAct (args : List Byte) (s : State) : Moves s (tableWindowAct args s).1 := by
  unfold tableWindowAct
  split
  · exact .refl s
  · dsimp only
    split
    · exact .refl s
    · exact Moves.window s _

theorem moves_goLiveAct (args : List Byte) (s : State) : Moves s (goLiveAct args s).1 := by
  unfold goLiveAct
  split
  · exact .refl s
  · refine Moves.trans (Moves.outside s .live s.window s.readout s.held s.lineOut s.engine0 s.engine1 s.lastGranted
      s.freeCtr s.pending) ?_
    refine (Change.lines _ _ fun p => ?_).follows.moves
    unfold resyncLine
    split <;> exact .same rfl rfl rfl rfl rfl

theorem moves_readStatusAct (args : List Byte) (s : State) : Moves s (readStatusAct args s).1 := by
  unfold readStatusAct
  dsimp only
  split
  · exact .refl s
  · split <;> exact .refl s
  · split <;> exact .refl s
  · exact .refl s

/-! ### Accounts, meters, jobs, printers, alerts -/

theorem moves_adjustLimitAct (args : List Byte) (s : State) : Moves s (adjustLimitAct args s).1 := by
  unfold adjustLimitAct
  split
  · exact .refl s
  · dsimp only
    exact (Follows.account s _ _).moves

theorem moves_closeAll (s : State) : Moves s s.closeAll := Moves.cells s _ _ _ _ _ _ _ _ _

theorem moves_closePeriodAct (args : List Byte) (s : State) : Moves s (closePeriodAct args s).1 := by
  unfold closePeriodAct
  split
  · exact moves_closeAll s
  · split
    · exact .refl s
    · exact (Follows.account s _ _).moves

theorem moves_sendPart (s : State) (n : Snapshot) (k : Nat) : Moves s (s.sendPart n k).1 := by
  unfold State.sendPart
  split <;> exact Moves.readout s _

theorem moves_readMetersStartAct (args : List Byte) (s : State) : Moves s (readMetersStartAct args s).1 := by
  unfold readMetersStartAct
  split
  · exact .refl s
  · dsimp only
    refine Moves.trans ?_ (moves_sendPart _ _ _)
    split
    · unfold State.closeScope
      split
      · exact moves_closeAll s
      · exact Moves.cells s _ _ _ _ _ _ _ _ _
    · exact .refl s

theorem moves_readMetersNextAct (args : List Byte) (s : State) : Moves s (readMetersNextAct args s).1 := by
  unfold readMetersNextAct
  split
  · exact .refl s
  · exact moves_sendPart s _ _

theorem moves_onJob (act : State → Job → State × Status) (hact : ∀ s x, Follows s (act s x).1) (args : List Byte)
    (s : State) : Moves s (onJob act args s).1 := by
  unfold onJob
  split
  · exact .refl s
  · exact (hact s _).moves

theorem follows_holdAct (s : State) (x : Job) : Follows s (holdAct s x).1 := by
  have w : Follows s (s.holdWaiting x.number) := by
    unfold State.holdWaiting
    refine Follows.trans (follows_leaveWaiting s _) (Follows.job _ _ _ fun _ => ?_)
    exact ⟨rfl, rfl⟩
  have o : Follows s (s.holdOperator x) := by
    unfold State.holdOperator
    refine Follows.trans ?_ (follows_leaveQuota _ _ _)
    exact Follows.job s _ _ fun _ => ⟨rfl, rfl⟩
  have oif : Follows s (if x.holdReason = some .quota then s.holdOperator x else s) := by
    split
    · exact o
    · exact .refl s
  unfold holdAct
  split
  · exact w
  · exact w
  · exact follows_startLeaving s _ _ _
  · exact follows_startLeaving s _ _ _
  · exact follows_startLeaving s _ _ _
  · split
    · exact oif
    · exact Follows.job s _ _ fun _ => ⟨rfl, rfl⟩
  · exact oif
  all_goals exact .refl s

theorem follows_releaseAct (s : State) (x : Job) : Follows s (releaseAct s x).1 := by
  unfold releaseAct
  split
  · dsimp only
    split
    · exact (follows_leaveQuota s _ _).trans (Follows.job _ _ _ fun _ => ⟨rfl, rfl⟩)
    · exact (follows_leaveQuota s _ _).trans (follows_enterWaiting _ _)
  · split
    · exact (follows_leaveQuota s _ _).trans (Follows.job _ _ _ fun _ => ⟨rfl, rfl⟩)
    · exact .refl s
  all_goals exact .refl s

theorem follows_purgeAct (s : State) (x : Job) : Follows s (purgeAct s x).1 := by
  unfold purgeAct
  split
  · exact .refl s
  · split
    · exact .refl s
    · split
      · exact Follows.lists s s.spoolLow s.passesWanted s.waiting _
      · exact follows_purge s _

theorem follows_reprintAct (n : Nat) (s : State) (x : Job) : Follows s (reprintAct n s x).1 := by
  unfold reprintAct
  split
  · refine Follows.trans ?_ (follows_enterWaiting _ _)
    exact Follows.job s _ _ fun _ => ⟨rfl, rfl⟩
  · exact .refl s

theorem follows_moveAct (g : Fin 8) (s : State) (x : Job) : Follows s (moveAct g s x).1 := by
  have h : Follows s (s.setGroup x.number g) := Follows.job s _ _ fun _ => ⟨rfl, rfl⟩
  unfold moveAct
  dsimp only
  split
  · exact h
  · exact h
  · refine Follows.trans ?_ (Follows.wanted _ _)
    refine Follows.trans h (Follows.job _ _ _ fun _ => ?_)
    exact ⟨rfl, rfl⟩
  · exact h.trans (follows_startLeaving _ _ _ _)
  · exact h.trans (follows_startLeaving _ _ _ _)
  · exact h.trans (follows_startLeaving _ _ _ _)
  · split
    · exact h
    · exact h.trans (Follows.job _ _ _ fun _ => ⟨rfl, rfl⟩)
  all_goals exact .refl s

theorem moves_moveJobAct (args : List Byte) (s : State) : Moves s (moveJobAct args s).1 := by
  unfold moveJobAct
  dsimp only
  split
  · exact moves_onJob _ (follows_moveAct _) args s
  · exact .refl s

theorem moves_onPrinter (act : State → LineNo → State × Status) (hact : ∀ s p, Follows s (act s p).1)
    (args : List Byte) (s : State) : Moves s (onPrinter act args s).1 := by
  unfold onPrinter
  split
  · exact .refl s
  · exact (hact s _).moves

theorem follows_standbyAct (s : State) (p : LineNo) : Follows s (standbyAct s p).1 := by
  unfold standbyAct
  dsimp only
  split
  · exact .refl s
  · split
    · split
      · exact .refl s
      · split
        · dsimp only
          exact Follows.lineSame s p _ fun _ => ⟨rfl, rfl, rfl, rfl, rfl⟩
        · exact follows_enterStandby s p
    · exact .refl s

theorem follows_wakeAct (s : State) (p : LineNo) : Follows s (wakeAct s p).1 := by
  unfold wakeAct
  split
  · exact follows_enterWaking s p true
  · exact .refl s

theorem follows_enterRetiring (s : State) (p : LineNo) : Follows s (s.enterRetiring p) :=
  Follows.lineSame s p _ fun _ => ⟨rfl, rfl, rfl, rfl, rfl⟩

theorem follows_retireAct (s : State) (p : LineNo) : Follows s (retireAct s p).1 := by
  have h : Follows s (s.retireServing p) := by
    unfold State.retireServing
    dsimp only
    split
    · exact follows_enterRetiring s p
    · exact follows_enterRetired s p
  unfold retireAct
  split
  · exact h
  · exact h
  · exact follows_enterRetired s p
  · exact follows_enterRetired s p
  · exact (follows_enterRetiring s p).trans (follows_requestFlush _ p _)
  · exact follows_requestFlush s p _
  · exact .refl s

theorem follows_returnAct (s : State) (p : LineNo) : Follows s (returnAct s p).1 := by
  unfold returnAct
  split
  · exact Follows.line s p _ ⟨.inr (Nat.zero_le _), .inl rfl, .inl (Nat.le_refl _)⟩
  · exact .refl s

theorem moves_ackAlertAct (args : List Byte) (s : State) : Moves s (ackAlertAct args s).1 := by
  unfold ackAlertAct
  split
  · exact .refl s
  · rename_i r hr
    split
    · rename_i hs
      have hm : r ∈ s.alerts := by
        unfold State.ackTarget at hr
        split at hr
        · cases hr
        · exact List.mem_of_find?_eq_some hr
      exact (follows_modAlert s _ ackedRecord (fun _ => ⟨rfl, rfl, rfl⟩) fun h q hq e _ hc => by
        rw [h.unique hq hm e, hs] at hc
        cases hc).moves
    · exact .refl s
    · exact (follows_removeAlert s _).moves

theorem moves_unknownRequest (f : ShopFrame) (s : State) : Moves s (unknownRequest f s) := by
  unfold unknownRequest
  split
  · exact .refl s
  · split
    · exact moves_reply s _ f _ _ _
    · split <;> exact moves_reply s _ f _ _ _

/-! ### Resets -/

theorem moves_finishReset (before : State) (f : ShopFrame) (s : State) : Moves s (finishReset before f s) := by
  unfold finishReset
  dsimp only
  refine Moves.trans ?_ (Moves.foldl _ ?_ _ _)
  · refine Moves.trans ?_ (moves_reply _ _ f _ _ _)
    refine Moves.foldl _ ?_ _ _
    intro s t
    exact moves_reply s _ t.frame _ _ _
  · intro s h
    unfold heldAtReset
    split
    · exact moves_reply s _ _ _ _ _
    · exact moves_doJobFrame s _ _

theorem moves_takeReset (f : ShopFrame) (s : State) : Moves s (takeReset f s) := by
  unfold takeReset
  split
  · exact .refl s
  · split
    · exact moves_reply s _ f _ _ _
    · split
      · exact (Move.warm s).moves.trans (moves_finishReset s f _)
      · exact (Move.power s s.straps).moves.trans (moves_finishReset s f _)
      · exact moves_reply s _ f _ _ _

/-! ### The printers' frames -/

theorem follows_hello (s : State) (p : LineNo) (a b c : BitVec 16) : Follows s (s.hello p a b c) := by
  unfold State.hello
  split
  · exact follows_linkUp s p a b c
  all_goals first
    | exact (follows_loseLine s p _).trans (follows_linkUp _ p a b c)
    | exact follows_loseLine s p _
    | exact .refl s

theorem follows_credit (s : State) (p : LineNo) (n : Nat) : Follows s (s.credit p n) := by
  unfold State.credit
  split
  · exact .refl s
  · exact Follows.line s p _ ⟨.inr (Nat.min_le_left _ _), .inl rfl, .inl (Nat.le_refl _)⟩

theorem follows_protocolFault (s : State) (p : LineNo) : Follows s (s.protocolFault p) := follows_openAlert s _ _ _

theorem paceSample_range (now last : BitVec 32) : 100 ≤ paceSample now last ∧ paceSample now last ≤ 60000 :=
  clamp_range _ (by decide)

theorem lineStep_pace (r : Roster) (now : BitVec 32) (t : Settings) (l : Line) : LineStep r l (paceLine now t l) := by
  refine ⟨.inl ⟨Nat.le_refl _, rfl⟩, ?_, .inl (Nat.le_refl _)⟩
  have h := paceSample_range now l.lastDone
  simp only [paceLine, confirmedPace]
  split
  · exact .inr (.inr (.inr ⟨_, h.1, h.2, rfl⟩))
  · exact .inl rfl

theorem follows_followUp (s : State) (j : Nat) : Follows s (s.followUp j) := by
  unfold State.followUp
  split
  · split
    · exact follows_complete s j
    · split
      · exact follows_endLeaving s j
      · exact follows_releaseIfKilled s j
  · exact .refl s

theorem follows_freeConfirmed (s : State) (e : Entry) : Follows s (s.freeConfirmed e) := by
  unfold State.freeConfirmed
  split
  · split
    · exact follows_freeSheetBlocks s _ _
    · exact .refl s
  · exact .refl s

theorem follows_confirm (s : State) (p : LineNo) (e : Entry) : Follows s (s.confirm p e) := by
  unfold State.confirm
  dsimp only
  refine Follows.trans ?_ (follows_retireIfEmpty _ p)
  refine Follows.trans ?_ (follows_followUp _ _)
  refine Follows.trans ?_ (follows_freeConfirmed _ e)
  refine Follows.trans ?_ (follows_clearStall _ p)
  refine Follows.trans ?_ (Follows.line _ p _ (lineStep_pace _ _ _ _))
  refine Follows.trans ?_ (Follows.job _ _ _ fun _ => ⟨rfl, rfl⟩)
  refine Follows.trans ?_ (follows_convertEntry _ p e)
  exact Follows.lineSame s p _ fun _ => ⟨rfl, rfl, rfl, rfl, rfl⟩

theorem follows_sheetDone (s : State) (p : LineNo) (tag : Byte) : Follows s (s.sheetDone p tag) := by
  unfold State.sheetDone
  split
  · split
    · exact follows_confirm s p _
    · exact (follows_protocolFault s p).trans (follows_requestFlush _ p _)
  · exact .refl s

theorem follows_jamEffect (s : State) (p : LineNo) : Follows s (s.jamEffect p) := by
  unfold State.jamEffect
  split
  · exact (follows_enterBlocked s p _).trans (follows_requestFlush _ p _)
  · exact (follows_enterBlocked s p _).trans (follows_requestFlush _ p _)
  · exact follows_requestFlush s p _
  · exact .refl s
  · exact follows_requestFlush s p _
  · exact .refl s
  · exact .refl s

theorem follows_stopEffect (s : State) (p : LineNo) : Follows s (s.stopEffect p) := by
  unfold State.stopEffect
  split
  · exact follows_enterBlocked s p _
  · exact follows_enterBlocked s p _
  · exact .refl s
  · exact .refl s
  · exact follows_requestFlush s p _
  · exact .refl s
  · exact .refl s

theorem follows_raiseCondition (s : State) (p : LineNo) (r : PatternRow) (report : List Byte) :
    Follows s (s.raiseCondition p r report) := by
  unfold State.raiseCondition
  dsimp only
  have h : Follows s (s.modLine p fun l => { l with conditions := setCondition l.conditions r.kind true }) :=
    Follows.lineSame s p _ fun _ => ⟨rfl, rfl, rfl, rfl, rfl⟩
  split
  · refine Follows.trans ?_ (follows_jamEffect _ p)
    refine Follows.trans ?_ (follows_openAlert _ _ _ _)
    refine Follows.trans h ?_
    exact Follows.lineSame _ p _ fun _ => ⟨rfl, rfl, rfl, rfl, rfl⟩
  · exact (h.trans (follows_openAlert _ _ _ _)).trans (follows_stopEffect _ p)
  · exact (h.trans (follows_openAlert _ _ _ _)).trans (follows_stopEffect _ p)
  · exact h.trans (follows_openAlert _ _ _ _)

theorem follows_decideReport (s : State) (p : LineNo) (r : PatternRow) (report : List Byte) :
    Follows s (s.decideReport p r report) := by
  unfold State.decideReport
  split
  · split
    · exact .refl s
    · exact follows_raiseCondition s p r report
  · split
    · unfold State.clearCondition
      dsimp only
      split
      · exact (follows_dropCondition s p _).trans (follows_leaveBlocked _ p)
      · exact follows_dropCondition s p _
    · exact .refl s

theorem follows_statusReport (s : State) (p : LineNo) (report : List Byte) : Follows s (s.statusReport p report) := by
  unfold State.statusReport
  dsimp only
  have h : Follows s (s.modLine p fun l => { l with statusText := report }) :=
    Follows.lineSame s p _ fun _ => ⟨rfl, rfl, rfl, rfl, rfl⟩
  split
  · split
    · exact h.trans (follows_decideReport _ p _ report)
    · exact h
  · exact .refl s

theorem follows_readyFrame (s : State) (p : LineNo) : Follows s (s.readyFrame p) := by
  unfold State.readyFrame
  dsimp only
  have h : Follows s (s.modLine p fun l => { l with readySeen := true }) :=
    Follows.lineSame s p _ fun _ => ⟨rfl, rfl, rfl, rfl, rfl⟩
  split
  · split
    · exact h
    · exact h.trans (follows_enterReady _ p)
  · exact .refl s

theorem follows_countNoProgress (s : State) (j : Nat) : Follows s (s.countNoProgress j) := by
  unfold State.countNoProgress
  split
  · exact .refl s
  · split
    · exact .refl s
    · dsimp only
      have h (n : Nat) : Follows s (s.modJob j fun y => { y with noProgress := n }) :=
        Follows.job s j _ fun _ => ⟨rfl, rfl⟩
      split
      · exact ((h _).trans (follows_kill _ j _)).trans (follows_openAlert _ _ _ _)
      · exact h _

theorem follows_countFlush (s : State) (p : LineNo) (block : Bool) (c : Option Entry) :
    Follows s (s.countFlush p block c) := by
  unfold State.countFlush
  dsimp only
  have h : Follows s (s.modLine p fun l => { l with jamTag := none }) :=
    Follows.lineSame s p _ fun _ => ⟨rfl, rfl, rfl, rfl, rfl⟩
  split
  · split
    · exact h.trans (follows_countNoProgress _ _)
    · exact h
  · exact .refl s

theorem follows_afterRewind (s : State) (j : Nat) : Follows s (s.afterRewind j) := by
  unfold State.afterRewind
  split
  · exact .refl s
  · split
    · exact Follows.job s j _ fun _ => ⟨rfl, rfl⟩
    · split
      · exact follows_endLeaving s j
      · exact .refl s

theorem follows_endFlush (s : State) (p : LineNo) : Follows s (s.endFlush p) := by
  unfold State.endFlush
  dsimp only
  refine Follows.trans ?_ (follows_retireIfEmpty _ p)
  refine Follows.thenLine ?_ p _ fun _ => ⟨rfl, rfl, rfl, rfl, rfl⟩
  refine Follows.trans ?_ (Follows.foldl _ follows_releaseIfKilled _ _)
  refine Follows.trans (t := ((s.modLine p flushedLine).clearEntries p isFlushing).countFlush p (s.line p).flush.block
    (countedEntry (s.line p))) ?_ ?_
  · refine Follows.trans ?_ (follows_countFlush _ p _ _)
    refine Follows.trans ?_ (follows_clearEntries _ p _)
    exact Follows.line s p _ ⟨.inr (Nat.le_refl _), .inl rfl, .inl (Nat.le_refl _)⟩
  · unfold State.afterRewinds
    exact (Follows.foldl _ follows_afterRewind _ _).trans (follows_rechoose _ p)

theorem follows_flushedFrame (s : State) (p : LineNo) : Follows s (s.flushedFrame p) := by
  unfold State.flushedFrame
  split
  · split
    · exact follows_endFlush s p
    · exact follows_protocolFault s p
  · exact .refl s

/-! ### Timers -/

theorem follows_settleExpiry (s : State) (p : LineNo) : Follows s (s.settleExpiry p) := by
  unfold State.settleExpiry
  dsimp only
  have h : Follows s (s.modLine p fun l => { l with settle := .stopped }) :=
    Follows.lineSame s p _ fun _ => ⟨rfl, rfl, rfl, rfl, rfl⟩
  split
  · exact h.trans (follows_enterReady _ p)
  · exact h

theorem follows_wakeLimitExpiry (s : State) (p : LineNo) : Follows s (s.wakeLimitExpiry p) :=
  ((follows_dropLine s p).trans (follows_downLine _ p true)).trans (follows_openAlert _ _ _ _)

theorem follows_minAwakeExpiry (s : State) (p : LineNo) : Follows s (s.minAwakeExpiry p) := by
  unfold State.minAwakeExpiry
  dsimp only
  have h : Follows s (s.modLine p fun l => { l with minAwake := .stopped }) :=
    Follows.lineSame s p _ fun _ => ⟨rfl, rfl, rfl, rfl, rfl⟩
  split
  · split
    · exact h.trans (follows_enterStandby _ p)
    · exact h.thenLine p _ fun _ => ⟨rfl, rfl, rfl, rfl, rfl⟩
  · exact h

theorem follows_stallExpiry (s : State) (p : LineNo) : Follows s (s.stallExpiry p) := by
  unfold State.stallExpiry
  dsimp only
  have h : Follows s (s.modLine p fun l => { l with stall := .stopped, stalled := true }) :=
    Follows.lineSame s p _ fun _ => ⟨rfl, rfl, rfl, rfl, rfl⟩
  split
  · exact h
  · exact h.trans (follows_openAlert _ _ _ _)

/-! ### Dispatch and feed -/

theorem follows_startSheet (s : State) (p : LineNo) (x : Job) (h : Sheet) (cost : Nat) :
    Follows s (s.startSheet p x h cost) := by
  unfold State.startSheet
  dsimp only
  have k : Follows s ((((s.modAccount x.account (reserve cost h.sides)).modLine p
      (startLine s.settings x h cost))).modJob x.number fun y => { y with dispatch := advance x x.dispatch }) := by
    refine Follows.trans ?_ (Follows.job _ _ (fun y => { y with dispatch := advance x x.dispatch })
      fun _ => ⟨rfl, rfl⟩)
    refine Follows.trans (Follows.account s x.account (reserve cost h.sides)) ?_
    refine Follows.line _ p (startLine s.settings x h cost) ⟨.inl ⟨Nat.le_refl _, rfl⟩, .inl rfl, .inl ?_⟩
    simp [lineLoad, startLine, fifoFill, startFrame, frameFill]
  split
  · refine Follows.trans ?_ (follows_rechoose _ p)
    refine Follows.trans k ?_
    exact Follows.job _ _ (fun y => { y with run := .draining }) fun _ => ⟨rfl, rfl⟩
  · exact k

theorem follows_quotaFailure (s : State) (x : Job) : Follows s (s.quotaFailure x) :=
  ((follows_joinQuota s _ _).trans (follows_startLeaving _ _ _ _)).trans (follows_openAlert _ _ _ _)

theorem follows_sheetStart (s : State) (p : LineNo) : Follows s (s.sheetStart p) := by
  unfold State.sheetStart
  split
  · exact .refl s
  · dsimp only
    refine Follows.trans ?_ (follows_settleEvent s _)
    split
    · exact follows_startSheet s p _ _ _
    · exact follows_quotaFailure s _

theorem moves_setEngine (s : State) (g : Fin 2) (o : Option LineNo) : Moves s (s.setEngine g o) := by
  unfold State.setEngine
  split <;> exact Moves.outside s _ _ _ _ _ _ _ _ _ _

/-- What a request says of its line (R69). -/
theorem requests_spec {s : State} {p : LineNo} (h : s.requests p = true) :
    flushPending (s.line p).flush = false ∧ (s.inTransmission p).isSome = true ∧ (s.line p).burst = none ∧
    fifoFill (s.line p).fifo ≤ (s.rosterOf p).threshold ∧ 1 ≤ (s.line p).credits := by
  simp only [State.requests, Bool.and_eq_true, Bool.not_eq_true', decide_eq_true_eq, Option.isNone_iff_eq_none] at h
  exact ⟨h.1.1.1.1.2, h.1.1.1.2, h.1.1.2, h.1.2, h.2⟩

theorem moves_grant (s : State) : Moves s s.grant := by
  unfold State.grant
  split
  · rename_i g p _ hp
    split
    · rename_i e _
      refine Moves.trans ?_ (moves_setEngine _ g _)
      have hreq := requests_spec (List.find?_some hp)
      have h : Moves s (s.modLine p fun l =>
          { l with credits := l.credits - 1, burst := some (s.burstOf g e) }) := by
        refine Moves.line s p _ ⟨.inl ⟨Nat.sub_le _ _, rfl⟩, .inl rfl, .inr ⟨hreq.2.2.2.1, ?_⟩⟩
        simp only [lineLoad, burstLoad, State.burstOf, Bool.false_eq_true, if_false]
        omega
      exact h.trans (Moves.outside _ _ _ _ _ _ _ _ p _ _)
    · exact .refl s
  · exact .refl s
  · exact .refl s

theorem burstBytes_length (s : State) (b : Burst) : (s.burstBytes b).length = b.count := by
  simp [State.burstBytes]

theorem moves_placeBurst (s : State) (p : LineNo) (b : Burst) (hb : (s.line p).burst = some b)
    (hd : b.discarded = false) : Moves s (s.placeBurst p b) := by
  unfold State.placeBurst
  have h : Moves s (s.modLine p fun l =>
      { l with
        burst := none
        fifo := l.fifo ++ [.data b.tag (s.burstBytes b)]
        inflight := l.inflight.map (raiseMoved b) }) := by
    refine Moves.line s p _ ⟨.inl ⟨Nat.le_refl _, rfl⟩, .inl rfl, .inl ?_⟩
    simp [lineLoad, hb, burstLoad, hd, fifoFill, frameFill, burstBytes_length]
  exact h.trans (Moves.outside _ _ _ _ _ _ _ _ _ _ _)

theorem moves_noBurst (s : State) (p : LineNo) : Moves s (s.modLine p noBurst) := by
  refine Moves.line s p _ ⟨.inl ⟨Nat.le_refl _, rfl⟩, .inl rfl, .inl ?_⟩
  simp [lineLoad, noBurst, burstLoad]

theorem follows_failRead (s : State) (b : Burst) : Follows s (s.failRead b) := by
  unfold State.failRead
  dsimp only
  have h (d : Detail) : Follows s (((s.kill b.job .failed).openAlert .jobFailed (.job b.job) d).openAlert .dataError
      (.job b.job) d) :=
    ((follows_kill s _ _).trans (follows_openAlert _ _ _ _)).trans (follows_openAlert _ _ _ _)
  split
  · exact (h _).trans (follows_requestFlush _ _ _)
  · exact (h _).trans (follows_releaseStorage _ _)

theorem follows_readError (s : State) (b : Burst) : Follows s (s.readError b) := by
  unfold State.readError
  split
  · exact .refl s
  · split
    · rename_i hin
      dsimp only
      have h := follows_withdrawBlock s b.job b.sheet _ hin
      split
      · exact h
      · exact h.trans (follows_failRead _ b)
    · exact .refl s

theorem moves_completeBurst (s : State) (p : LineNo) (b : Burst) (err : Bool) (hb : (s.line p).burst = some b) :
    Moves s (s.completeBurst p b err) := by
  unfold State.completeBurst
  dsimp only
  have h := moves_setEngine s b.engine none
  split
  · exact (h.trans (moves_noBurst _ p)).trans (follows_readError _ b).moves
  · split
    · exact h.trans (moves_noBurst _ p)
    · rename_i hd
      refine h.trans (moves_placeBurst _ p b ?_ (by simpa using hd))
      unfold State.setEngine
      split <;> exact hb

theorem moves_burstEnd (s : State) (p : LineNo) (err : Bool) : Moves s (s.burstEnd p err) := by
  unfold State.burstEnd
  split
  · exact .refl s
  · rename_i b hb
    exact (moves_completeBurst s p b err hb).trans (moves_settleEvent s _)

theorem lineStep_takeFrame (r : Roster) (l : Line) : LineStep r l (takeFrame l) := by
  unfold takeFrame
  split
  · exact .same rfl rfl rfl rfl rfl
  · split
    · rename_i hf
      refine ⟨.inl ⟨Nat.le_refl _, rfl⟩, .inl rfl, .inl ?_⟩
      simp only [lineLoad, fifoFill, hf, List.map_cons, List.sum_cons]
      omega
    · exact .same rfl rfl rfl rfl rfl

theorem moves_transmit (s : State) (p : LineNo) : Moves s (s.transmit p) := by
  unfold State.transmit
  split
  · exact .refl s
  · refine Moves.trans ?_ (Moves.line _ p _ (lineStep_takeFrame _ _))
    unfold State.finishFrame
    split
    · exact Moves.outside s _ _ _ _ _ _ _ _ _ _
    · exact .refl s

/-! ### Every command and every step -/

theorem moves_idleStep (s : State) : Moves s s.idleStep := by
  unfold State.idleStep
  split
  · exact (Move.tick s).moves
  · exact Moves.outside s _ _ _ _ _ _ _ _ _ _

/-- Whatever the command, its next state is reached by moves. -/
theorem moves_exec {c : Instr} {s t : State} (h : exec c s = .next t) : Moves s t := by
  cases c <;> injection h with h <;> subst h
  case jobOpen f => exact moves_takeJobOpen f s
  case sheetData f => exact moves_takeJobFrame _ f s
  case sheetDataStoreEnd j => exact moves_storeEnd j s
  case sheetEnd f => exact moves_takeJobFrame _ f s
  case jobClose f => exact moves_takeJobFrame _ f s
  case jobCancel f => exact moves_takeJobFrame _ f s
  case shopFrameDropped f => exact .refl s
  case goLive f => exact moves_manage _ _ _ _ moves_goLiveAct f s
  case readStatus f => exact moves_manage _ _ _ _ moves_readStatusAct f s
  case tableWindow f => exact moves_manage _ _ _ _ moves_tableWindowAct f s
  case tableWrite f => exact moves_manage _ _ _ _ (moves_tableWriteAct _) f s
  case tableWriteContinue f => exact moves_manage _ _ _ _ (moves_tableWriteAct _) f s
  case tableRead f => exact moves_manage _ _ _ _ (moves_tableReadAct _) f s
  case tableReadContinue f => exact moves_manage _ _ _ _ (moves_tableReadAct _) f s
  case adjustLimit f => exact moves_manage _ _ _ _ moves_adjustLimitAct f s
  case closePeriod f => exact moves_manage _ _ _ _ moves_closePeriodAct f s
  case readMetersStart f => exact moves_manage _ _ _ _ moves_readMetersStartAct f s
  case readMetersNext f => exact moves_manage _ _ _ _ moves_readMetersNextAct f s
  case holdJob f => exact moves_manage _ _ _ _ (moves_onJob _ follows_holdAct) f s
  case releaseJob f => exact moves_manage _ _ _ _ (moves_onJob _ follows_releaseAct) f s
  case cancelJob f => exact moves_manage _ _ _ _ (moves_onJob _ follows_cancel) f s
  case purgeJob f => exact moves_manage _ _ _ _ (moves_onJob _ follows_purgeAct) f s
  case reprintJob f =>
    exact moves_manage _ _ _ _ (fun args => moves_onJob _ (follows_reprintAct (field args 2 2)) args) f s
  case moveJob f => exact moves_manage _ _ _ _ moves_moveJobAct f s
  case standbyRequest f => exact moves_manage _ _ _ _ (moves_onPrinter _ follows_standbyAct) f s
  case wakeRequest f => exact moves_manage _ _ _ _ (moves_onPrinter _ follows_wakeAct) f s
  case retireRequest f => exact moves_manage _ _ _ _ (moves_onPrinter _ follows_retireAct) f s
  case returnRequest f => exact moves_manage _ _ _ _ (moves_onPrinter _ follows_returnAct) f s
  case ackAlert f => exact moves_manage _ _ _ _ moves_ackAlertAct f s
  case resetWarm f => exact moves_takeReset f s
  case resetFull f => exact moves_takeReset f s
  case powerOn straps => exact (Move.power s straps).moves
  case hello p a b c => exact moves_lineEvent p _ (fun t => (follows_hello t p a b c).moves) s
  case credit p n => exact moves_lineEvent p _ (fun t => (follows_credit t p n.toNat).moves) s
  case sheetDone p tag => exact moves_lineEvent p _ (fun t => (follows_sheetDone t p tag).moves) s
  case status p report =>
    refine moves_lineEvent p _ (fun t => ?_) s
    split
    · exact (follows_statusReport t p report).moves
    · exact .refl t
  case ready p => exact moves_lineEvent p _ (fun t => (follows_readyFrame t p).moves) s
  case flushed p => exact moves_lineEvent p _ (fun t => (follows_flushedFrame t p).moves) s
  case lineFrameDiscarded p f => exact moves_lineEvent p _ .refl s
  case lineTransmitFrame p => exact moves_transmit s p
  case settleExpiry p => exact moves_expiry _ p _ (fun t => (follows_settleExpiry t p).moves) s
  case wakeLimitExpiry p => exact moves_expiry _ p _ (fun t => (follows_wakeLimitExpiry t p).moves) s
  case minAwakeExpiry p => exact moves_expiry _ p _ (fun t => (follows_minAwakeExpiry t p).moves) s
  case idleTimerExpiry p => exact moves_expiry _ p _ (fun t => (follows_enterStandby t p).moves) s
  case flushLimitExpiry p => exact moves_expiry _ p _ (fun t => (follows_loseLine t p true).moves) s
  case silenceMonitorExpiry p => exact moves_expiry _ p _ (fun t => (follows_loseLine t p true).moves) s
  case stallTimerExpiry p => exact moves_expiry _ p _ (fun t => (follows_stallExpiry t p).moves) s
  case moveDelayExpiry p => exact moves_expiry _ p _ (fun t => (follows_moveOff t p).moves) s
  case reminderTimerExpiry n => exact (follows_remind s n).moves
  case sheetStart p => exact (follows_sheetStart s p).moves
  case burstGrant => exact moves_grant s
  case burstCompletion p e => exact moves_burstEnd s p e
  case idleSignalling p => exact moves_lineEvent p _ .refl s
  case unknownRequestCode f => exact moves_unknownRequest f s

/-- Every step is reached by moves. -/
theorem moves_step {s t : State} (h : step s = .next t) : Moves s t := by
  unfold step at h
  split at h
  · exact (Moves.outside s _ _ _ _ _ _ _ _ _ _).trans (moves_exec h)
  · injection h with h
    exact h ▸ moves_idleStep s

end Sys2Proof.Machine
end

