-- ==== Sys2Proof/Laws/Numbers.lean ====
section
/-! SUPPORT. The allocation of job and alert numbers (R24, R160): the number found is the first that is free, and one is found. -/

namespace Sys2Proof.Machine

/-- The number found is the first of the walk that is not in use. -/
theorem allocate_first {used : List Nat} {k c n : Nat} (h : allocate used k c = some n) :
    ∃ i, i < k ∧ n = numberAfter (i + 1) c ∧ n ∉ used ∧ ∀ m, m < i → numberAfter (m + 1) c ∈ used := by
  induction k generalizing c with
  | zero => cases h
  | succ k ih =>
    unfold allocate at h
    dsimp only at h
    split at h
    · rename_i hu
      obtain ⟨i, hi, e, hn, hm⟩ := ih h
      refine ⟨i + 1, by omega, e, hn, fun m hlt => ?_⟩
      cases m with
      | zero => exact hu
      | succ m => exact hm m (by omega)
    · rename_i hu
      cases h
      exact ⟨0, by omega, rfl, hu, fun m hlt => absurd hlt (by omega)⟩

/-- When none is found, every number of the walk is in use. -/
theorem allocate_none {used : List Nat} {k c : Nat} (h : allocate used k c = none) :
    ∀ m, m < k → numberAfter (m + 1) c ∈ used := by
  induction k generalizing c with
  | zero => intro m hm; omega
  | succ k ih =>
    unfold allocate at h
    dsimp only at h
    split at h
    · rename_i hu
      intro m hm
      cases m with
      | zero => exact hu
      | succ m => exact ih h m (by omega)
    · cases h

/-- The walk in closed form. -/
theorem numberAfter_eq (i c : Nat) : numberAfter (i + 1) c = (min c 65535 + i) % 65535 + 1 := by
  induction i generalizing c with
  | zero =>
    show nextNumber c = _
    unfold nextNumber
    split <;> omega
  | succ i ih =>
    show numberAfter (i + 1) (nextNumber c) = _
    rw [ih]
    unfold nextNumber
    split <;> omega

/-- A list without repeats is no longer than a list that holds all its members. -/
theorem nodup_length_le {l m : List Nat} (hd : l.Nodup) (hs : ∀ x ∈ l, x ∈ m) : l.length ≤ m.length := by
  induction l generalizing m with
  | nil => exact Nat.zero_le _
  | cons a l ih =>
    rw [List.nodup_cons] at hd
    have ha := hs a (by simp)
    have := ih (m := m.erase a) hd.2 fun x hx =>
      (List.mem_erase_of_ne (fun (e : x = a) => hd.1 (e ▸ hx))).mpr (hs x (by simp [hx]))
    rw [List.length_erase_of_mem ha] at this
    have := List.length_pos_of_mem ha
    simp only [List.length_cons]
    omega

/-- With more tries than numbers in use, a number is found. -/
theorem allocate_total (used : List Nat) (k c : Nat) (h : used.length < k) (hk : k ≤ 65535) :
    ∃ n, allocate used k c = some n := by
  cases e : allocate used k c with
  | some n => exact ⟨n, rfl⟩
  | none =>
    exfalso
    have hu := allocate_none e
    have hd : ((List.range k).map fun m => numberAfter (m + 1) c).Nodup := by
      rw [List.nodup_iff_pairwise_ne, List.pairwise_map]
      refine List.Pairwise.imp_of_mem ?_ (List.pairwise_lt_range (n := k))
      intro a b ha hb hab
      rw [List.mem_range] at ha hb
      rw [numberAfter_eq, numberAfter_eq]
      omega
    have := nodup_length_le hd (m := used) fun x hx => by
      obtain ⟨m, hm, rfl⟩ := List.mem_map.mp hx
      exact hu m (List.mem_range.mp hm)
    simp only [List.length_map, List.length_range] at this
    omega

end Sys2Proof.Machine
end

