-- ==== Sys2Proof/Laws/Requests.lean ====
section
/-! SUPPORT. Taking a request or a job frame that passes its checks, and the end of an event that causes nothing more, each said once. -/

namespace Sys2Proof.Machine

/-! ### The end of an event -/

theorem risenAccounts_none {as bs : List Account} (n : Nat)
    (h : ∀ i (ha : i < as.length) (hb : i < bs.length), available bs[i] ≤ available as[i]) :
    risenAccounts as bs n = [] := by
  induction as generalizing bs n with
  | nil => cases bs <;> rfl
  | cons a as ih =>
    cases bs with
    | nil => rfl
    | cons b bs =>
      have h0 := h 0 (by simp) (by simp)
      have hi := ih (bs := bs) (n + 1) fun i ha hb => h (i + 1) (Nat.succ_lt_succ ha) (Nat.succ_lt_succ hb)
      simp only [List.getElem_cons_zero] at h0
      simp [risenAccounts, Nat.not_lt.mpr h0, hi]

/-- No quota retry starts when no available amount has risen (R133). -/
theorem quotaRetries_none {before s : State} (h : ∀ a, available (s.account a) ≤ available (before.account a)) :
    State.quotaRetries before s = s := by
  unfold State.quotaRetries
  rw [risenAccounts_none]
  · rfl
  · intro i ha hb
    simp only [Vector.length_toList] at ha hb
    have := h ⟨i, hb⟩
    simpa [State.account] using this

/-- An event that raises no available amount, asks for no binding pass and starts no zero move delay ends
with the idle timers alone. -/
theorem settleEvent_calm {before s : State} (ha : ∀ a, available (s.account a) ≤ available (before.account a))
    (hp : s.passesWanted = 0) (hm : zeroMove before s = none) : settleEvent before s = s.refreshIdle := by
  unfold settleEvent
  rw [quotaRetries_none ha]
  unfold settleFuel settleLoop
  simp [hp, hm]

theorem settleEvent_self (s : State) (hp : s.passesWanted = 0) : settleEvent s s = s.refreshIdle :=
  settleEvent_calm (fun _ => Nat.le_refl _) hp (zeroMove_none fun _ => rfl)

theorem settleEvent_settings (before s : State) : (settleEvent before s).settings = s.settings := by
  have h := (follows_settleEvent before s).outside
  exact h.2.2.2.2.2.1.2.2.2.2.2.2.2

/-! ### Taking a MANAGE request -/

theorem accepts_mono {s : State} {f : ShopFrame} (b : Bool) (h : s.accepts false f = true) : s.accepts b f = true := by
  unfold State.accepts at *
  cases b <;> simp_all

theorem Requested.status {s : State} {f : ShopFrame} {args : List Byte} (h : Requested s f args) :
    StatusRequested s f args := ⟨accepts_mono true h.1, h.2⟩

/-- A request that passes its checks is carried out and answered. -/
theorem manage_taken {s : State} {f : ShopFrame} {args : List Byte} (b : Bool) (sizeOk : List Byte → Bool)
    (jobOf : List Byte → Nat) (act : List Byte → State → Outcome3) (ha : s.accepts b f = true)
    (hv : f.version = 1#8) (hl : f.length.toNat = args.length + 1) (hr : f.rest.take args.length = args)
    (hm : s.isManager f.src = true) (hs : sizeOk args = true) :
    manage b sizeOk jobOf act f s = manageEnd s f (jobOf args) (act args s) := by
  have hlen : args.length ≤ f.rest.length := by
    have := congrArg List.length hr
    simp only [List.length_take] at this
    omega
  have hargs : requestArgs f = args := by simp [requestArgs, hl, hr]
  unfold manage State.manageFormRefusal headerOk
  simp [ha, hv, hl, hm, hs, hargs, Nat.succ_le_succ hlen]

theorem manage_requested {s : State} {f : ShopFrame} {args : List Byte} (h : Requested s f args)
    (sizeOk : List Byte → Bool) (jobOf : List Byte → Nat) (act : List Byte → State → Outcome3)
    (hs : sizeOk args = true) : manage false sizeOk jobOf act f s = manageEnd s f (jobOf args) (act args s) :=
  manage_taken false sizeOk jobOf act h.1 h.2.1 h.2.2.1 h.2.2.2.1 h.2.2.2.2 hs

/-- A request that leaves the shop port fields ends with what its changes cause, then its reply. -/
theorem manageEnd_ended {s : State} (f : ShopFrame) (job : Nat) (o : Outcome3)
    (hp : o.1.settings.port = s.settings.port) :
    manageEnd s f job o = ended s o.1 f job o.2.1 o.2.2 := by
  have h1 : o.1.withPort s.settings.port = o.1 := by
    unfold State.withPort
    rw [← hp]
  have h2 : (settleEvent s o.1).withPort o.1.settings.port = settleEvent s o.1 := by
    unfold State.withPort
    rw [← settleEvent_settings s o.1]
  unfold manageEnd ended
  simp only [h1, h2]

theorem ended_answered {s u : State} (f : ShopFrame) (job : Nat) (st : Status) (body : List Byte)
    (ha : ∀ a, available (u.account a) ≤ available (s.account a)) (hw : u.passesWanted = 0)
    (hm : zeroMove s u = none) : ended s u f job st body = answered s u f job st body := by
  unfold ended answered
  rw [settleEvent_calm ha hw hm]

/-- The whole of a request that causes nothing further. -/
theorem manage_answered {s : State} {f : ShopFrame} {args : List Byte} (h : Requested s f args)
    (sizeOk : List Byte → Bool) (jobOf : List Byte → Nat) (act : List Byte → State → Outcome3)
    (hs : sizeOk args = true) (hp : (act args s).1.settings.port = s.settings.port)
    (ha : ∀ a, available ((act args s).1.account a) ≤ available (s.account a))
    (hw : (act args s).1.passesWanted = 0) (hm : zeroMove s (act args s).1 = none) :
    manage false sizeOk jobOf act f s =
      answered s (act args s).1 f (jobOf args) (act args s).2.1 (act args s).2.2 := by
  rw [manage_requested h sizeOk jobOf act hs, manageEnd_ended f _ _ hp, ended_answered f _ _ _ ha hw hm]

/-! ### Taking a job frame -/

/-- A job frame that passes its form checks and whose turn has come is carried out. -/
theorem takeJobFrame_taken {s : State} {f : ShopFrame} {body : List Byte} (k : JobFrame)
    (h : JobFrameTaken s f body) (hs : bodyFits k body.length = true)
    (hq : s.mustWait k f.job.toNat = false) : takeJobFrame k f s = s.doJobFrame k f := by
  obtain ⟨ha, hv, hl, hr, hlive⟩ := h
  have hlen : body.length ≤ f.rest.length := by
    have := congrArg List.length hr
    simp only [List.length_take] at this
    omega
  unfold takeJobFrame State.jobFormRefusal headerOk
  simp [ha, hv, hl, hlive, hs, hq, hlen]

theorem JobFrameTaken.body {s : State} {f : ShopFrame} {body : List Byte} (h : JobFrameTaken s f body) :
    shopBody f = body := by
  unfold shopBody
  rw [h.2.2.1, h.2.2.2.1]

end Sys2Proof.Machine
end

