-- ==== Sys2Proof/Laws/Resets.lean ====
section
/-! SUPPORT. The fields of the part after a tick and after each reset, one lemma per field. -/

namespace Sys2Proof.Machine

/-! ### State.tick -/

@[simp] theorem State.tick_pending (s : State) : s.tick.pending = s.pending := by simp only [State.tick, State.mapLines]
@[simp] theorem State.tick_live (s : State) : s.tick.live = s.live := by simp only [State.tick, State.mapLines]
@[simp] theorem State.tick_straps (s : State) : s.tick.straps = s.straps := by simp only [State.tick, State.mapLines]
@[simp] theorem State.tick_window (s : State) : s.tick.window = s.window := by simp only [State.tick, State.mapLines]
@[simp] theorem State.tick_readout (s : State) : s.tick.readout = s.readout := by simp only [State.tick, State.mapLines]
@[simp] theorem State.tick_route (s : State) : s.tick.route = s.route := by simp only [State.tick, State.mapLines]
@[simp] theorem State.tick_group (s : State) : s.tick.group = s.group := by simp only [State.tick, State.mapLines]
@[simp] theorem State.tick_accounts (s : State) : s.tick.accounts = s.accounts := by simp only [State.tick, State.mapLines]
@[simp] theorem State.tick_rate (s : State) : s.tick.rate = s.rate := by simp only [State.tick, State.mapLines]
@[simp] theorem State.tick_media (s : State) : s.tick.media = s.media := by simp only [State.tick, State.mapLines]
@[simp] theorem State.tick_tier (s : State) : s.tick.tier = s.tier := by simp only [State.tick, State.mapLines]
@[simp] theorem State.tick_pattern (s : State) : s.tick.pattern = s.pattern := by simp only [State.tick, State.mapLines]
@[simp] theorem State.tick_roster (s : State) : s.tick.roster = s.roster := by simp only [State.tick, State.mapLines]
@[simp] theorem State.tick_settings (s : State) : s.tick.settings = s.settings := by simp only [State.tick, State.mapLines]
@[simp] theorem State.tick_free (s : State) : s.tick.free = s.free := by simp only [State.tick, State.mapLines]
@[simp] theorem State.tick_pool (s : State) : s.tick.pool = s.pool := by simp only [State.tick, State.mapLines]
@[simp] theorem State.tick_quarantine (s : State) : s.tick.quarantine = s.quarantine := by simp only [State.tick, State.mapLines]
@[simp] theorem State.tick_spoolLow (s : State) : s.tick.spoolLow = s.spoolLow := by simp only [State.tick, State.mapLines]
@[simp] theorem State.tick_dram (s : State) : s.tick.dram = s.dram := by simp only [State.tick, State.mapLines]
@[simp] theorem State.tick_stores (s : State) : s.tick.stores = s.stores := by simp only [State.tick, State.mapLines]
@[simp] theorem State.tick_held (s : State) : s.tick.held = s.held := by simp only [State.tick, State.mapLines]
@[simp] theorem State.tick_jobs (s : State) : s.tick.jobs = s.jobs := by simp only [State.tick, State.mapLines]
@[simp] theorem State.tick_jobCtr (s : State) : s.tick.jobCtr = s.jobCtr := by simp only [State.tick, State.mapLines]
@[simp] theorem State.tick_waiting (s : State) : s.tick.waiting = s.waiting := by simp only [State.tick, State.mapLines]
@[simp] theorem State.tick_passesWanted (s : State) : s.tick.passesWanted = s.passesWanted := by simp only [State.tick, State.mapLines]
@[simp] theorem State.tick_engine0 (s : State) : s.tick.engine0 = s.engine0 := by simp only [State.tick, State.mapLines]
@[simp] theorem State.tick_engine1 (s : State) : s.tick.engine1 = s.engine1 := by simp only [State.tick, State.mapLines]
@[simp] theorem State.tick_lastGranted (s : State) : s.tick.lastGranted = s.lastGranted := by simp only [State.tick, State.mapLines]
@[simp] theorem State.tick_meters (s : State) : s.tick.meters = s.meters := by simp only [State.tick, State.mapLines]
@[simp] theorem State.tick_cleared (s : State) : s.tick.cleared = s.cleared := by simp only [State.tick, State.mapLines]
@[simp] theorem State.tick_alertCtr (s : State) : s.tick.alertCtr = s.alertCtr := by simp only [State.tick, State.mapLines]
@[simp] theorem State.tick_shopOut (s : State) : s.tick.shopOut = s.shopOut := by simp only [State.tick, State.mapLines]
@[simp] theorem State.tick_lineOut (s : State) : s.tick.lineOut = s.lineOut := by simp only [State.tick, State.mapLines]
@[simp] theorem State.tick_freeCtr (s : State) : s.tick.freeCtr = s.freeCtr := by simp only [State.tick, State.mapLines]
@[simp] theorem State.tick_timeBase (s : State) : s.tick.timeBase = s.timeBase + 1 := rfl
@[simp] theorem State.tick_alerts (s : State) :
    s.tick.alerts = s.alerts.map fun r => { r with timer := timerTick r.timer } := rfl
@[simp] theorem State.tick_line (s : State) (p : LineNo) : s.tick.line p = tickLine (s.line p) := by
  simp [State.tick, State.mapLines, State.line]
@[simp] theorem State.tick_rosterOf (s : State) (p : LineNo) : s.tick.rosterOf p = s.rosterOf p := by
  simp only [State.rosterOf, State.tick_roster]

/-! ### State.warmReset -/

@[simp] theorem State.warmReset_pending (s : State) : s.warmReset.pending = s.pending := rfl
@[simp] theorem State.warmReset_live (s : State) : s.warmReset.live = s.live := rfl
@[simp] theorem State.warmReset_straps (s : State) : s.warmReset.straps = s.straps := rfl
@[simp] theorem State.warmReset_window (s : State) : s.warmReset.window = none := rfl
@[simp] theorem State.warmReset_readout (s : State) : s.warmReset.readout = none := rfl
@[simp] theorem State.warmReset_timeBase (s : State) : s.warmReset.timeBase = s.timeBase := rfl
@[simp] theorem State.warmReset_route (s : State) : s.warmReset.route = s.route := rfl
@[simp] theorem State.warmReset_group (s : State) : s.warmReset.group = s.group := rfl
@[simp] theorem State.warmReset_rate (s : State) : s.warmReset.rate = s.rate := rfl
@[simp] theorem State.warmReset_media (s : State) : s.warmReset.media = s.media := rfl
@[simp] theorem State.warmReset_tier (s : State) : s.warmReset.tier = s.tier := rfl
@[simp] theorem State.warmReset_pattern (s : State) : s.warmReset.pattern = s.pattern := rfl
@[simp] theorem State.warmReset_roster (s : State) : s.warmReset.roster = s.roster := rfl
@[simp] theorem State.warmReset_settings (s : State) : s.warmReset.settings = s.settings := rfl
@[simp] theorem State.warmReset_free (s : State) : s.warmReset.free = ascending Config.blocks 0 := rfl
@[simp] theorem State.warmReset_pool (s : State) : s.warmReset.pool = Config.sheetRecords := rfl
@[simp] theorem State.warmReset_quarantine (s : State) : s.warmReset.quarantine = [] := rfl
@[simp] theorem State.warmReset_spoolLow (s : State) : s.warmReset.spoolLow = false := rfl
@[simp] theorem State.warmReset_dram (s : State) : s.warmReset.dram = s.dram := rfl
@[simp] theorem State.warmReset_stores (s : State) : s.warmReset.stores = [] := rfl
@[simp] theorem State.warmReset_held (s : State) : s.warmReset.held = [] := rfl
@[simp] theorem State.warmReset_jobs (s : State) : s.warmReset.jobs = [] := rfl
@[simp] theorem State.warmReset_jobCtr (s : State) : s.warmReset.jobCtr = s.jobCtr := rfl
@[simp] theorem State.warmReset_waiting (s : State) : s.warmReset.waiting = [] := rfl
@[simp] theorem State.warmReset_passesWanted (s : State) : s.warmReset.passesWanted = 0 := rfl
@[simp] theorem State.warmReset_engine0 (s : State) : s.warmReset.engine0 = none := rfl
@[simp] theorem State.warmReset_engine1 (s : State) : s.warmReset.engine1 = none := rfl
@[simp] theorem State.warmReset_lastGranted (s : State) : s.warmReset.lastGranted = 15 := rfl
@[simp] theorem State.warmReset_meters (s : State) : s.warmReset.meters = s.meters := rfl
@[simp] theorem State.warmReset_alerts (s : State) : s.warmReset.alerts = [] := rfl
@[simp] theorem State.warmReset_cleared (s : State) : s.warmReset.cleared = [] := rfl
@[simp] theorem State.warmReset_alertCtr (s : State) : s.warmReset.alertCtr = s.alertCtr := rfl
@[simp] theorem State.warmReset_shopOut (s : State) : s.warmReset.shopOut = s.shopOut := rfl
@[simp] theorem State.warmReset_lineOut (s : State) : s.warmReset.lineOut = s.lineOut := rfl
@[simp] theorem State.warmReset_freeCtr (s : State) : s.warmReset.freeCtr = s.freeCtr := rfl
@[simp] theorem State.warmReset_line (s : State) (p : LineNo) : s.warmReset.line p = warmLine s.live (s.line p) := by
  simp [State.warmReset, State.line]
@[simp] theorem State.warmReset_account (s : State) (a : AccountNo) :
    s.warmReset.account a = warmAccount (s.account a) := by
  simp [State.warmReset, State.account]
@[simp] theorem State.warmReset_rosterOf (s : State) (p : LineNo) : s.warmReset.rosterOf p = s.rosterOf p := by
  simp only [State.warmReset, State.rosterOf]

/-! ### State.powerUp -/

@[simp] theorem State.powerUp_pending (s : State) (straps : BitVec 4) : (s.powerUp straps).pending = s.pending := rfl
@[simp] theorem State.powerUp_live (s : State) (straps : BitVec 4) : (s.powerUp straps).live = .configuring := rfl
@[simp] theorem State.powerUp_straps (s : State) (straps : BitVec 4) : (s.powerUp straps).straps = straps := rfl
@[simp] theorem State.powerUp_window (s : State) (straps : BitVec 4) : (s.powerUp straps).window = none := rfl
@[simp] theorem State.powerUp_readout (s : State) (straps : BitVec 4) : (s.powerUp straps).readout = none := rfl
@[simp] theorem State.powerUp_timeBase (s : State) (straps : BitVec 4) : (s.powerUp straps).timeBase = 0 := rfl
@[simp] theorem State.powerUp_route (s : State) (straps : BitVec 4) : (s.powerUp straps).route = Vector.replicate 32 RouteRow.reset := rfl
@[simp] theorem State.powerUp_group (s : State) (straps : BitVec 4) : (s.powerUp straps).group = Vector.replicate 8 GroupRow.reset := rfl
@[simp] theorem State.powerUp_accounts (s : State) (straps : BitVec 4) : (s.powerUp straps).accounts = Vector.replicate 256 Account.reset := rfl
@[simp] theorem State.powerUp_rate (s : State) (straps : BitVec 4) : (s.powerUp straps).rate = Vector.replicate 4 (Vector.replicate 4 0) := rfl
@[simp] theorem State.powerUp_media (s : State) (straps : BitVec 4) : (s.powerUp straps).media = Vector.replicate 16 16 := rfl
@[simp] theorem State.powerUp_tier (s : State) (straps : BitVec 4) : (s.powerUp straps).tier = Vector.replicate 4 ⟨0, 0⟩ := rfl
@[simp] theorem State.powerUp_pattern (s : State) (straps : BitVec 4) : (s.powerUp straps).pattern = Vector.replicate 24 PatternRow.reset := rfl
@[simp] theorem State.powerUp_roster (s : State) (straps : BitVec 4) : (s.powerUp straps).roster = Vector.replicate 16 Roster.reset := rfl
@[simp] theorem State.powerUp_settings (s : State) (straps : BitVec 4) : (s.powerUp straps).settings = Settings.reset straps := rfl
@[simp] theorem State.powerUp_free (s : State) (straps : BitVec 4) : (s.powerUp straps).free = ascending Config.blocks 0 := rfl
@[simp] theorem State.powerUp_pool (s : State) (straps : BitVec 4) : (s.powerUp straps).pool = Config.sheetRecords := rfl
@[simp] theorem State.powerUp_quarantine (s : State) (straps : BitVec 4) : (s.powerUp straps).quarantine = [] := rfl
@[simp] theorem State.powerUp_spoolLow (s : State) (straps : BitVec 4) : (s.powerUp straps).spoolLow = false := rfl
@[simp] theorem State.powerUp_dram (s : State) (straps : BitVec 4) : (s.powerUp straps).dram = [] := rfl
@[simp] theorem State.powerUp_stores (s : State) (straps : BitVec 4) : (s.powerUp straps).stores = [] := rfl
@[simp] theorem State.powerUp_held (s : State) (straps : BitVec 4) : (s.powerUp straps).held = [] := rfl
@[simp] theorem State.powerUp_jobs (s : State) (straps : BitVec 4) : (s.powerUp straps).jobs = [] := rfl
@[simp] theorem State.powerUp_jobCtr (s : State) (straps : BitVec 4) : (s.powerUp straps).jobCtr = 0 := rfl
@[simp] theorem State.powerUp_waiting (s : State) (straps : BitVec 4) : (s.powerUp straps).waiting = [] := rfl
@[simp] theorem State.powerUp_passesWanted (s : State) (straps : BitVec 4) : (s.powerUp straps).passesWanted = 0 := rfl
@[simp] theorem State.powerUp_lines (s : State) (straps : BitVec 4) : (s.powerUp straps).lines = Vector.replicate 16 Line.reset := rfl
@[simp] theorem State.powerUp_engine0 (s : State) (straps : BitVec 4) : (s.powerUp straps).engine0 = none := rfl
@[simp] theorem State.powerUp_engine1 (s : State) (straps : BitVec 4) : (s.powerUp straps).engine1 = none := rfl
@[simp] theorem State.powerUp_lastGranted (s : State) (straps : BitVec 4) : (s.powerUp straps).lastGranted = 15 := rfl
@[simp] theorem State.powerUp_meters (s : State) (straps : BitVec 4) : (s.powerUp straps).meters = Vector.replicate 16 Meter.zero := rfl
@[simp] theorem State.powerUp_alerts (s : State) (straps : BitVec 4) : (s.powerUp straps).alerts = [] := rfl
@[simp] theorem State.powerUp_cleared (s : State) (straps : BitVec 4) : (s.powerUp straps).cleared = [] := rfl
@[simp] theorem State.powerUp_alertCtr (s : State) (straps : BitVec 4) : (s.powerUp straps).alertCtr = 0 := rfl
@[simp] theorem State.powerUp_shopOut (s : State) (straps : BitVec 4) : (s.powerUp straps).shopOut = s.shopOut := rfl
@[simp] theorem State.powerUp_lineOut (s : State) (straps : BitVec 4) : (s.powerUp straps).lineOut = s.lineOut := rfl
@[simp] theorem State.powerUp_freeCtr (s : State) (straps : BitVec 4) : (s.powerUp straps).freeCtr = s.freeCtr := rfl
@[simp] theorem State.powerUp_line (s : State) (straps : BitVec 4) (p : LineNo) :
    (s.powerUp straps).line p = Line.reset := by
  simp [State.line]
@[simp] theorem State.powerUp_account (s : State) (straps : BitVec 4) (a : AccountNo) :
    (s.powerUp straps).account a = Account.reset := by
  simp [State.account]
@[simp] theorem State.powerUp_rosterOf (s : State) (straps : BitVec 4) (p : LineNo) :
    (s.powerUp straps).rosterOf p = Roster.reset := by
  simp [State.rosterOf]

end Sys2Proof.Machine
end

