-- ==== Sys2Proof/Tests/Slice0.lean ====
section
/-! SUPPORT. Tests: the ill-formed commands that WellFormed refuses, small runs of one command each, the manual's worked figures, and for every statement with hypotheses a state and operands that meet them. -/

namespace Sys2Proof.Tests

open Sys2Proof.Machine

set_option maxRecDepth 100000
set_option Elab.async false

/-! ### Helpers -/

/-- The sender of the frames below. -/
def sender : Station := 0x020000000001#48

/-- A LIVE part with three free blocks and low marks that a test can read off. -/
def base : State :=
  { State.reset with
    live := .live
    free := [5, 6, 7]
    settings := { State.reset.settings with lowWater := 1, ingestFloor := 0 } }

/-- The same, CONFIGURING. -/
def cold : State := { base with live := .configuring }

/-- The same, with a management list that does not name the sender. -/
def guarded : State :=
  { base with settings := { base.settings with port :=
      { base.settings.port with stations := base.settings.port.stations.set 0 0x0200000000AA#48 } } }

/-- A job frame. -/
def fr (job sheet offset : Nat) (body : List Byte) : ShopFrame :=
  { dst := 0x02524E000000#48
    src := sender
    etherType := 0x8A5C#16
    fcsGood := true
    version := 1
    tag := 7
    job := BitVec.ofNat 16 job
    sheet := BitVec.ofNat 16 sheet
    offset := BitVec.ofNat 32 offset
    length := BitVec.ofNat 16 body.length
    rest := body }

/-- A MANAGE frame with the given arguments. -/
def req (args : List Byte) : ShopFrame := { fr 0 0 0 args with length := BitVec.ofNat 16 (args.length + 1) }

/-- The state of an outcome. -/
def out : Host.Outcome State Fault Refusal → State
  | .next s => s
  | .fault _ => base
  | .refused _ => base

/-- The last frame sent on the shop port, as a status and a body. -/
def lastStatus (s : State) : Option (Status × List Byte) :=
  match s.shopOut.getLast? with
  | some (.reply r) => some (r.status, r.body)
  | some (.alert _) => none
  | none => none

/-- A ROUTE row that takes every job. -/
def anyRow : RouteRow := { RouteRow.reset with valid := true, moveAllowed := true, group := 1 }

/-- The body of a JOB OPEN: reference 9, account 2, kind 1, priority 2, 2 copies, media 0, retain and move. -/
def openBody : List Byte := [0, 9, 2, 1, 2, 2, 0, 1, 3]

/-- A job as JOB OPEN makes it. -/
def jobA : Job := newJob 1 sender (openFields openBody) anyRow

/-- A complete sheet of 300 bytes in block 4. -/
def sheetA : Sheet := { freshSheet 1 0 with state := .complete, received := 300, chain := [4] }

/-- An open sheet that fills block 4. -/
def sheetB : Sheet := { freshSheet 1 0 with received := 4096, chain := [4] }

/-- A waiting job with one complete sheet. -/
def jobW : Job := { jobA with sheets := [sheetA], run := .waiting }

/-- The same job feeding printer 3. -/
def jobF : Job := { jobW with run := .feeding, bound := some 3 }

/-- A state that holds one job. -/
def holding (x : Job) : State := { base with jobs := [x] }

/-- Its waiting form is in the waiting list. -/
def waitingS : State := { holding jobW with waiting := [1] }

/-- The entry of its first sheet-copy, all bytes moved. -/
def entryA : Entry :=
  { job := 1, copy := 0, sheet := 0, tag := 0, cost := 10, sides := 1, moved := 300, flushing := false }

/-- Printer 3 READY with the job feeding and nothing in flight. -/
def feedS : State :=
  (holding jobF).modLine 3 fun l =>
    { l with state := .ready, queue := [1], feeding := some 1, credits := 5, capacity := 5 }

/-- The same with one entry in flight, its cost reserved. -/
def flightS : State :=
  ((holding { jobF with dispatch := ⟨0, 1⟩ }).modLine 3 fun l =>
    { l with state := .ready, queue := [1], feeding := some 1, credits := 2, capacity := 5, inflight := [entryA],
             tagCtr := 1 }).modAccount 2 fun a => { a with reservedCost := 10, reservedSides := 1 }

/-- Printer 3 in a given state. -/
def lineIn (st : LineState) : State := base.modLine 3 fun l => { l with state := st }

/-! ### Well-formedness -/

theorem test_wf_request_without_body : WellFormed (.goLive (fr 0 0 0 [])) = false := by decide
theorem test_wf_request : WellFormed (.goLive (req [])) = true := by decide
theorem test_wf_known_code : WellFormed (.unknownRequestCode (fr 0 0 0 [23])) = false := by decide
theorem test_wf_unknown_code : WellFormed (.unknownRequestCode (fr 0 0 0 [24])) = true := by decide
theorem test_wf_job_zero : WellFormed (.sheetDataStoreEnd 0) = false := by decide
theorem test_wf_alert_number : WellFormed (.reminderTimerExpiry 65536) = false := by decide
theorem test_wf_warm_with_full_mode : WellFormed (.resetWarm (req [2])) = false := by decide
theorem test_wf_full_with_warm_mode : WellFormed (.resetFull (req [1])) = false := by decide
theorem test_wf_empty_status : WellFormed (.status 0 []) = false := by decide
theorem test_wf_long_status : WellFormed (.status 0 (List.replicate 33 0)) = false := by decide

/-- A READY frame with its right CRC is no discarded frame; with a wrong one it is. -/
theorem test_wf_discarded_frame :
    WellFormed (.lineFrameDiscarded 0 ⟨69, 0, [], crc16 [69, 0, 0]⟩) = false ∧
    WellFormed (.lineFrameDiscarded 0 ⟨69, 0, [], crc16 [69, 0, 0] + 1⟩) = true := by decide +kernel

/-! ### Bytes -/

theorem test_crc_of_123456789 :
    crc16 [0x31#8, 0x32#8, 0x33#8, 0x34#8, 0x35#8, 0x36#8, 0x37#8, 0x38#8, 0x39#8] = 0x29B1#16 := by decide +kernel

theorem test_wake_on_the_wire :
    lineFrameWire (.control .wake) = 0xA5#8 :: [4, 0, 0] ++ be 2 (crc16 [4, 0, 0]).toNat := by decide +kernel

theorem test_no_word_spells_a_command : decodeTableWord 32 7 = none := rfl

/-! ### The job frames -/

theorem test_job_open :
    let t := out (exec (.jobOpen (fr 0 0 0 openBody)) { base with route := base.route.set 0 anyRow })
    t.jobs = [jobA] ∧ lastStatus t = some (.ok, [0, 9]) := by decide +kernel

theorem test_sheet_data_stores :
    let t := out (exec (.sheetData (fr 1 0 0 [0x41, 0x42])) (holding jobA))
    t.stores.map (fun u => (u.job, u.offset, u.bytes)) = [(1, 0, [0x41#8, 0x42#8])] ∧ t.free = [6, 7] ∧
      t.shopOut = [] := by decide +kernel

theorem test_sheet_data_gap :
    lastStatus (out (exec (.sheetData (fr 1 0 4097 [0x41])) (holding { jobA with sheets := [sheetB] }))) =
      some (.gap, [0, 0, 16, 0]) := by decide +kernel

theorem test_store_end :
    let t := out (exec (.sheetDataStoreEnd 1)
      (out (exec (.sheetData (fr 1 0 0 [0x41, 0x42])) (holding jobA))))
    t.dram = [(5 * 4096, 0x41#8), (5 * 4096 + 1, 0x42#8)] ∧ t.stores = [] ∧
      lastStatus t = some (.ok, [0, 0, 0, 2]) := by decide +kernel

theorem test_sheet_end :
    let t := out (exec (.sheetEnd (fr 1 0 0 [0, 0, 16, 0, 0, 1, 2, 9])) (holding { jobA with sheets := [sheetB] }))
    t.waiting = [1] ∧ t.jobs.map (fun x => x.sheets.map fun h => (h.state, h.front, h.back)) =
      [[(SheetState.complete, 2, 2)]] := by decide +kernel

theorem test_job_close_without_sheets :
    (out (exec (.jobClose (fr 1 0 0 [])) (holding jobA))).jobs.map (fun x => x.run) = [.done] := by decide +kernel

theorem test_job_cancel :
    (out (exec (.jobCancel (fr 1 0 0 [])) waitingS)).jobs.map (fun x => (x.run, x.sheets)) =
      [(.cancelled, [])] := by decide +kernel

theorem test_dropped_frame :
    exec (.shopFrameDropped ⟨0, 0, 0, false, []⟩) base = .next base := rfl

/-! ### Management -/

theorem test_go_live :
    let t := out (exec (.goLive (req [])) cold)
    t.live = .live ∧ (t.line 15).control = [.resync] := by decide +kernel

theorem test_read_status : lastStatus (out (exec (.readStatus (req [1, 0, 16])) base)) = some (.badRequest, []) := by
  decide +kernel

theorem test_table_window :
    lastStatus (out (exec (.tableWindow (req [5, 0, 14, 0, 99, 0, 9])) base)) =
      some (.ok, [5, 0, 14, 0, 15, 0, 0]) := by decide +kernel

/-- A window of one row of a table, from a cell on. -/
def windowAt (t : Table) (r c lastCell : Nat) : State :=
  { base with window := some ⟨t, r, r, c, lastCell, some (r, c), none⟩ }

/-- Interval, limit, floor and low water in one write: SPOOL LOW rises with the interval that stood before it. -/
theorem test_spool_low_keeps_the_old_interval :
    let t := out (exec (.tableWrite (req (4 :: (be 8 5000 ++ be 8 3 ++ be 8 0 ++ be 8 4)))) (windowAt .settings 0 13 18))
    t.settings.reminderInterval = 5000 ∧ t.spoolLow = true ∧
      t.alerts.map (fun r => (r.kind, r.timer)) = [(.spoolLow, .running 60000)] := by decide +kernel

theorem test_group_write_binds :
    let s := { windowAt .group 1 0 16 with jobs := [jobW], waiting := [1], lines := (lineIn .ready).lines }
    let t := out (exec (.tableWrite (req (3 :: (be 8 2 ++ be 8 3 ++ be 8 3)))) s)
    t.group[1].count = 1 ∧ t.waiting = [] ∧ t.jobs.map (fun x => x.bound) = [some 3] := by decide +kernel

theorem test_clamped_count_above_a_byte :
    countByte 255 = [255] ∧ countByte 256 = [Config.countAbove 256] := ⟨by decide, rfl⟩

/-- A window of two MEDIA rows, with both cursors at its end. -/
def mediaWindow : Window := ⟨.media, 14, 15, 0, 0, none, none⟩

theorem test_table_write :
    let t := out (exec (.tableWrite (req (3 :: (be 8 300 ++ be 8 7 ++ be 8 9)))) { base with window := some mediaWindow })
    t.media[14] = 255 ∧ t.media[15] = 7 ∧ lastStatus t = some (.ok, [2, 1, 0, 1, 255, 255, 255]) := by decide +kernel

theorem test_table_write_continue_at_end :
    lastStatus (out (exec (.tableWriteContinue (req (1 :: be 8 300))) { base with window := some mediaWindow })) =
      some (.ok, [0, 0, 0, 1, 255, 255, 255]) := by decide +kernel

theorem test_table_read :
    lastStatus (out (exec (.tableRead (req [])) { base with window := some mediaWindow })) =
      some (.last, [0, 14, 0, 2] ++ be 8 16 ++ be 8 16) := by decide +kernel

theorem test_table_read_continue_without_window :
    lastStatus (out (exec (.tableReadContinue (req [])) base)) = some (.badWindow, []) := by decide +kernel

theorem test_unknown_request :
    lastStatus (out (exec (.unknownRequestCode (fr 0 0 0 [24])) base)) = some (.badRequest, []) := by decide +kernel

/-! ### Accounts and meters -/

theorem test_adjust_limit :
    (out (exec (.adjustLimit (req ([0, 4] ++ be 8 9))) base)).accounts[4].limit = 9 := by decide +kernel

theorem test_close_period : (out (exec (.closePeriod (req [0, 4])) base)).accounts[4].period = 1 := by
  decide +kernel

theorem test_read_meters_start_bad_scope :
    lastStatus (out (exec (.readMetersStart (req [2, 0])) base)) = some (.badRequest, []) := by decide +kernel

theorem test_read_meters_next_empty :
    lastStatus (out (exec (.readMetersNext (req [])) base)) = some (.noReadout, []) := by decide +kernel

/-! ### Job control -/

theorem test_hold_job :
    let t := out (exec (.holdJob (req [0, 1])) waitingS)
    t.jobs.map (fun x => (x.run, x.holdReason)) = [(.held, some .operator)] ∧ t.waiting = [] := by decide +kernel

theorem test_release_job :
    (out (exec (.releaseJob (req [0, 1])) (holding { jobW with run := .held, holdReason := some .operator }))).waiting =
      [1] := by decide +kernel

theorem test_cancel_job :
    (out (exec (.cancelJob (req [0, 1])) waitingS)).jobs.map (fun x => x.run) = [.cancelled] := by decide +kernel

theorem test_purge_job :
    let t := out (exec (.purgeJob (req [0, 1])) (holding { jobW with run := .done }))
    t.jobs = [] ∧ t.free = [5, 6, 7, 4] := by decide +kernel

theorem test_reprint_job :
    (out (exec (.reprintJob (req [0, 1, 1, 0])) (holding { jobW with run := .done }))).jobs.map
      (fun x => (x.run, x.copies)) = [(.waiting, 255)] := by decide +kernel

theorem test_move_job :
    (out (exec (.moveJob (req [0, 1, 7])) waitingS)).jobs.map (fun x => x.group) = [7] := by decide +kernel

/-! ### Printer control -/

theorem test_standby :
    let t := out (exec (.standbyRequest (req [3])) (lineIn .ready))
    (t.line 3).state = .standby ∧ (t.line 3).control = [.standby] := by decide +kernel

theorem test_wake :
    let t := out (exec (.wakeRequest (req [3])) (lineIn .standby))
    (t.line 3).state = .waking ∧ (t.line 3).control = [.wake] ∧ (t.line 3).settle = .running 20000 := by
  decide +kernel

theorem test_retire : ((out (exec (.retireRequest (req [3])) base)).line 3).state = .retired := by decide +kernel

theorem test_return :
    let t := out (exec (.returnRequest (req [3])) (lineIn .retired))
    (t.line 3).state = .down ∧ (t.line 3).control = [.resync] := by decide +kernel

/-! ### Alerts and resets -/

/-- One JAM record in a given state. -/
def alertS (st : AlertState) : State :=
  { base with
    alerts := [{ newAlert base 4 .jam (.printer 3) Detail.none with state := st }]
    cleared := if st = .cleared then [4] else [] }

theorem test_ack_alert :
    (out (exec (.ackAlert (req [0, 4])) (alertS .raised))).alerts.map (fun r => (r.state, r.timer)) =
      [(.acked, .stopped)] ∧
    (out (exec (.ackAlert (req [0, 4])) (alertS .cleared))).alerts = [] := by decide +kernel

theorem test_reminder :
    let s := { alertS .raised with alerts := [{ newAlert base 4 .jam (.printer 3) Detail.none with timer := .running 0 }] }
    (out (exec (.reminderTimerExpiry 4) s)).alerts.map (fun r => (r.reminders, r.timer)) =
      [(1, .running 60000)] := by decide +kernel

theorem test_reset_warm_keeps_the_pace :
    let t := base.warmReset
    (t.line 3).pace = 2000 ∧ (t.line 3).control = [.resync] ∧ t.pool = 4096 := by decide +kernel

theorem test_reset_refuses_another_mode :
    lastStatus (out (exec (.resetFull (req [0])) base)) = some (.badRequest, []) ∧
    lastStatus (out (exec (.resetWarm (req [3])) base)) = some (.badRequest, []) := by decide +kernel

theorem test_power_on_samples_the_straps :
    (out (exec (.powerOn 9) base)).settings.port.station = 0x02524E000009#48 := by decide +kernel

/-! ### The lines -/

theorem test_hello :
    let t := out (exec (.hello 3 5 0 9) base)
    (t.line 3).state = .waking ∧ (t.line 3).credits = 5 ∧ (t.line 3).silence = .running 100 := by decide +kernel

/-- Two passes of one event: the first drops the exclusion of the unbound job, the second binds it again (R29). -/
theorem test_hello_runs_a_pass_for_each_request :
    let s := { feedS with
      group := base.group.set 1 ⟨1, Vector.replicate 16 3⟩
      jobs := [{ jobF with run := .leaving, leaveTarget := some .waitingExclude, dispatch := ⟨0, 1⟩ }] }
    let t := out (exec (.hello 3 5 0 9) (s.modLine 3 fun l =>
      { l with state := .blocked, feeding := none, inflight := [entryA] }))
    t.waiting = [] ∧ (t.line 3).queue = [1] ∧ t.jobs.map (fun x => (x.bound, x.excluded)) = [(some 3, none)] := by
  decide +kernel

theorem test_credit : ((out (exec (.credit 3 9) feedS)).line 3).credits = 5 := by decide +kernel

theorem test_sheet_done :
    let t := out (exec (.sheetDone 3 0) flightS)
    (t.line 3).inflight = [] ∧ (t.account 2).chargedCost = 10 ∧ (t.account 2).reservedCost = 0 ∧
      t.jobs.map (fun x => x.confirm) = [⟨0, 1⟩] := by decide +kernel

theorem test_sheet_done_of_another_tag :
    let t := out (exec (.sheetDone 3 1) flightS)
    (t.line 3).flush.fault = true ∧ t.alerts.map (fun r => r.kind) = [.protocolFault] := by decide +kernel

/-- A row that reads "J" as a JAM raise. -/
def jamRow : PatternRow := { PatternRow.reset with valid := true, bytes := Vector.replicate 8 0x4A }

theorem test_status_jam :
    let t := out (exec (.status 3 [0x4A]) { flightS with pattern := flightS.pattern.set 0 jamRow })
    (t.line 3).state = .blocked ∧ (t.line 3).flush.block = true ∧ (t.line 3).control = [.cancelSheets] ∧
      t.meters[3].blocks = 1 := by decide +kernel

theorem test_ready : ((out (exec (.ready 3) (lineIn .waking))).line 3).state = .ready := by decide +kernel

theorem test_flushed :
    let t := out (exec (.flushed 3) (flightS.requestFlush 3 .cancel))
    (t.line 3).inflight = [] ∧ (t.line 3).credits = 5 ∧ (t.account 2).reservedCost = 0 ∧
      t.jobs.map (fun x => (x.run, x.dispatch)) = [(.feeding, ⟨0, 0⟩)] := by decide +kernel

theorem test_receive_activity :
    let s := base.modLine 3 fun l => { l with silence := .running 1 }
    ((out (exec (.idleSignalling 3) s)).line 3).silence = .running 100 ∧
    ((out (exec (.lineFrameDiscarded 3 ⟨0, 0, [], 0⟩) s)).line 3).silence = .running 100 := by decide +kernel

theorem test_transmit_takes_the_control_frame :
    ((out (exec (.lineTransmitFrame 3) (base.modLine 3 fun l => { l with control := [.wake] }))).line 3).sending =
      some (.control .wake) := by decide +kernel

theorem test_signal_between_frames :
    base.lineSignal 3 = .idle ∧ cold.lineSignal 3 = .silent ∧
    (base.modLine 3 fun l => { l with sending := some (.control .wake) }).lineSignal 3 =
      .frame (lineFrameWire (.control .wake)) := by decide +kernel

theorem test_settle_and_wake_limit_expiries :
    let s := (lineIn .waking).modLine 3 fun l =>
      { l with settle := .running 0, wakeLimit := .running 0, readySeen := true }
    ((out (exec (.settleExpiry 3) s)).line 3).state = .ready ∧
    ((out (exec (.wakeLimitExpiry 3) s)).line 3).state = .down ∧
    ((out (exec (.wakeLimitExpiry 3) s)).line 3).control = [.resync] := by decide +kernel

theorem test_min_awake_and_idle_expiries :
    let s := (lineIn .ready).modLine 3 fun l =>
      { l with minAwake := .running 0, idle := .running 0, standbyPending := true }
    ((out (exec (.minAwakeExpiry 3) s)).line 3).state = .standby ∧
    ((out (exec (.idleTimerExpiry 3) s)).line 3).state = .standby := by decide +kernel

theorem test_flush_limit_and_silence_expiries :
    let s := flightS.modLine 3 fun l => { l with flushLimit := .running 0, silence := .running 0 }
    ((out (exec (.flushLimitExpiry 3) s)).line 3).state = .down ∧
    (out (exec (.silenceMonitorExpiry 3) s)).waiting = [1] := by decide +kernel

theorem test_stall_and_move_expiries :
    let s := flightS.modLine 3 fun l =>
      { l with stall := .running 0, moveDelay := .running 0, state := .blocked, blockOrigin := some .ready }
    ((out (exec (.stallTimerExpiry 3) s)).line 3).stalled = true ∧
    ((out (exec (.moveDelayExpiry 3) s)).line 3).flush.move = true := by decide +kernel

/-! ### Dispatch and feed -/

theorem test_sheet_start :
    let t := out (exec (.sheetStart 3) feedS)
    (t.line 3).fifo = [.start 0 300 0 1 1 0 0] ∧ (t.line 3).tagCtr = 1 ∧
      t.jobs.map (fun x => x.dispatch) = [⟨0, 1⟩] := by decide +kernel

theorem test_sheet_start_over_quota :
    let s := { feedS with
      rate := Vector.replicate 4 (Vector.replicate 4 9)
      accounts := feedS.accounts.set 2 { Account.reset with limited := true } }
    let t := out (exec (.sheetStart 3) s)
    t.jobs.map (fun x => (x.run, x.holdReason)) = [(.held, some .quota)] ∧ (t.account 2).quotaHeld = [1] := by
  decide +kernel

/-- The entry of `flightS` with no byte moved yet. -/
def movingS : State := flightS.modLine 3 fun l => { l with inflight := [{ entryA with moved := 0 }] }

theorem test_burst_grant :
    let t := out (exec .burstGrant movingS)
    t.engine0 = some 3 ∧ t.lastGranted = 3 ∧ (t.line 3).credits = 1 ∧
      (t.line 3).burst.map (fun b => (b.block, b.offset, b.count)) = some (some 4, 0, 256) := by decide +kernel

theorem test_burst_completion :
    let t := out (exec (.burstCompletion 3 false) (out (exec .burstGrant movingS)))
    t.engine0 = none ∧ fifoFill (t.line 3).fifo = 256 ∧ (t.line 3).inflight.map (fun e => e.moved) = [256] := by
  decide +kernel

theorem test_burst_read_error :
    let t := out (exec (.burstCompletion 3 true) (out (exec .burstGrant movingS)))
    t.jobs.map (fun x => x.run) = [.failed] ∧ t.quarantine = [4] ∧ (t.line 3).flush.fail = true := by decide +kernel

/-! ### The manual's worked figures -/

/-- The cost of one duplex sheet (example after R123), and the edges of the range. -/
theorem test_cost_examples :
    costOf #v[120, 260, 410, 0] 24 true 48000 [⟨10000, 3⟩, ⟨50000, 8⟩, ⟨40000, 5⟩, ⟨0, 20⟩] 50
      { sheetA with sides := 2, front := 2, back := 0 } = 756 ∧
    costOf #v[65535, 0, 0, 0] 255 true 1 [⟨1, 50⟩] 0 { sheetA with sides := 2 } = 1044464 ∧
    costOf #v[1, 0, 0, 0] 7 false 0 [] 0 sheetA = 0 ∧ costOf #v[19, 0, 0, 0] 16 true 1 [⟨1, 50⟩] 0 sheetA = 10 ∧
    costOf #v[100, 0, 0, 0] 1 false 0 [] 0 { sheetA with sides := 2, back := 3 } = 6 := by decide +kernel

/-- Samples at the clamps and one busy run (examples after R106). -/
theorem test_pace_examples :
    smoothPace 100 (paceSample 75000 0) = 7587 ∧ smoothPace 60000 (paceSample 40 0) = 52513 ∧
    smoothPace 2000 2007 = 2000 ∧ smoothPace 2000 1992 = 1999 ∧ smoothPace 2000 2600 = 2075 ∧
    smoothPace 2075 1000 = 1941 := by decide +kernel

/-- Job numbers after a wrap (example after R24). -/
theorem test_number_examples :
    allocate [65534, 1, 2] 129 65533 = some 65535 ∧ allocate [65534, 65535, 1, 2] 129 65535 = some 3 := by
  decide +kernel

/-- A group row written with a repeat (example after R27). -/
theorem test_group_example :
    (normaliseGroup ⟨5, #v[4, 9, 4, 11, 9, 0, 0, 0, 0, 0, 0, 0, 0, 0, 0, 0]⟩) =
      ⟨3, #v[4, 9, 11, 0, 0, 0, 0, 0, 0, 0, 0, 0, 0, 0, 0, 0]⟩ ∧
    (normaliseGroup ⟨2, #v[4, 4, 7, 8, 0, 0, 0, 0, 0, 0, 0, 0, 0, 0, 0, 9]⟩) =
      ⟨1, #v[4, 7, 8, 0, 0, 0, 0, 0, 0, 0, 0, 0, 0, 0, 9, 0]⟩ ∧
    normaliseGroup ⟨0, #v[4, 4, 7, 0, 0, 0, 0, 0, 0, 0, 0, 0, 0, 0, 0, 0]⟩ =
      ⟨0, #v[4, 4, 7, 0, 0, 0, 0, 0, 0, 0, 0, 0, 0, 0, 0, 0]⟩ := by decide +kernel

/-- The walk of the arbiter from line 14 (example after R70). -/
theorem test_walk_example : (walkFrom 14).take 3 = [15, 0, 1] ∧ (walkFrom 3).getLast? = some 3 := by decide +kernel

/-! ### States and operands that meet the statements' hypotheses -/

/-- A state that meets every law, with a command in its queue. -/
def busyS : State := { feedS with pool := 4095, pending := [.credit 3 9] }

theorem test_witness_laws :
    DramLaw busyS ∧ CreditLaw busyS ∧ PaceLaw busyS ∧ FifoLaw busyS ∧ AlertTableLaw busyS ∧ QuarantineLaw busyS ∧
      NoPassWanted busyS ∧ IdleLaw busyS := by decide +kernel

theorem test_witness_record_law : SheetRecordLaw busyS := by decide +kernel

set_option synthInstance.maxSize 2000 in
theorem test_witness_scheduler_law :
    (SchedulerLaw busyS ∧ AccountLaw busyS) ∧ SchedulerLaw flightS ∧ AccountLaw flightS := by decide +kernel

theorem test_witness_step : ∃ t, step busyS = .next t := ⟨_, rfl⟩

theorem test_witness_empty_queue :
    base.pending = [] ∧ dueEvents base = [] ∧ feedS.pending = [] ∧ dueEvents feedS = [.sheetStart 3] := by
  decide +kernel

theorem test_witness_not_accepted :
    base.accepts false { req [] with fcsGood := false } = false ∧ base.accepts false { req [] with src := 1#48 <<< 40 } = false ∧
    base.accepts false { req [] with dst := 0xFFFFFFFFFFFF#48 } = false ∧
    base.accepts true { req [] with dst := 0xFFFFFFFFFFFF#48 } = true ∧
    base.accepts true { req [] with etherType := 0x0800 } = false := by decide +kernel

theorem test_witness_malformed_requests :
    (base.accepts false { req [] with version := 2 } = true) ∧
    (base.accepts false { req [] with length := 2 } = true ∧ ({ req [] with length := 2 } : ShopFrame).rest.length + 1 < 2) ∧
    (guarded.accepts false (req []) = true ∧ guarded.isManager sender = false) ∧
    Requested base (req [1]) [1] ∧ Requested base (req [1, 2]) [1, 2] ∧ writeSized [1, 2] = false ∧
    ({ req [] with length := 0 } : ShopFrame).length.toNat = 0 ∧ base.isManager (req []).src = true ∧
    Requested base (req ([0, 0] ++ be 8 (2 ^ 48))) ([0, 0] ++ be 8 (2 ^ 48)) ∧
    2 ^ 48 ≤ (signed64 (field ([0, 0] ++ be 8 (2 ^ 48)) 2 8)).natAbs := by decide +kernel

/-- A store of job 1 under way. -/
def storingS : State :=
  { holding { jobA with sheets := [{ sheetB with received := 2 }] } with
    stores := [⟨1, 0, 0, [0x41, 0x42], fr 1 0 0 [0x41, 0x42], false⟩] }

theorem test_witness_malformed_job_frames :
    (base.accepts false { fr 1 0 0 [] with version := 0 } = true ∧ base.accepts false { fr 1 0 0 [] with length := 1 } = true) ∧
    (cold.live = .configuring ∧ cold.accepts false (fr 1 0 0 []) = true) ∧ base.live = .live ∧
    storingS.queued 1 = true ∧ base.queued 1 = false ∧ (fr 1 0 0 (List.replicate 1025 0)).length.toNat = 1025 := by
  decide +kernel

theorem test_witness_go_live :
    Requested base (req []) [] ∧ base.live = .live ∧ Requested cold (req []) [] ∧ cold.live = .configuring ∧
      NoPassWanted cold := by decide +kernel

theorem test_witness_read_status :
    StatusRequested base (req [0, 0, 0]) [0, 0, 0] ∧ StatusRequested base (req [1, 0, 15]) [1, 0, 15] ∧
    StatusRequested base (req [1, 0, 16]) [1, 0, 16] ∧ StatusRequested (holding jobA) (req [2, 0, 1]) [2, 0, 1] ∧
    (holding jobA).job? 1 = some jobA ∧ base.job? 1 = none ∧ StatusRequested base (req [3, 0, 0]) [3, 0, 0] ∧
    NoPassWanted (holding jobA) := by decide +kernel

theorem test_witness_table_window :
    (∀ n ∈ ([0, 1, 10, 11] : List Byte), Requested base (req [n, 0, 0, 0, 0, 0, 0]) [n, 0, 0, 0, 0, 0, 0]) ∧
    (tableOf 0 = none ∧ tableOf 1 = some .route ∧ tableOf 10 = some .jobs ∧ tableOf 11 = none) ∧
    (min (field [5, 0, 16, 0, 99, 0, 0] 3 2) (tableRows .media - 1) < field [5, 0, 16, 0, 99, 0, 0] 1 2) ∧
    base.window = none ∧ writeSized (1 :: be 8 3) = true ∧ Requested base (req (1 :: be 8 3)) (1 :: be 8 3) := by
  decide +kernel

/-- A state with the window of two MEDIA rows. -/
def windowS : State := { base with window := some mediaWindow }

theorem test_witness_table_write :
    Requested windowS (req (1 :: be 8 300)) (1 :: be 8 300) ∧ writeSized [0] = true ∧
    Requested windowS (req [0]) [0] ∧ windowS.window = some mediaWindow ∧ mediaWindow.table = .media ∧
    posAfter mediaWindow 1 (some (14, 0)) = some (15, 0) ∧ posAfter mediaWindow 2 (some (14, 0)) = none ∧
    (base.line 3).state = .down ∧ ((lineIn .ready).line 3).state = .ready ∧ (GroupRow.reset).count ≤ 16 := by
  decide +kernel

theorem test_witness_cell_writes :
    (∀ q ∈ numberCells, 0 < tableRows q.1 ∧ (base.line 0).state = .down) ∧ (∀ q ∈ codeCells, 0 < tableRows q.1) ∧
    (BitVec.ofNat 48 (min (2 ^ 48 - 1) (2 ^ 48))).getLsbD 40 = true ∧
    (BitVec.ofNat 48 (min (2 ^ 48 - 1) 2)).getLsbD 40 = false ∧
    (∀ t ∈ ([.group, .account, .roster] : List Table),
      Requested (windowAt t 1 2 4) (req (1 :: be 8 3)) (1 :: be 8 3) ∧ NoPassWanted (windowAt t 1 2 4) ∧
      (windowAt t 1 2 4).window.map (fun w => w.table) = some t ∧ (base.writeCell t 1 2 3).isSome = true) ∧
    (∀ c ∈ [0, 13, 16, 17, 18], Requested (windowAt .settings 0 c 18) (req (1 :: be 8 3)) (1 :: be 8 3)) ∧
    base.writeCell .account 1 4 3 = none ∧ (base.writeCell .settings 0 16 3).isSome = true := by decide +kernel

theorem test_witness_window_law :
    WindowLaw base ∧ WindowLaw windowS ∧ WindowLaw (windowAt .settings 0 16 18) ∧
    (∀ t ∈ ([.group, .account, .roster] : List Table), WindowLaw (windowAt t 1 2 4)) := by decide +kernel

theorem test_witness_table_read :
    Requested windowS (req []) [] ∧ NoPassWanted windowS ∧ mediaWindow.firstRow ≤ mediaWindow.lastRow ∧
      mediaWindow.read = none := by decide +kernel

theorem test_witness_accounts :
    Requested base (req ([0, 255] ++ be 8 9)) ([0, 255] ++ be 8 9) ∧
    Requested base (req ([1, 0] ++ be 8 9)) ([1, 0] ++ be 8 9) ∧ field ([0, 255] ++ be 8 9) 0 2 = 255 ∧
    (signed64 (field ([0, 4] ++ be 8 (2 ^ 64 - 1)) 2 8)) = -1 ∧
    Requested base (req [0xFF, 0xFF]) [0xFF, 0xFF] ∧ field [0xFF, 0xFF] 0 2 = 65535 ∧
    Requested base (req [1, 0]) [1, 0] ∧ field [1, 0] 0 2 = 256 := by decide +kernel

/-- A readout with one part left to send. -/
def readoutS (next : Nat) : State := { base with readout := some ⟨.accounts, [], next⟩ }

theorem test_witness_readout :
    Requested base (req [0, 0]) [0, 0] ∧ Requested base (req [0, 1]) [0, 1] ∧ Requested base (req [1, 1]) [1, 1] ∧
    Requested base (req [2, 0]) [2, 0] ∧ Requested (readoutS 14) (req []) [] ∧ base.readout = none ∧
    14 + 1 < partCount .accounts ∧ partCount .accounts ≤ 15 + 1 := by decide +kernel

theorem test_witness_job_control :
    (∀ c ∈ ([[0, 1], [0, 1, 0, 0], [0, 1, 7], [0, 1, 8]] : List (List Byte)), Requested base (req c) c) ∧
    base.job? (argJob [0, 1]) = none ∧ field [0, 1, 7] 2 1 = 7 ∧ 7 < field [0, 1, 8] 2 1 ∧
    (holding jobW).job? (argJob [0, 1]) = some jobW ∧ NoPassWanted (holding jobW) ∧
    completeCount jobW = 1 ∧ completeCount jobA = 0 := by decide +kernel

/-- The job in a run state, with a leave target and a hold reason. -/
def jobIn (r : RunState) (t : Option LeaveTarget) (h : Option HoldReason) : Job :=
  { jobW with run := r, leaveTarget := t, holdReason := h }

theorem test_witness_job_states :
    (∀ r ∈ ([.new, .waiting, .queued, .feeding, .draining, .leaving, .held, .done, .failed, .cancelled] : List RunState),
      ∀ t ∈ ([none, some .held, some .waiting] : List (Option LeaveTarget)),
      (holding (jobIn r t (some .quota))).job? 1 = some (jobIn r t (some .quota))) ∧
    jobW.retain = true ∧ Requested (holding jobW) (req [0, 1]) [0, 1] ∧
    Requested (holding jobW) (req [0, 1, 0, 2]) [0, 1, 0, 2] := by decide +kernel

theorem test_witness_purge :
    flightS.hasEntries 1 = true ∧ (holding jobW).hasEntries 1 = false ∧ storingS.storing 1 = true ∧
    storingS.hasEntries 1 = false ∧ (holding jobW).storing 1 = false := by decide +kernel

theorem test_witness_cancel :
    JobFrameTaken waitingS (fr 1 0 0 []) [] ∧ waitingS.queued 1 = false ∧ jobLive jobW = true ∧
    (fr 1 0 0 []).src = jobW.source ∧ guarded.isManager sender = false ∧
    ({ fr 1 0 0 [] with src := 2 } : ShopFrame).src ≠ jobW.source ∧
    ({ guarded with jobs := [jobW] } : State).job? 1 = some jobW := by decide +kernel

theorem test_witness_cancel_with_a_store_or_entries :
    JobFrameTaken storingS (fr 1 0 0 []) [] ∧ storingS.queued 1 = true ∧ storingS.held = [] ∧
    (∃ h ∈ [Held.frame .sheetEnd (fr 1 0 0 [])], heldIsFrame h = true ∧ heldJob h = 1) ∧
    (openSheet { jobA with sheets := [sheetB] }).isSome = true ∧ flightS.entryLine 1 = some 3 ∧
    (waitingS.hasEntries 1 = false ∧ waitingS.entryLine 1 ≠ some 3 ∧ jobW.bound ≠ some 3) ∧
    flushPending (flightS.line 3).flush = false ∧
    flushPending ((flightS.requestFlush 3 .fail).line 3).flush = true := by decide +kernel

theorem test_cancel_job_in_flight_takes_the_flush :
    let t := out (exec (.cancelJob (req [0, 1])) flightS)
    t.jobs.map (fun x => (x.run, x.sheets.length)) = [(.cancelled, 1)] ∧ (t.line 3).flush.cancel = true ∧
      (t.line 3).queue = [] := by decide +kernel

theorem test_witness_leaving :
    (holding jobF).job? 1 = some jobF ∧ jobF.bound = some 3 ∧ (holding jobF).hasEntries 1 = false ∧
    atEnd jobF jobF.confirm = false ∧ flightS.hasEntries 1 = true := by decide +kernel

/-- A waiting job of an EARLIEST group whose only member, printer 3, is READY. -/
def chooseS : State :=
  { lineIn .ready with
    jobs := [{ jobW with policy := .earliest }]
    group := base.group.set 1 ⟨1, Vector.replicate 16 3⟩ }

theorem test_witness_choice :
    chooseS.choosePrinter { jobW with policy := .earliest } = some 3 ∧ chooseS.choosePrinter jobW = some 3 ∧
    base.choosePrinter jobW = none ∧ chooseS.eligible jobW 3 = true ∧ waitingS.job? 1 = some jobW ∧
    jobW.policy = .spread ∧ (groupMembers chooseS.group[jobW.group])[(1 / 2 ^ 0 + 0) % 1]? = some 3 ∧
    ((lineIn .standby).line 3).state = .standby ∧ blockingPresent ((lineIn .standby).line 3).conditions = false := by
  decide +kernel

theorem test_witness_binding_pass :
    chooseS.job? 1 = some { jobW with policy := .earliest } ∧
    (holding { jobW with excluded := some 3 }).job? 1 = some { jobW with excluded := some 3 } ∧
    (holding { jobW with excluded := some 3 }).choosePrinter { jobW with excluded := some 3 } = none ∧
    base.job? 1 = none ∧ base.wantPass.passesWanted ≠ 0 ∧ NoPassWanted chooseS ∧
    (let s := (lineIn .blocked).modLine 3 fun l => { l with moveDelay := .running 0 }
     NoPassWanted s ∧ timerDue (s.line 3).moveDelay = true ∧ (s.line 3).state = .blocked ∧
     timerDue (base.line 3).moveDelay = false ∧ ∀ q : LineNo, q < 3 → (s.line q).state ≠ .blocked) ∧
    (∀ p, (base.line p).state ≠ .blocked) := by decide +kernel

/-- A pass binds the waiting job to the printer it chooses, and drops the exclusion of one it cannot bind. -/
theorem test_binding_pass :
    (let t := { chooseS with waiting := [1] }.pass
     t.waiting = [] ∧ (t.line 3).queue = [1] ∧ t.jobs.map (fun x => (x.run, x.bound)) = [(.feeding, some 3)]) ∧
    (let t := { holding { jobW with excluded := some 3 } with waiting := [1] }.pass
     t.waiting = [1] ∧ t.jobs = [jobW]) := by decide +kernel

theorem test_witness_printer_requests :
    Requested base (req [15]) [15] ∧ Requested base (req [16]) [16] ∧
    (∀ st ∈ ([.down, .waking, .ready, .standby, .blocked, .retiring, .retired] : List LineState),
      ((lineIn st).line 3).state = st ∧ NoPassWanted (lineIn st) ∧ Requested (lineIn st) (req [3]) [3]) ∧
    (feedS.line 3).queue ≠ [] ∧ (flightS.line 3).inflight ≠ [] ∧
    timerRuns ((lineIn .ready).line 3).minAwake = false ∧
    flushPending ((flightS.requestFlush 3 .cancel).line 3).flush = true ∧
    blockingPresent ⟨false, true, false, false⟩ = true := by decide +kernel

theorem test_witness_enter_retired :
    (feedS.line 3).queue = [1] ∧ (feedS.line 3).queue.Nodup ∧ feedS.job? 1 = some jobF ∧ jobF.run ≠ .leaving ∧
    (base.line 3).queue = [] ∧
    (∀ j ∈ ((feedS.modJob 1 fun _ => jobIn .leaving (some .held) none).line 3).queue,
      ((feedS.modJob 1 fun _ => jobIn .leaving (some .held) none).job? j).isSome = true) := by decide +kernel

theorem test_witness_spool_low :
    let at4 : State := { base with settings := { base.settings with lowWater := 4, highWater := 4 } }
    (base.spoolLow = false ∧ base.settings.lowWater ≤ base.free.length) ∧
    (at4.spoolLow = false ∧ at4.free.length < at4.settings.lowWater) ∧
    (({ at4 with spoolLow := true } : State).free.length < at4.settings.highWater) ∧
    (({ at4 with spoolLow := true, free := [1, 2, 3, 4] } : State).settings.highWater ≤ 4) := by decide +kernel

theorem test_witness_alerts :
    (∀ st ∈ ([.raised, .acked, .cleared] : List AlertState), Requested (alertS st) (req [0, 4]) [0, 4] ∧
      ((alertS st).alertNumbered 4).map (fun r => r.state) = some st) ∧
    (alertS .raised).alertNumbered 5 = none ∧ field [0, 0] 0 2 = 0 ∧ field [0, 4] 0 2 = 4 ∧
    (∀ st ∈ ([.raised, .acked, .cleared] : List AlertState),
      ((alertS st).alertOf .jam (.printer 3)).map (fun r => r.state) = some st) ∧
    AlertTableLaw (alertS .cleared) ∧
    base.alertOf .jam (.printer 3) = none ∧ base.alerts.length < 32 := by decide +kernel

theorem test_witness_reminder :
    let r : AlertRec := { newAlert base 4 .jam (.printer 3) Detail.none with timer := .running 0 }
    ({ base with alerts := [r] } : State).alertNumbered 4 = some r ∧ timerDue r.timer = true ∧
    timerDue (newAlert base 4 .jam (.printer 3) Detail.none).timer = false := by decide +kernel

/-- Thirty-two RAISED records: a table without a place. -/
def fullAlertsS : State :=
  { base with alerts := (List.range 32).map fun n => newAlert base (n + 1) .jobFailed (.job n) Detail.none }

theorem test_witness_full_alert_table :
    fullAlertsS.alertOf .jam (.printer 3) = none ∧ 32 ≤ fullAlertsS.alerts.length ∧ fullAlertsS.cleared = [] ∧
    fullAlertsS.alerts.length = 32 ∧ ({ fullAlertsS with cleared := [5] } : State).cleared = 5 :: [] := by
  decide +kernel

theorem test_witness_resets :
    Requested base (req [1]) [1] ∧ Requested base (req [2]) [2] ∧ Requested base (req [3]) [3] ∧ base.held = [] := by
  decide +kernel

theorem test_witness_job_open :
    JobFrameTaken base (fr 0 0 0 openBody) openBody ∧ openBody.length = 9 ∧
    (holding jobA).jobs.find? (isRepeat sender 9) = some jobA ∧ base.jobs.find? (isRepeat sender 9) = none ∧
    base.routeFor (openFields openBody) = none ∧
    ({ base with route := base.route.set 31 anyRow } : State).routeFor (openFields openBody) = some anyRow ∧
    128 ≤ ((List.range 128).map fun n => { jobW with number := n + 1 }).length ∧
    anyRow.valid = true ∧ anyRow.cls = none ∧ anyRow.kind = none ∧ anyRow.minPriority ≤ min 3 (field openBody 4 1) ∧
    RouteRow.reset.valid = false := by decide +kernel

theorem test_witness_sheet_data :
    JobFrameTaken (holding jobA) (fr 1 0 0 [0x41]) [0x41] ∧ (holding jobA).queued 1 = false ∧
    (holding jobA).job? 1 = some jobA ∧ jobA.ingest = .opened ∧ jobKilled jobA = false ∧ opensAt jobA 0 = true ∧
    sheetOf jobA 0 = none ∧ (holding jobA).blockAllowed jobA 0 = true ∧ opensAt jobA 1 = false ∧
    isOpenIndex jobA 0 = false ∧ jobKilled { jobA with run := .failed } = true ∧ base.job? 1 = none := by
  decide +kernel

theorem test_witness_sheet_data_segments :
    let x := { jobA with sheets := [sheetB] }
    isOpenIndex x 0 = true ∧ sheetOf x 0 = some sheetB ∧ (holding x).receivedOf 1 0 = 4096 ∧
    (blocksFor 4096 < blocksFor (4096 + 1)) ∧ ¬(blocksFor 4095 < blocksFor 4096) ∧
    ({ holding x with free := [] } : State).blockAllowed x 0 = false ∧
    ({ holding jobA with pool := 0 } : State).pool = 0 ∧
    16777216 < 16777216 + (List.replicate 1 0x41#8).length := by decide +kernel

theorem test_witness_store_end :
    storingS.stores.find? (fun t => decide (t.job = 1)) = some ⟨1, 0, 0, [0x41, 0x42], fr 1 0 0 [0x41, 0x42], false⟩ ∧
    storingS.held = [] ∧ NoPassWanted storingS ∧
    storingS.job? 1 = some { jobA with sheets := [{ sheetB with received := 2 }] } ∧
    (∀ t ∈ base.stores, t.job ≠ 1) ∧ Memory.wf [(7, 1#8), (9, 2#8)] = true ∧ ([4, 5] : List Block).Nodup ∧
    chainAddress [4, 5] 4096 = some (5 * 4096) := by decide +kernel

/-- The same job CANCELLED with a PURGE JOB taken, a SHEET END and a JOB CANCEL waiting behind its store. -/
def purgingS : State :=
  { storingS with
    jobs := storingS.jobs.map fun x => { x with run := .cancelled }
    stores := storingS.stores.map fun t => { t with purge := true }
    held := [.frame .sheetEnd (fr 1 0 0 [0, 0, 0, 2, 0, 0, 0, 0]), .frame .jobCancel (fr 1 0 0 [])] }

theorem test_witness_waiting_frames :
    (∃ t ∈ storingS.stores, t.job = (fr 1 0 0 []).job.toNat) ∧ JobFrameTaken storingS (fr 1 0 0 [9]) [9] ∧
    JobFrameTaken storingS (fr 1 0 0 (be 8 2)) (be 8 2) ∧ JobFrameTaken storingS (fr 1 0 0 []) [] ∧
    (∀ t ∈ base.stores, t.job ≠ 1) ∧ (∀ h ∈ base.held, heldJob h ≠ 1) ∧ JobFrameTaken base (fr 1 0 0 []) [] ∧
    (purgingS.stores.map fun t => t.purge) = [true] ∧ (purgingS.job? 1).map jobKilled = some true ∧
    (purgingS.job? 1).map (fun x => (sheetOf x 0).isSome) = some true ∧ purgingS.held ≠ [] := by decide +kernel

/-- The store ends, the purge frees the record, and the waiting frames find none (log 42). -/
theorem test_store_end_purges_then_takes_the_frames :
    let t := out (exec (.sheetDataStoreEnd 1) purgingS)
    t.jobs = [] ∧ t.free = [5, 6, 7, 4] ∧ t.held = [] ∧ t.stores = [] ∧
      t.shopOut.map (fun o => match o with | .reply r => some r.status | .alert _ => none) =
        [some .ok, some .unknownJob, some .unknownJob] := by decide +kernel

/-- A segment that waited begins its own store, and the JOB CANCEL behind it waits for that store too (log 11). -/
theorem test_cancel_waits_for_the_next_store :
    let s := { storingS with held := [.frame .sheetData (fr 1 0 2 [9]), .frame .jobCancel (fr 1 0 0 [])] }
    let t := out (exec (.sheetDataStoreEnd 1) s)
    t.stores.map (fun u => u.offset) = [2] ∧ t.held = [.frame .jobCancel (fr 1 0 0 [])] ∧
      (out (exec (.sheetDataStoreEnd 1) t)).jobs.map (fun x => x.run) = [.cancelled] := by decide +kernel

theorem test_witness_sheet_end :
    let x := { jobA with sheets := [sheetB] }
    let body : List Byte := [0, 0, 16, 0, 0, 1, 2, 9]
    JobFrameTaken (holding x) (fr 1 0 0 body) body ∧ body.length = 8 ∧ field body 0 4 = 4096 ∧
    x.mediaSet.getLsbD (field body 4 1) = true ∧ x.mediaSet.getLsbD 1 = false ∧ x.mediaSet.getLsbD 16 = false ∧
    repeatsEnd { jobA with sheets := [sheetA] } 0 300 = true ∧ repeatsEnd { jobA with sheets := [sheetA] } 0 301 = false ∧
    openSheet jobA = none := by decide +kernel

theorem test_witness_job_close :
    JobFrameTaken (holding jobF) (fr 1 0 0 []) [] ∧ (holding jobF).queued 1 = false ∧ completeCount jobF = 1 ∧
    (let y := { jobF with ingest := .closed, dispatch := ⟨2, 0⟩ }
     atEnd y y.dispatch = true ∧ atEnd y y.confirm = false) ∧
    (let y := { jobF with copies := 1, confirm := closeCursor 1 ⟨0, 1⟩ }
     jobLive y = true ∧ atEnd y y.confirm = true) := by decide +kernel

theorem test_witness_printer_frames :
    cold.live = .configuring ∧ base.live = .live ∧ NoPassWanted base ∧
    (flightS.line 3).credits ≤ (flightS.line 3).capacity ∧ flightS.matching 3 0 = some entryA ∧
    flightS.matching 3 1 = none ∧ (flightS.line 3).inflight = [entryA] ∧
    flightS.job? 1 = some { jobF with dispatch := ⟨0, 1⟩ } ∧ sheetOf jobF 0 = some sheetA := by decide +kernel

/-- Printer 3 with the job's first sheet-copy in flight, the job in a run state, its copies and target given. -/
def doneS (x : Job) (st : LineState) : State :=
  (flightS.modJob 1 fun _ => x).modLine 3 fun l => { l with state := st }

/-- The DRAINING job of one copy, closed, whose only sheet-copy is in flight. -/
def lastJob : Job := { jobF with run := .draining, copies := 1, ingest := .closed, dispatch := ⟨1, 0⟩ }

theorem test_witness_confirmations :
    (lastJob.run = .draining ∧ lastJob.copies ≤ (advance lastJob lastJob.confirm).copy ∧ lastJob.bound = some 3) ∧
    entryA.copy + 1 = lastJob.copies ∧ jobF.copies ≠ entryA.copy + 1 ∧
    (doneS lastJob .ready).job? 1 = some lastJob ∧ ((doneS lastJob .retiring).line 3).state = .retiring ∧
    flushPending ((doneS lastJob .retiring).line 3).flush = false ∧
    (let x := { jobIn .leaving (some .held) none with bound := some 3 }
     (doneS x .ready).job? 1 = some x ∧ (advance x x.confirm).copy < x.copies) ∧
    jobKilled (jobIn .cancelled none none) = true ∧ flightS.storing 1 = false ∧
    (∀ q, q ≠ 3 → (flightS.line q).inflight = []) := by decide +kernel

theorem test_last_sheet_done_completes_the_job :
    (out (exec (.sheetDone 3 0) (doneS { lastJob with retain := false } .ready))).jobs = [] ∧
    (let t := out (exec (.sheetDone 3 0) (doneS lastJob .retiring))
     (t.line 3).state = .retired ∧ t.jobs.map (fun x => (x.run, x.bound)) = [(.done, none)]) := by decide +kernel

theorem test_witness_status :
    (base.pattern.set 0 jamRow).toList.find? (patternMatches 3 [0x4A]) = some jamRow ∧
    base.pattern.toList.find? (patternMatches 3 [0x4A]) = none ∧
    (List.replicate 32 0x4A#8).length ≤ 32 ∧ hasCondition ⟨true, false, false, false⟩ .jam = true ∧
    hasCondition Conditions.none .jam = false ∧
    blockingPresent (setCondition ⟨true, false, false, true⟩ .jam false) = false ∧
    blockingPresent (setCondition ⟨true, true, false, false⟩ .jam false) = true := by decide +kernel

theorem test_witness_raises :
    (∀ st ∈ ([.waking, .ready, .standby, .blocked, .retiring] : List LineState),
      hasCondition ((lineIn st).line 3).conditions .jam = false ∧ ((lineIn st).line 3).state = st) ∧
    jamRow.sense = .raise ∧ jamRow.kind = .jam ∧ jamRow.length ≤ 8 ∧ patternMatches 3 [0x4A] jamRow = true ∧
    flushPending ((lineIn .retiring).line 3).flush = false ∧
    namedTag { jamRow with tagPos := some 1 } [0x4A, 9] = some 9 := by decide +kernel

/-- Printer 3 with two entries in flight, tags 0 and 1. -/
def jamNamedS : State :=
  flightS.modLine 3 fun l => { l with inflight := [entryA, { entryA with tag := 1, copy := 1 }] }

/-- A JAM row that names the tag in a report's second byte. -/
def tagRow : PatternRow := { jamRow with tagPos := some 1 }

/-- The alert records that a report leaves: kind, state and detail. -/
def alertsAfter (s : State) (r : PatternRow) (report : List Byte) : List (AlertKind × AlertState × Detail) :=
  (s.decideReport 3 r report).alerts.map fun r => (r.kind, r.state, r.detail)

/-- A raise opens the condition alert with the text and the reference of R144; a clear clears it. -/
theorem test_status_alerts :
    alertsAfter jamNamedS tagRow [0x4A, 1] = [(.jam, .raised, ⟨some [0x4A, 1], some ⟨1, 0, 1⟩, none, none⟩)] ∧
    alertsAfter jamNamedS tagRow [0x4A, 9] = [(.jam, .raised, ⟨some [0x4A, 9], some ⟨1, 0, 0⟩, none, none⟩)] ∧
    alertsAfter (lineIn .ready) jamRow [0x4A] = [(.jam, .raised, ⟨some [0x4A], none, none, none⟩)] ∧
    hasCondition ((jamNamedS.decideReport 3 tagRow [0x4A, 1]).line 3).conditions .jam = true ∧
    alertsAfter (jamNamedS.decideReport 3 tagRow [0x4A, 1]) { tagRow with sense := .clear } [0x4A] =
      [(.jam, .cleared, ⟨some [0x4A, 1], some ⟨1, 0, 1⟩, none, none⟩)] := by decide +kernel

theorem test_witness_link_up :
    let s := (lineIn .down).modLine 3 fun l => { l with lineDown := true }
    (s.line 3).lineDown = true ∧ (base.line 3).lineDown = false ∧
    (let t := out (exec (.hello 3 4 0 9) (s.openAlert .lineDown (.printer 3) Detail.none))
     (t.line 3).lineDown = false ∧ t.alerts.map (fun r => (r.kind, r.state)) = [(.lineDown, .cleared)]) := by
  decide +kernel

theorem test_witness_protocol_fault :
    (base.line 3).inflight = [] ∧ (flightS.line 3).inflight = entryA :: [] ∧
    ((flightS.protocolFault 3).alerts.map fun r => r.detail.ref) = [some ⟨1, 0, 0⟩] ∧
    ((base.protocolFault 3).alerts.map fun r => r.detail.ref) = [none] := by decide +kernel

/-- Printer 3 in a state with every timer due. -/
def dueS (st : LineState) : State :=
  (lineIn st).modLine 3 fun l =>
    { l with settle := .running 0, wakeLimit := .running 0, minAwake := .running 0, idle := .running 0,
             flushLimit := .running 0, silence := .running 0, stall := .running 0, moveDelay := .running 0 }

theorem test_witness_timers :
    (∀ c ∈ lineExpiries 3, timerDue (c.2 ((dueS .waking).line 3)) = true) ∧
    (∀ c ∈ lineExpiries 3, timerDue (c.2 (base.line 3)) = false) ∧ NoPassWanted (dueS .blocked) ∧
    ((dueS .waking).line 3).readySeen = false ∧ timerRuns ((dueS .waking).line 3).settle = true ∧
    ((dueS .ready).line 3).standbyPending = false := by decide +kernel

theorem test_witness_flush :
    let s := flightS.requestFlush 3 .cancel
    flushPending (s.line 3).flush = true ∧ (s.line 3).flush.block = false ∧ (s.line 3).inflight ≠ [] ∧
    (∀ e ∈ (s.line 3).inflight, e.flushing = true ∧ e.job = 1) ∧
    s.job? 1 = some { jobF with dispatch := ⟨0, 1⟩ } ∧ jobKilled jobF = false ∧
    flushPending (flightS.line 3).flush = false := by decide +kernel

/-- Entries of two jobs of printer 3 under a flush of purpose BLOCK, the second job's entry named by the jam tag. -/
def jammedS : State :=
  ({ flightS with jobs := [{ jobF with dispatch := ⟨0, 1⟩, noProgress := 2 },
      { jobF with number := 2, run := .draining, noProgress := 2 }] }.modLine 3 fun l =>
    { l with state := .blocked, queue := [1, 2], inflight := [entryA, { entryA with job := 2, tag := 1 }],
             jamTag := some 1 }).requestFlush 3 .block

theorem test_witness_block_flush :
    (jammedS.line 3).flush.block = true ∧ (∀ e ∈ (jammedS.line 3).inflight, e.flushing = true) ∧
    (jammedS.line 3).inflight.map (fun e => e.job) = [1, 2] ∧ (jammedS.line 3).jamTag = some 1 ∧
    (jammedS.job? 2).map (fun x => (jobKilled x, x.bound)) = some (false, some 3) ∧
    jammedS.settings.retryLimit = 3 ∧ (∀ q, q ≠ 3 → jammedS.entriesOn q 2 = []) ∧
    min 15 (2 + 1) = 3 ∧ jammedS.storing 2 = false ∧
    (let s := { jammedS with settings := { jammedS.settings with retryLimit := 4 } }
     min 15 (2 + 1) < s.settings.retryLimit) ∧
    (let s := jammedS.modJob 1 fun x => { x with run := .cancelled, bound := none }
     (s.modLine 3 fun l => { l with queue := [2] }).job? 1 ≠ none) := by decide +kernel

theorem test_block_flush_counts_the_named_job :
    (out (exec (.flushed 3) jammedS)).jobs.map (fun x => (x.number, x.run, x.noProgress, x.bound)) =
      [(1, .feeding, 2, some 3), (2, .failed, 3, none)] ∧
    (out (exec (.flushed 3) { jammedS with settings := { jammedS.settings with retryLimit := 4 } })).jobs.map
      (fun x => (x.number, x.noProgress)) = [(1, 2), (2, 3)] := by decide +kernel

/-- The failure by no progress opens JOB FAILED with the reference of the job's confirm cursor (R151). -/
theorem test_no_progress_alert :
    AlertTableLaw jammedS ∧ jammedS.settings.retryLimit ≠ 0 ∧ jammedS.settings.retryLimit ≤ min 15 (2 + 1) ∧
    (out (exec (.flushed 3) jammedS)).alerts.map (fun r => (r.kind, r.subject, r.state, r.detail.ref)) =
      [(.jobFailed, .job 2, .cleared, some ⟨2, 0, 0⟩)] := by decide +kernel

theorem test_witness_line_loss :
    (∀ j ∈ (flightS.line 3).queue, (flightS.job? j).isSome = true) ∧ (flightS.line 3).queue = [1] ∧
    ((lineIn .retiring).line 3).state = .retiring := by decide +kernel

theorem test_witness_move_delay :
    let s := flightS.modLine 3 fun l => { l with state := .blocked, blockOrigin := some .ready }
    1 ∈ (s.line 3).queue ∧ s.hasEntries 1 = true ∧ (s.line 3).flushedDuringBlock = false ∧
    jobF.moveAllowed = true ∧ jobF.run = .feeding ∧ atEnd jobF jobF.confirm = false ∧
    feedS.hasEntries 1 = false ∧
    (jobIn .leaving (some .waiting) none).moveAllowed = true ∧ 1 ∈ (feedS.line 3).queue ∧
    (feedS.modJob 1 fun _ => jobIn .leaving (some .waiting) none).job? 1 =
      some (jobIn .leaving (some .waiting) none) := by decide +kernel

theorem test_witness_sheet_start :
    feedS.startable 3 = some (jobF, sheetA) ∧ base.startable 3 = none ∧ ceiling Account.reset = 2 ^ 48 - 1 ∧
    ceiling { Account.reset with limited := true } = 0 ∧ jobF.bound = some 3 ∧
    atEnd jobF (advance { jobF with ingest := .closed, dispatch := ⟨1, 0⟩ } ⟨1, 0⟩) = true := by decide +kernel

/-- The feeding job's account has no amount left; the held job is in its list. -/
def overS (held : List Nat) : State :=
  { feedS with
    rate := Vector.replicate 4 (Vector.replicate 4 9)
    accounts := feedS.accounts.set 2 { Account.reset with limited := true, quotaHeld := held } }

theorem test_witness_quota :
    (overS []).startable 3 = some (jobF, sheetA) ∧ ceiling ((overS []).account 2) < (overS []).sheetCost 3 2 sheetA ∧
    jobF.confirm.copy ≤ jobF.dispatch.copy ∧ (overS []).hasEntries 1 = false ∧ jobF.bound = some 3 ∧
    (((overS [1]).account 2).quotaHeld ≠ [] ∧ ((overS [1]).account 2).quotaHeld.Nodup) ∧
    available ((overS [1]).account 2) < available (base.account 2) ∧
    (∀ b : AccountNo, available ((overS [1]).account b) < available (base.account b) ↔ b = 2) := by decide +kernel

theorem test_limit_raise_releases_the_held_job :
    let s := { overS [1] with jobs := [jobIn .held none (some .quota)], lines := base.lines }
    let t := out (exec (.adjustLimit (req ([0, 2] ++ be 8 500))) s)
    t.jobs.map (fun x => (x.run, x.holdReason)) = [(.waiting, none)] ∧ t.waiting = [1] ∧
      (t.account 2).quotaHeld = [] := by decide +kernel

theorem test_witness_grant :
    (∀ i, i < 3 → movingS.requests (Fin.ofNat 16 (movingS.lastGranted.val + 1 + i)) = false) ∧
    movingS.requests (Fin.ofNat 16 (movingS.lastGranted.val + 1 + 3)) = true ∧ movingS.engine0 = none ∧
    (∀ p, base.requests p = false) ∧ base.live = .live ∧
    ({ base with engine0 := some 1, engine1 := some 2 } : State).engine1.isSome = true := by decide +kernel

theorem test_witness_burst :
    (base.line 3).burst = none ∧
    (let t := out (exec .burstGrant movingS)
     ((t.line 3).burst.map fun b => (b.discarded, b.block)) = some (false, some 4) ∧ NoPassWanted t ∧
     (t.job? 1).map jobKilled = some false ∧ t.entryLine 1 = some 3 ∧ (t.line 3).state = .ready ∧
     flushPending (t.line 3).flush = false ∧ flushPending ((t.requestFlush 3 .move).line 3).flush = true ∧
     (t.modLine 3 fun l => { l with inflight := [] }).hasEntries 1 = false) ∧ (4 : Block) ∈ sheetA.chain ∧
    (((out (exec .burstGrant movingS)).requestFlush 3 .cancel).line 3).burst.map (fun b => b.discarded) =
      some true := by decide +kernel

/-- A read error in a block that its sheet's chain no longer holds has no effect (R75, log 45). -/
theorem test_read_error_out_of_the_chain :
    let t := (out (exec .burstGrant movingS)).modJob 1 fun x => { x with sheets := [{ sheetA with chain := [] }] }
    ((t.line 3).burst.map fun b => b.block) = some (some 4) ∧
    (out (exec (.burstCompletion 3 true) t)).jobs = t.jobs ∧
    (out (exec (.burstCompletion 3 true) t)).quarantine = [] := by decide +kernel

theorem test_witness_arithmetic :
    tierRow 48000 [⟨10000, 3⟩, ⟨40000, 5⟩] = some ⟨40000, 5⟩ ∧ tierRow 9 [⟨10, 3⟩] = none ∧
    tierRow 20 [⟨5, 1⟩, ⟨10, 3⟩, ⟨10, 8⟩] = some ⟨10, 3⟩ ∧ 255 < 256 ^ 1 ∧
    State.reset.settings.stallMin ≤ State.reset.settings.stallMax := by decide +kernel

/-- Reset with a command in its queue: every block is in the free list. -/
theorem test_witness_blocks :
    let s := State.reset.withPending [.hello 3 9 0 0]
    SheetRecordLaw s ∧ BlockLaw s ∧ ∃ t, step s = .next t := by
  refine ⟨by decide +kernel, ?_, _, rfl⟩
  show (State.reset.free ++ [] ++ []).Perm State.reset.free
  rw [List.append_nil, List.append_nil]

end Sys2Proof.Tests
end

-- O50: what a CREDIT frame does to the credit counts (R68).
section
namespace Sys2Proof.Machine

/-! ### A figure of the line records that a change leaves -/

/-- A figure that a change of one record keeps is kept on every line. -/
theorem State.line_modLine_keeps {α : Type} (figureOf : Line → α) (s : State) (p : LineNo) (f : Line → Line)
    (hf : ∀ l, figureOf (f l) = figureOf l) (q : LineNo) :
    figureOf ((s.modLine p f).line q) = figureOf (s.line q) := by
  by_cases hq : q = p
  · subst hq
    rw [State.line_modLine_self, hf]
  · rw [State.line_modLine_ne s f hq]

@[simp] theorem idleLine_credits (r : Roster) (l : Line) : (idleLine r l).credits = l.credits := by
  unfold idleLine
  split
  · split <;> rfl
  · rfl

@[simp] theorem State.line_refreshIdle_credits (s : State) (p : LineNo) :
    (s.refreshIdle.line p).credits = (s.line p).credits := by
  simp [State.refreshIdle]

@[simp] theorem heard_state (l : Line) : (heard l).state = l.state := rfl

@[simp] theorem heard_credits (l : Line) : (heard l).credits = l.credits := rfl

@[simp] theorem heard_capacity (l : Line) : (heard l).capacity = l.capacity := rfl

/-! ### The credit operation (R68) -/

theorem State.credit_down {s : State} {p : LineNo} (h : (s.line p).state = .down) (n : Nat) :
    s.credit p n = s := if_pos h

theorem State.credit_not_down {s : State} {p : LineNo} (h : (s.line p).state ≠ .down) (n : Nat) :
    s.credit p n = s.modLine p (creditLine n) := if_neg h

@[simp] theorem State.credit_accounts (s : State) (p : LineNo) (n : Nat) :
    (s.credit p n).accounts = s.accounts := by
  unfold State.credit
  split <;> simp

@[simp] theorem State.credit_passesWanted (s : State) (p : LineNo) (n : Nat) :
    (s.credit p n).passesWanted = s.passesWanted := by
  unfold State.credit
  split <;> simp

theorem State.credit_moveDelay (s : State) (p : LineNo) (n : Nat) (q : LineNo) :
    ((s.credit p n).line q).moveDelay = (s.line q).moveDelay := by
  unfold State.credit
  split
  · rfl
  · exact s.line_modLine_keeps Line.moveDelay p (creditLine n) (fun _ => rfl) q

/-- A count of 0 leaves a credit count that is within the capacity (R67). -/
theorem State.credit_zero_credits {s : State} {p : LineNo} (h : (s.line p).credits ≤ (s.line p).capacity) :
    ((s.credit p 0).line p).credits = (s.line p).credits := by
  by_cases hd : (s.line p).state = .down
  · rw [State.credit_down hd]
  · rw [State.credit_not_down hd, State.line_modLine_self]
    exact Nat.min_eq_right h

/-! ### The frames of a printer that cause nothing further -/

/-- In LIVE, a frame whose act leaves the accounts, asks for no binding pass and leaves the move delays ends
with receive activity, its act and the idle timers (R78, R86). -/
theorem lineEvent_quiet {s : State} {p : LineNo} {act : State → State} (hlive : s.live = .live)
    (haccounts : (act (s.modLine p heard)).accounts = s.accounts)
    (hpasses : (act (s.modLine p heard)).passesWanted = 0)
    (hdelay : ∀ q, ((act (s.modLine p heard)).line q).moveDelay = ((s.modLine p heard).line q).moveDelay) :
    lineEvent p act s = (act (s.modLine p heard)).refreshIdle := by
  have hconf : s.live ≠ .configuring := by simp [hlive]
  have hmove : zeroMove s (act (s.modLine p heard)) = none :=
    zeroMove_none fun q => (hdelay q).trans (s.line_modLine_keeps Line.moveDelay p heard (fun _ => rfl) q)
  unfold lineEvent
  rw [if_neg hconf, settleEvent_quiet haccounts hpasses hmove]

/-- CREDIT in LIVE: receive activity, the credit, and the idle timers. -/
theorem exec_credit {s : State} (p : LineNo) (n : BitVec 16) (hlive : s.live = .live) (hw : NoPassWanted s) :
    exec (.credit p n) s = .next ((s.modLine p heard).credit p n.toNat).refreshIdle := by
  show execCredit p n s = _
  unfold execCredit
  rw [lineEvent_quiet hlive (by simp) (by simpa using hw) (State.credit_moveDelay _ p _)]

/-- A discarded frame in LIVE: receive activity and the idle timers. -/
theorem exec_lineFrameDiscarded {s : State} (p : LineNo) (f : RawLineFrame) (hlive : s.live = .live)
    (hw : NoPassWanted s) : exec (.lineFrameDiscarded p f) s = .next (s.modLine p heard).refreshIdle := by
  show execLineFrameDiscarded p f s = _
  unfold execLineFrameDiscarded
  rw [lineEvent_quiet hlive (by simp) (by simpa using hw) fun _ => rfl]

/-! ### The statement -/

/-- Settles O50: the credit operation by line state, after receive activity, which leaves state, credits and
capacity. -/
theorem creditAddsToTheCapacity : Obligations.CreditAddsToTheCapacity := by
  intro s p hlive hw
  refine ⟨fun n => ⟨fun hup => ?_, fun hdown => ?_⟩, fun hlaw => ?_, fun f => ?_⟩
  · rw [exec_credit p n hlive hw, State.credit_not_down (by simpa using hup)]
    rfl
  · rw [exec_credit p n hlive hw, State.credit_down (by simpa using hdown)]
  · have hzero := State.credit_zero_credits (s := s.modLine p heard) (p := p) (by simpa using hlaw)
    exact ⟨_, exec_credit p 0 hlive hw, by simpa using hzero⟩
  · refine ⟨_, exec_lineFrameDiscarded p f hlive hw, fun q => ?_⟩
    rw [State.line_refreshIdle_credits]
    exact s.line_modLine_keeps Line.credits p heard heard_credits q

end Sys2Proof.Machine
end

-- O35: WAKE by line state (R89), and the entry into WAKING (R82).
section
namespace Sys2Proof.Machine

/-! ### A printer control request -/

theorem printerField_of_eq {args : List Byte} {p : LineNo} (h : p.val = field args 0 1) :
    printerField args = some p := by
  unfold printerField
  simp [← h]

theorem printerField_above {args : List Byte} (h : 15 < field args 0 1) : printerField args = none := by
  have hge : ¬ field args 0 1 < 16 := by omega
  unfold printerField
  simp [hge]

theorem onPrinter_some (act : State → LineNo → State × Status) {args : List Byte} {p : LineNo} (s : State)
    (h : p.val = field args 0 1) : onPrinter act args s = ((act s p).1, (act s p).2, []) := by
  unfold onPrinter
  rw [printerField_of_eq h]

theorem onPrinter_above (act : State → LineNo → State × Status) {args : List Byte} (s : State)
    (h : 15 < field args 0 1) : onPrinter act args s = (s, .badRequest, []) := by
  unfold onPrinter
  rw [printerField_above h]
  rfl

/-- A request whose own act changes nothing is answered, with the idle timers alone behind it. -/
theorem manage_unchanged {s : State} {f : ShopFrame} {args : List Byte} (h : Requested s f args)
    {sizeOk : List Byte → Bool} (jobOf : List Byte → Nat) {act : List Byte → State → Outcome3} {st : Status}
    {body : List Byte} (hs : sizeOk args = true) (hw : NoPassWanted s) (hact : act args s = (s, st, body)) :
    manage false sizeOk jobOf act f s = answered s s f (jobOf args) st body := by
  rw [manage_requested h sizeOk jobOf act hs, hact, manageEnd_ended f (jobOf args) (s, st, body) rfl,
    ended_answered f _ _ _ (fun _ => Nat.le_refl _) hw (zeroMove_none fun _ => rfl)]

/-! ### The end of an event leaves standby pending -/

@[simp] theorem idleLine_standbyPending (r : Roster) (l : Line) :
    (idleLine r l).standbyPending = l.standbyPending := by
  unfold idleLine
  split
  · split <;> rfl
  · rfl

@[simp] theorem State.line_reply (s : State) (port : PortSettings) (f : ShopFrame) (job : Nat) (st : Status)
    (body : List Byte) (p : LineNo) : (s.reply port f job st body).line p = s.line p := rfl

theorem answered_standbyPending (s u : State) (f : ShopFrame) (job : Nat) (st : Status) (body : List Byte)
    (p : LineNo) : ((answered s u f job st body).line p).standbyPending = (u.line p).standbyPending := by
  simp [answered, State.refreshIdle]

/-! ### The entry into BLOCKED (R90) -/

@[simp] theorem State.line_modMeter (s : State) (p : LineNo) (f : Meter → Meter) (q : LineNo) :
    (s.modMeter p f).line q = s.line q := rfl

@[simp] theorem State.enterBlocked_settings (s : State) (p : LineNo) (o : BlockOrigin) :
    (s.enterBlocked p o).settings = s.settings := by
  simp [State.enterBlocked]

@[simp] theorem State.enterBlocked_passesWanted (s : State) (p : LineNo) (o : BlockOrigin) :
    (s.enterBlocked p o).passesWanted = s.passesWanted := by
  simp [State.enterBlocked]

@[simp] theorem State.line_enterBlocked_self (s : State) (p : LineNo) (o : BlockOrigin) :
    (s.enterBlocked p o).line p = blockedLine s.settings o (s.line p) := by
  simp [State.enterBlocked]

theorem State.line_enterBlocked_ne (s : State) {p q : LineNo} (o : BlockOrigin) (h : q ≠ p) :
    (s.enterBlocked p o).line q = s.line q := by
  simp [State.enterBlocked, State.line_modLine_ne s _ h]

@[simp] theorem State.enterBlocked_meter (s : State) (p : LineNo) (o : BlockOrigin) :
    (s.enterBlocked p o).meters[p] = countBlock s.meters[p] := by
  unfold State.enterBlocked
  rw [State.modMeter_self, State.modLine_meters]

/-- The saturating count of R136. -/
theorem countBlock_eq (m : Meter) : countBlock m = { m with blocks := min (2 ^ 48 - 1) (m.blocks + 1) } := by
  have hsat : saturate max48 (m.blocks + 1) = min (2 ^ 48 - 1) (m.blocks + 1) := by
    unfold saturate max48
    split <;> omega
  unfold countBlock
  rw [hsat]

/-! ### The entry into WAKING (R82) -/

/-- The waking part of the entry, before the conditions are looked at: the line record and the request for a
binding pass (R29). -/
def State.startWaking (s : State) (p : LineNo) (wake : Bool) : State :=
  (s.modLine p (wakingLine (s.rosterOf p) wake)).wantPass

@[simp] theorem State.line_startWaking_self (s : State) (p : LineNo) (wake : Bool) :
    (s.startWaking p wake).line p = wakingLine (s.rosterOf p) wake (s.line p) := by
  simp [State.startWaking]

theorem State.line_startWaking_ne (s : State) {p q : LineNo} (wake : Bool) (h : q ≠ p) :
    (s.startWaking p wake).line q = s.line q := by
  simp [State.startWaking, State.line_modLine_ne s _ h]

@[simp] theorem State.startWaking_settings (s : State) (p : LineNo) (wake : Bool) :
    (s.startWaking p wake).settings = s.settings := by
  simp [State.startWaking]

@[simp] theorem State.startWaking_meters (s : State) (p : LineNo) (wake : Bool) :
    (s.startWaking p wake).meters = s.meters := by
  simp [State.startWaking]

@[simp] theorem State.startWaking_passesWanted (s : State) (p : LineNo) (wake : Bool) :
    (s.startWaking p wake).passesWanted = s.passesWanted + 1 := by
  simp [State.startWaking]

/-- The entry looks at the conditions that the line had before it. -/
theorem State.enterWaking_eq (s : State) (p : LineNo) (wake : Bool) :
    s.enterWaking p wake = if blockingPresent (s.line p).conditions then
      (s.startWaking p wake).enterBlocked p .waking else s.startWaking p wake := by
  have hcond : ((s.startWaking p wake).line p).conditions = (s.line p).conditions := by
    rw [State.line_startWaking_self]
    rfl
  rw [← hcond]
  rfl

/-- With no blocking condition present the line stays in WAKING. -/
theorem State.enterWaking_clear {s : State} {p : LineNo} (wake : Bool)
    (h : blockingPresent (s.line p).conditions = false) : s.enterWaking p wake = s.startWaking p wake := by
  simp [State.enterWaking_eq, h]

/-- With a blocking condition present the line enters BLOCKED at once. -/
theorem State.enterWaking_blocking {s : State} {p : LineNo} (wake : Bool)
    (h : blockingPresent (s.line p).conditions = true) :
    s.enterWaking p wake = (s.startWaking p wake).enterBlocked p .waking := by
  simp [State.enterWaking_eq, h]

/-- The two ways an entry into WAKING ends. -/
theorem State.enterWaking_cases (s : State) (p : LineNo) (wake : Bool) :
    s.enterWaking p wake = s.startWaking p wake ∨
      s.enterWaking p wake = (s.startWaking p wake).enterBlocked p .waking := by
  cases h : blockingPresent (s.line p).conditions with
  | false => exact .inl (State.enterWaking_clear wake h)
  | true => exact .inr (State.enterWaking_blocking wake h)

theorem State.enterWaking_settings (s : State) (p : LineNo) (wake : Bool) :
    (s.enterWaking p wake).settings = s.settings := by
  obtain h | h := s.enterWaking_cases p wake <;> simp [h]

theorem State.enterWaking_passesWanted (s : State) (p : LineNo) (wake : Bool) :
    (s.enterWaking p wake).passesWanted = s.passesWanted + 1 := by
  obtain h | h := s.enterWaking_cases p wake <;> simp [h]

theorem State.line_enterWaking_ne (s : State) {p q : LineNo} (wake : Bool) (hq : q ≠ p) :
    (s.enterWaking p wake).line q = s.line q := by
  obtain h | h := s.enterWaking_cases p wake
  · rw [h, State.line_startWaking_ne s wake hq]
  · rw [h, State.line_enterBlocked_ne _ _ hq, State.line_startWaking_ne s wake hq]

/-- A figure that an entry into BLOCKED leaves is the one that the entry into WAKING sets. -/
theorem State.line_enterWaking_figure {α : Type} (figureOf : Line → α) (s : State) (p : LineNo) (wake : Bool)
    (hf : ∀ t o l, figureOf (blockedLine t o l) = figureOf l) :
    figureOf ((s.enterWaking p wake).line p) = figureOf (wakingLine (s.rosterOf p) wake (s.line p)) := by
  obtain h | h := s.enterWaking_cases p wake
  · rw [h, State.line_startWaking_self]
  · rw [h, State.line_enterBlocked_self, hf, State.line_startWaking_self]

theorem wakingLine_control (r : Roster) (wake : Bool) (l : Line) :
    (wakingLine r wake l).control = l.control ++ (if wake then [.wake] else []) := by
  cases wake
  · exact (List.append_nil _).symm
  · rfl

theorem State.line_enterWaking_armed (s : State) (p : LineNo) (wake : Bool) :
    ((s.enterWaking p wake).line p).armed = false := by
  obtain h | h := s.enterWaking_cases p wake
  · rw [h, State.line_startWaking_self]
    rfl
  · rw [h, State.line_enterBlocked_self]
    rfl

/-! ### WAKE (R89) -/

theorem wakeAct_standby {s : State} {p : LineNo} (h : (s.line p).state = .standby) :
    wakeAct s p = (s.enterWaking p true, .ok) := if_pos h

theorem wakeAct_not_standby {s : State} {p : LineNo} (h : (s.line p).state ≠ .standby) :
    wakeAct s p = (s, .ok) := if_neg h

/-- A WAKE on a STANDBY line is carried out, with what the entry into WAKING causes. -/
theorem exec_wakeRequest_standby {s : State} {f : ShopFrame} {args : List Byte} {p : LineNo}
    (h : Requested s f args) (hlen : args.length = 1) (hp : p.val = field args 0 1)
    (hst : (s.line p).state = .standby) :
    exec (.wakeRequest f) s = .next (ended s (s.enterWaking p true) f 0 .ok []) := by
  have hact : onPrinter wakeAct args s = (s.enterWaking p true, .ok, []) := by
    rw [onPrinter_some wakeAct s hp, wakeAct_standby hst]
  have hport : (s.enterWaking p true).settings.port = s.settings.port := by
    rw [State.enterWaking_settings]
  show execWakeRequest f s = _
  unfold execWakeRequest
  rw [manage_requested h (sized 1) noJob _ (decide_eq_true hlen), hact, manageEnd_ended f _ _ hport]
  rfl

/-- A WAKE whose act changes nothing is answered. -/
theorem exec_wakeRequest_unchanged {s : State} {f : ShopFrame} {args : List Byte} {st : Status}
    (h : Requested s f args) (hlen : args.length = 1) (hw : NoPassWanted s)
    (hact : onPrinter wakeAct args s = (s, st, [])) :
    exec (.wakeRequest f) s = .next (answered s s f 0 st []) := by
  show execWakeRequest f s = _
  unfold execWakeRequest
  rw [manage_unchanged h noJob (decide_eq_true hlen) hw hact]
  rfl

/-! ### The statement -/

/-- Settles O35: WAKE by the printer it names and the state of its line, and the entry into WAKING by the
conditions of the line. -/
theorem wakeByLineState : Obligations.WakeByLineState := by
  refine ⟨fun s f args h hlen hw => ⟨fun habove => ?_, fun p hp => ⟨fun hst => ?_, fun hst => ⟨?_, ?_⟩⟩⟩,
    fun s p wake => ⟨s.enterWaking_passesWanted p wake, fun q hq => s.line_enterWaking_ne wake hq, ?_, ?_,
      s.line_enterWaking_armed p wake, ?_, fun hclear => ?_, fun hblocking => ?_⟩⟩
  · exact exec_wakeRequest_unchanged h hlen hw (onPrinter_above wakeAct s habove)
  · exact exec_wakeRequest_standby h hlen hp hst
  · refine exec_wakeRequest_unchanged h hlen hw ?_
    rw [onPrinter_some wakeAct s hp, wakeAct_not_standby hst]
  · exact answered_standbyPending s s f 0 .ok [] p
  · exact s.line_enterWaking_figure Line.readySeen p wake fun _ _ _ => rfl
  · exact (s.line_enterWaking_figure Line.control p wake fun _ _ _ => rfl).trans (wakingLine_control _ wake _)
  · exact s.line_enterWaking_figure Line.queue p wake fun _ _ _ => rfl
  · rw [State.enterWaking_clear wake hclear, State.line_startWaking_self]
    exact ⟨rfl, rfl, rfl, rfl, s.startWaking_meters p wake⟩
  · rw [State.enterWaking_blocking wake hblocking, State.line_enterBlocked_self, State.startWaking_settings,
      State.enterBlocked_meter, State.startWaking_meters, countBlock_eq]
    exact ⟨rfl, rfl, rfl, rfl, rfl, rfl⟩

end Sys2Proof.Machine
end

-- O19: the table window (R189), and what its absence refuses.
section
namespace Sys2Proof.Machine

/-! ### A request with a known outcome -/

/-- A request whose own act is known and causes nothing further is answered. -/
theorem manage_calm {s u : State} {f : ShopFrame} {args : List Byte} (h : Requested s f args)
    {sizeOk : List Byte → Bool} (jobOf : List Byte → Nat) {act : List Byte → State → Outcome3} {st : Status}
    {body : List Byte} (hs : sizeOk args = true) (hact : act args s = (u, st, body))
    (hp : u.settings.port = s.settings.port) (ha : ∀ a, available (u.account a) ≤ available (s.account a))
    (hw : NoPassWanted u) (hm : zeroMove s u = none) :
    manage false sizeOk jobOf act f s = answered s u f (jobOf args) st body := by
  have hend := manage_answered h sizeOk jobOf act hs
  rw [hact] at hend
  exact hend hp ha hw hm

/-! ### The numbers of the tables (R189) -/

theorem tableOf_eq_some_iff {n : Nat} {t : Table} : tableOf n = some t ↔ tableNumber t = n := by
  constructor
  · intro h
    unfold tableOf at h
    split at h <;> cases h <;> rfl
  · rintro rfl
    cases t <;> rfl

theorem tableNumber_range (t : Table) : 1 ≤ tableNumber t ∧ tableNumber t ≤ 10 := by
  cases t <;> decide

theorem exists_tableOf_iff {n : Nat} : (∃ t, tableOf n = some t) ↔ 1 ≤ n ∧ n ≤ 10 := by
  constructor
  · rintro ⟨t, h⟩
    rw [← tableOf_eq_some_iff.mp h]
    exact tableNumber_range t
  · rintro ⟨hlow, hhigh⟩
    match n with
    | 1 | 2 | 3 | 4 | 5 | 6 | 7 | 8 | 9 | 10 => exact ⟨_, rfl⟩
    | 0 => omega
    | k + 11 => omega

theorem tableOf_outside {n : Nat} (h : n < 1 ∨ 10 < n) : tableOf n = none := by
  refine Option.eq_none_iff_forall_ne_some.mpr fun t ht => ?_
  obtain ⟨hlow, hhigh⟩ := exists_tableOf_iff.mp ⟨t, ht⟩
  omega

/-! ### TABLE WINDOW's own act (R189) -/

/-- The window that a TABLE WINDOW body asks for in a table: its last row and last cell clamped, and both
cursors at its start. -/
def askedWindow (t : Table) (args : List Byte) : Window :=
  { table := t
    firstRow := field args 1 2
    lastRow := min (field args 3 2) (tableRows t - 1)
    firstCell := field args 5 1
    lastCell := min (field args 6 1) (tableCells t - 1)
    write := some (field args 1 2, field args 5 1)
    read := some (field args 1 2, field args 5 1) }

/-- The ranges of a window as TABLE WINDOW's reply carries them. -/
def windowBytes (w : Window) : List Byte :=
  be 1 (tableNumber w.table) ++ be 2 w.firstRow ++ be 2 w.lastRow ++ be 1 w.firstCell ++ be 1 w.lastCell

theorem tableWindowAct_noTable {args : List Byte} (s : State) (h : tableOf (field args 0 1) = none) :
    tableWindowAct args s = (s, .badWindow, []) := by
  unfold tableWindowAct
  rw [h]
  rfl

theorem tableWindowAct_empty {args : List Byte} {t : Table} (s : State) (ht : tableOf (field args 0 1) = some t)
    (h : (askedWindow t args).lastRow < (askedWindow t args).firstRow ∨
      (askedWindow t args).lastCell < (askedWindow t args).firstCell) :
    tableWindowAct args s = (s, .badWindow, []) := by
  unfold tableWindowAct
  rw [ht]
  exact if_pos h

theorem tableWindowAct_set {args : List Byte} {t : Table} (s : State) (ht : tableOf (field args 0 1) = some t)
    (hrow : (askedWindow t args).firstRow ≤ (askedWindow t args).lastRow)
    (hcell : (askedWindow t args).firstCell ≤ (askedWindow t args).lastCell) :
    tableWindowAct args s =
      ({ s with window := some (askedWindow t args) }, .ok, windowBytes (askedWindow t args)) := by
  unfold tableWindowAct
  rw [ht]
  exact if_neg (not_or.mpr ⟨Nat.not_lt.mpr hrow, Nat.not_lt.mpr hcell⟩)

/-- A TABLE WINDOW that its act refuses is answered, and the window stays as it was. -/
theorem exec_tableWindow_refused {s : State} {f : ShopFrame} {args : List Byte} (h : Requested s f args)
    (hlen : args.length = 7) (hw : NoPassWanted s) (hact : tableWindowAct args s = (s, .badWindow, [])) :
    exec (.tableWindow f) s = .next (answered s s f 0 .badWindow []) := by
  show execTableWindow f s = _
  unfold execTableWindow
  rw [manage_unchanged h noJob (decide_eq_true hlen) hw hact]
  rfl

/-- A TABLE WINDOW whose ranges are not empty replaces the window, whatever window stood before. -/
theorem exec_tableWindow_set {s : State} {f : ShopFrame} {args : List Byte} {t : Table} (h : Requested s f args)
    (hlen : args.length = 7) (hw : NoPassWanted s) (ht : tableOf (field args 0 1) = some t)
    (hrow : (askedWindow t args).firstRow ≤ (askedWindow t args).lastRow)
    (hcell : (askedWindow t args).firstCell ≤ (askedWindow t args).lastCell) :
    exec (.tableWindow f) s = .next (answered s { s with window := some (askedWindow t args) } f 0 .ok
      (windowBytes (askedWindow t args))) := by
  show execTableWindow f s = _
  unfold execTableWindow
  rw [manage_calm h noJob (decide_eq_true hlen) (tableWindowAct_set s ht hrow hcell) rfl
    (fun _ => Nat.le_refl _) hw (zeroMove_none fun _ => rfl)]
  rfl

/-! ### The four accesses without a window (R189) -/

theorem tableWriteAct_noWindow {s : State} (fromStart : Bool) (args : List Byte) (h : s.window = none) :
    tableWriteAct fromStart args s = (s, .badWindow, []) := by
  unfold tableWriteAct
  rw [h]
  rfl

theorem tableReadAct_noWindow {s : State} (fromStart : Bool) (args : List Byte) (h : s.window = none) :
    tableReadAct fromStart args s = (s, .badWindow, []) := by
  unfold tableReadAct
  rw [h]
  rfl

/-- TABLE WRITE and TABLE WRITE CONTINUE, told apart by where they begin. -/
theorem manage_tableWrite_noWindow {s : State} {f : ShopFrame} {args : List Byte} (fromStart : Bool)
    (h : Requested s f args) (hs : writeSized args = true) (hw : NoPassWanted s) (hnone : s.window = none) :
    manage false writeSized noJob (tableWriteAct fromStart) f s = answered s s f 0 .badWindow [] :=
  manage_unchanged h noJob hs hw (tableWriteAct_noWindow fromStart args hnone)

/-- TABLE READ and TABLE READ CONTINUE, told apart by where they begin. -/
theorem manage_tableRead_noWindow {s : State} {f : ShopFrame} (fromStart : Bool) (h : Requested s f [])
    (hw : NoPassWanted s) (hnone : s.window = none) :
    manage false (sized 0) noJob (tableReadAct fromStart) f s = answered s s f 0 .badWindow [] :=
  manage_unchanged h noJob rfl hw (tableReadAct_noWindow fromStart [] hnone)

/-! ### The statement -/

/-- Settles O19: TABLE WINDOW by the table it names and by its clamped ranges, the table numbers, the four
accesses without a window, and the resets. -/
theorem tableWindowIsSetAndRequired : Obligations.TableWindowIsSetAndRequired := by
  refine ⟨fun s f args h hlen hw => ⟨fun houtside => ?_, fun t ht => ⟨fun hempty => ?_, fun hrow hcell => ?_⟩⟩,
    fun n => ?_, fun s f hw hnone => ⟨fun args h hs => ⟨?_, ?_⟩, fun h => ⟨?_, ?_⟩⟩,
    rfl, State.warmReset_window, State.powerUp_window⟩
  · exact exec_tableWindow_refused h hlen hw (tableWindowAct_noTable s (tableOf_outside houtside))
  · exact exec_tableWindow_refused h hlen hw (tableWindowAct_empty s ht hempty)
  · rw [← tableOf_eq_some_iff.mp ht]
    exact exec_tableWindow_set h hlen hw ht hrow hcell
  · simp only [← tableOf_eq_some_iff, and_self, exists_tableOf_iff]
  · exact congrArg Host.Outcome.next (manage_tableWrite_noWindow true h hs hw hnone)
  · exact congrArg Host.Outcome.next (manage_tableWrite_noWindow false h hs hw hnone)
  · exact congrArg Host.Outcome.next (manage_tableRead_noWindow true h hw hnone)
  · exact congrArg Host.Outcome.next (manage_tableRead_noWindow false h hw hnone)

end Sys2Proof.Machine
end

-- O6, O7, O8, O11 and two parts of O5: the laws that hold of each move alone.
section
namespace Sys2Proof.Machine

/-! ### The induction over moves -/

/-- What every move keeps, a chain of moves keeps. -/
theorem Moves.keeps {P : State → Prop} (hP : ∀ {s t}, Move s t → P s → P t) {s t : State} (h : Moves s t)
    (hs : P s) : P t := by
  induction h with
  | refl => exact hs
  | step _ m ih => exact hP m ih

/-- What every move keeps, a step keeps. -/
theorem step_keeps {P : State → Prop} (hP : ∀ {s t}, Move s t → P s → P t) (s t : State) (hs : P s)
    (h : step s = .next t) : P t :=
  (moves_step h).keeps hP hs

/-! ### The line records and the ROSTER rows after a move -/

theorem LineStep.refl (r : Roster) (l : Line) : LineStep r l l := .same rfl rfl rfl rfl rfl

/-- A reset leaves a line with no credit, an empty FIFO and no burst. -/
theorem LineStep.emptied {r : Roster} {l l' : Line} (hc : l'.credits = 0) (hf : l'.fifo = []) (hb : l'.burst = none)
    (hp : l'.pace = l.pace ∨ l'.pace = 2000) : LineStep r l l' := by
  refine ⟨.inr (hc ▸ Nat.zero_le _), ?_, .inl ?_⟩
  · rcases hp with hp | hp
    · exact .inl hp
    · exact .inr (.inr (.inl (by omega)))
  · simp [lineLoad, hf, hb, fifoFill, burstLoad]

theorem lineStep_modLine (s : State) (p : LineNo) (f : Line → Line)
    (h : LineStep (s.rosterOf p) (s.line p) (f (s.line p))) (q : LineNo) :
    LineStep (s.rosterOf q) (s.line q) ((s.modLine p f).line q) := by
  by_cases hq : q = p
  · subst hq
    rwa [State.line_modLine_self]
  · rw [State.line_modLine_ne s f hq]
    exact .refl _ _

theorem Change.line_step {s t : State} (c : Change s t) (p : LineNo) :
    LineStep (s.rosterOf p) (s.line p) (t.line p) := by
  cases c with
  | line q f h => exact lineStep_modLine s q f h p
  | lines f h =>
    rw [State.line_mapLines]
    exact h p
  | jobs | sheets | forget | account | meter | alerts | blocks | lists => exact .refl _ _

/-- Whatever a move does to a line, it is a step of its credits, its pace and the load of its FIFO. -/
theorem Move.line_step {s t : State} (m : Move s t) (p : LineNo) :
    LineStep (s.rosterOf p) (s.line p) (t.line p) := by
  cases m with
  | change c => exact c.line_step p
  | take | enrol | store | outside | tables => exact .refl _ _
  | tick =>
    rw [State.tick_line]
    exact .same rfl rfl rfl rfl rfl
  | warm =>
    rw [State.warmReset_line]
    exact .emptied rfl rfl rfl (.inl rfl)
  | power straps =>
    rw [State.powerUp_line]
    exact .emptied rfl rfl rfl (.inr rfl)

theorem Change.roster_eq {s t : State} (c : Change s t) : t.roster = s.roster := by
  cases c <;> simp

/-- Whatever a move does to a ROSTER row, its nominal pace and its threshold stay in their ranges. -/
theorem Move.roster_step {s t : State} (m : Move s t) (p : LineNo) : RosterStep (s.rosterOf p) (t.rosterOf p) := by
  cases m with
  | change c =>
    have hrow : t.rosterOf p = s.rosterOf p := by simp only [State.rosterOf, c.roster_eq]
    rw [hrow]
    exact .refl _
  | take | enrol | store | outside => exact .refl _
  | tables _ _ _ _ _ _ _ roster _ _ h => exact h p
  | tick =>
    rw [State.tick_rosterOf]
    exact .refl _
  | warm =>
    rw [State.warmReset_rosterOf]
    exact .refl _
  | power straps =>
    rw [State.powerUp_rosterOf]
    exact ⟨.inr (by decide), .inr (by decide)⟩

/-! ### Credits (R67) -/

theorem Move.credit_law {s t : State} (m : Move s t) (h : CreditLaw s) : CreditLaw t := by
  intro p
  obtain ⟨⟨hcredits, hcapacity⟩ | hwithin, _, _⟩ := m.line_step p
  · exact hcapacity ▸ Nat.le_trans hcredits (h p)
  · exact hwithin

/-- Settles O6: every move keeps the credit counts within the capacities. -/
theorem stepKeepsCreditsWithinCapacity : Obligations.StepKeepsCreditsWithinCapacity := step_keeps Move.credit_law

/-! ### The pace (R102, R103, R106) -/

/-- Smoothing moves the pace toward the sample and never past it (R106). -/
theorem smoothPace_range {pace n lo hi : Nat} (hp : lo ≤ pace ∧ pace ≤ hi) (hn : lo ≤ n ∧ n ≤ hi) :
    lo ≤ smoothPace pace n ∧ smoothPace pace n ≤ hi := by
  unfold smoothPace
  rcases Nat.le_total pace n with h | h
  · rw [Int.tdiv_eq_ediv_of_nonneg (by omega)]
    omega
  · have hneg : ((n : Int) - pace).tdiv 8 = -(((pace : Int) - n) / 8) := by
      rw [← Int.tdiv_eq_ediv_of_nonneg (by omega), ← Int.neg_tdiv]
      congr 1
      omega
    rw [hneg]
    omega

theorem Move.pace_law {s t : State} (m : Move s t) (h : PaceLaw s) : PaceLaw t := by
  intro p
  obtain ⟨hpace, hnominal⟩ := h p
  refine ⟨?_, ?_⟩
  · obtain ⟨_, hsame | hroster | hrange | ⟨n, hlo, hhi, hsmooth⟩, _⟩ := m.line_step p
    · exact hsame ▸ hpace
    · exact hroster ▸ hnominal
    · exact hrange
    · exact hsmooth ▸ smoothPace_range hpace ⟨hlo, hhi⟩
  · obtain ⟨hsame | hrange, _⟩ := m.roster_step p
    · exact hsame ▸ hnominal
    · exact hrange

/-- Settles O7: every move keeps the paces and the nominal paces in their range. -/
theorem stepKeepsPaceInRange : Obligations.StepKeepsPaceInRange := step_keeps Move.pace_law

/-! ### The line FIFOs (R64, R69) -/

theorem Move.fifo_law {s t : State} (m : Move s t) (h : FifoLaw s) : FifoLaw t := by
  intro p
  obtain ⟨hload, hthreshold⟩ := h p
  refine ⟨?_, ?_⟩
  · obtain ⟨_, _, hless | ⟨hfill, hadd⟩⟩ := m.line_step p
    · exact Nat.le_trans hless hload
    · omega
  · obtain ⟨_, hsame | hrange⟩ := m.roster_step p
    · exact hsame ▸ hthreshold
    · exact hrange

/-- Settles O8: every move keeps the FIFO loads and the thresholds within their bounds. -/
theorem stepKeepsFifoWithinItsSize : Obligations.StepKeepsFifoWithinItsSize := step_keeps Move.fifo_law

/-! ### The alert table (R158 to R161, R163) -/

theorem AlertLaw.empty : AlertLaw [] [] := by simp [AlertLaw]

theorem Change.alert_law {s t : State} (c : Change s t) (h : AlertTableLaw s) : AlertTableLaw t := by
  cases c with
  | alerts as cs n o k => exact k h
  | line | lines | jobs | sheets | forget | account | meter | blocks | lists => exact h

theorem Move.alert_law {s t : State} (m : Move s t) (h : AlertTableLaw s) : AlertTableLaw t := by
  cases m with
  | change c => exact c.alert_law h
  | take | enrol | store | outside | tables => exact h
  | tick =>
    rw [AlertTableLaw, State.tick_alerts, State.tick_cleared]
    exact AlertLaw.map _ (fun _ => ⟨rfl, rfl, rfl⟩) (fun _ _ _ hc => hc) h
  | warm =>
    rw [AlertTableLaw, State.warmReset_alerts, State.warmReset_cleared]
    exact .empty
  | power =>
    rw [AlertTableLaw, State.powerUp_alerts, State.powerUp_cleared]
    exact .empty

/-- Settles O11: every move keeps the law of the alert table. -/
theorem stepKeepsAlertTable : Obligations.StepKeepsAlertTable := step_keeps Move.alert_law

/-! ### The spool bytes and the quarantine list (chapter 1, R5) -/

theorem Change.dram_eq {s t : State} (c : Change s t) : t.dram = s.dram := by
  cases c <;> simp

theorem Move.dram_law {s t : State} (m : Move s t) (h : DramLaw s) : DramLaw t := by
  cases m with
  | change c => exact (congrArg Memory.wf c.dram_eq).trans h
  | store chain k bytes => exact writeChain_wf chain bytes k s.dram h
  | take | enrol | outside | tables => exact h
  | tick => rwa [DramLaw, State.tick_dram]
  | warm => rwa [DramLaw, State.warmReset_dram]
  | power => rw [DramLaw, State.powerUp_dram, Memory.wf]

theorem Change.quarantine_law {s t : State} (c : Change s t) (h : QuarantineLaw s) : QuarantineLaw t := by
  cases c with
  | blocks fr q j f x hx hf hq hb => exact hq h
  | line | lines | jobs | sheets | forget | account | meter | alerts | lists => exact h

theorem Move.quarantine_law {s t : State} (m : Move s t) (h : QuarantineLaw s) : QuarantineLaw t := by
  cases m with
  | change c => exact c.quarantine_law h
  | take | enrol | store | outside | tables => exact h
  | tick => rwa [QuarantineLaw, State.tick_quarantine]
  | warm =>
    rw [QuarantineLaw, State.warmReset_quarantine]
    exact Nat.zero_le _
  | power =>
    rw [QuarantineLaw, State.powerUp_quarantine]
    exact Nat.zero_le _

end Sys2Proof.Machine
end

-- O9, O10: the job table, the sheet records and the spool blocks.
section
namespace Sys2Proof.Machine

/-! ### A job table cut at one of its records -/

/-- The job table cut at the record of number `j`: the numbers before and after it differ from `j`. -/
structure JobSplit (s : State) (j : Nat) (x : Job) (before after : List Job) : Prop where
  jobs : s.jobs = before ++ x :: after
  number : x.number = j
  before_ne : ∀ y ∈ before, y.number ≠ j
  after_ne : ∀ y ∈ after, y.number ≠ j

theorem JobTableLaw.nodup {s : State} (h : JobTableLaw s) : (s.jobs.map fun x => x.number).Nodup :=
  h.1.imp Nat.ne_of_lt

theorem JobTableLaw.split {s : State} {j : Nat} {x : Job} (h : JobTableLaw s) (hx : s.job? j = some x) :
    ∃ before after, JobSplit s j x before after := by
  obtain ⟨hnumber, before, after, hjobs, hbefore⟩ := List.find?_eq_some_iff_append.mp hx
  have hnumber : x.number = j := by simpa using hnumber
  refine ⟨before, after, hjobs, hnumber, fun y hy => by simpa using hbefore y hy, fun y hy he => ?_⟩
  have hnodup := h.nodup
  rw [hjobs, List.map_append, List.map_cons, List.nodup_append, List.nodup_cons] at hnodup
  exact hnodup.2.1.1 (List.mem_map.mpr ⟨y, hy, he.trans hnumber.symm⟩)

theorem map_if_number_ne {j : Nat} {f : Job → Job} {l : List Job} (h : ∀ y ∈ l, y.number ≠ j) :
    (l.map fun x => if x.number = j then f x else x) = l := by
  conv => rhs; rw [← List.map_id l]
  exact List.map_congr_left fun y hy => if_neg (h y hy)

theorem JobSplit.modJob {s : State} {j : Nat} {x : Job} {before after : List Job} (h : JobSplit s j x before after)
    (f : Job → Job) : (s.modJob j f).jobs = before ++ f x :: after := by
  simp only [State.modJob, h.jobs, List.map_append, List.map_cons, map_if_number_ne h.before_ne,
    map_if_number_ne h.after_ne, if_pos h.number]

theorem JobSplit.removeJob {s : State} {j : Nat} {x : Job} {before after : List Job}
    (h : JobSplit s j x before after) : (s.removeJob j).jobs = before ++ after := by
  have hbefore : (before.filter fun y => decide (y.number ≠ j)) = before :=
    List.filter_eq_self.mpr fun y hy => decide_eq_true (h.before_ne y hy)
  have hafter : (after.filter fun y => decide (y.number ≠ j)) = after :=
    List.filter_eq_self.mpr fun y hy => decide_eq_true (h.after_ne y hy)
  simp only [State.removeJob, h.jobs, List.filter_append, List.filter_cons, hbefore, hafter, h.number]
  simp

theorem State.removeJob_none {s : State} {j : Nat} (h : s.job? j = none) : (s.removeJob j).jobs = s.jobs :=
  List.filter_eq_self.mpr fun y hy => by simpa using List.find?_eq_none.mp h y hy

/-! ### What an operation makes of the numbers of the table -/

theorem map_number_map {f : Job → Job} (hf : ∀ x, (f x).number = x.number) (l : List Job) :
    (l.map f).map (fun x => x.number) = l.map fun x => x.number := by
  simp [hf]

/-- A change of records that keeps their numbers keeps the table's law. -/
theorem JobTableLaw.map {s t : State} (f : Job → Job) (hf : ∀ x, (f x).number = x.number)
    (ht : t.jobs = s.jobs.map f) (h : JobTableLaw s) : JobTableLaw t := by
  obtain ⟨hsorted, hlength, hrange⟩ := h
  rw [JobTableLaw, ht, map_number_map hf, List.length_map]
  refine ⟨hsorted, hlength, fun x hx => ?_⟩
  obtain ⟨y, hy, rfl⟩ := List.mem_map.mp hx
  rw [hf]
  exact hrange y hy

theorem JobTableLaw.modJob {s : State} (j : Nat) (f : Job → Job) (hf : ∀ x, (f x).number = x.number)
    (h : JobTableLaw s) : JobTableLaw (s.modJob j f) := by
  refine h.map (fun x => if x.number = j then f x else x) (fun x => ?_) rfl
  split
  · exact hf x
  · rfl

theorem JobTableLaw.removeJob {s : State} (j : Nat) (h : JobTableLaw s) : JobTableLaw (s.removeJob j) := by
  obtain ⟨hsorted, hlength, hrange⟩ := h
  exact ⟨hsorted.sublist (List.filter_sublist.map _), Nat.le_trans (List.length_filter_le _ _) hlength,
    fun x hx => hrange x (List.mem_filter.mp hx).1⟩

theorem JobTableLaw.empty {s : State} (h : s.jobs = []) : JobTableLaw s := by
  simp [JobTableLaw, h]

theorem insertJob_perm (x : Job) (l : List Job) : (insertJob x l).Perm (x :: l) := by
  induction l with
  | nil => exact .refl _
  | cons y l ih =>
    unfold insertJob
    split
    · exact .refl _
    · exact (ih.cons y).trans (.swap x y l)

theorem insertJob_sorted {x : Job} {l : List Job} (h : (l.map fun y => y.number).Pairwise (· < ·))
    (hx : x.number ∉ l.map fun y => y.number) : ((insertJob x l).map fun y => y.number).Pairwise (· < ·) := by
  induction l with
  | nil => simp [insertJob]
  | cons y l ih =>
    simp only [List.map_cons, List.pairwise_cons, List.mem_cons, not_or] at h hx
    obtain ⟨hhead, htail⟩ := h
    unfold insertJob
    split
    · rename_i hlt
      simp only [List.map_cons, List.pairwise_cons, List.mem_cons]
      refine ⟨fun n hn => ?_, hhead, htail⟩
      rcases hn with rfl | hn
      · exact hlt
      · exact Nat.lt_trans hlt (hhead n hn)
    · rename_i hlt
      have hyx : y.number < x.number := by
        have hne := hx.1
        omega
      rw [List.map_cons, List.pairwise_cons]
      refine ⟨fun n hn => ?_, ih htail hx.2⟩
      have hmem := ((insertJob_perm x l).map fun z => z.number).mem_iff.mp hn
      rw [List.map_cons, List.mem_cons] at hmem
      rcases hmem with rfl | hmem
      · exact hyx
      · exact hhead n hmem

theorem JobTableLaw.enrol {s : State} {x : Job} (hlen : s.jobs.length < Config.jobRecords)
    (hfresh : x.number ∉ s.jobs.map fun y => y.number) (hrange : 1 ≤ x.number ∧ x.number ≤ 65535)
    (h : JobTableLaw s) : JobTableLaw { s with jobs := insertJob x s.jobs, jobCtr := x.number } := by
  have hperm := insertJob_perm x s.jobs
  refine ⟨insertJob_sorted h.1 hfresh, ?_, fun y hy => ?_⟩
  · show (insertJob x s.jobs).length ≤ _
    rw [hperm.length_eq]
    exact hlen
  · rcases List.mem_cons.mp (hperm.mem_iff.mp hy) with rfl | hy
    · exact hrange
    · exact h.2.2 y hy

theorem Change.job_table {s t : State} (c : Change s t) (h : JobTableLaw s) : JobTableLaw t := by
  cases c with
  | jobs f hf => exact h.map f (fun x => (hf x).1) rfl
  | sheets j n bs f x hx hn hf hb => exact JobTableLaw.modJob (s := { s with pool := _, free := _ }) j f hf h
  | forget j => exact h.removeJob j
  | blocks fr q j f x hx hf =>
    exact JobTableLaw.modJob (s := { s with free := _, quarantine := _ }) j f (fun y => (hf y).1) h
  | line | lines | account | meter | alerts | lists => exact h

theorem Move.job_table {s t : State} (m : Move s t) (h : JobTableLaw s) : JobTableLaw t := by
  cases m with
  | change c => exact c.job_table h
  | take j hnew x hx hp hc => exact JobTableLaw.modJob (s := { s with pool := _ }) j _ (fun _ => rfl) h
  | enrol x hs hlen hfresh hrange => exact h.enrol hlen hfresh hrange
  | store | outside | tables => exact h
  | tick => rwa [JobTableLaw, State.tick_jobs]
  | warm => exact .empty s.warmReset_jobs
  | power straps => exact .empty (s.powerUp_jobs straps)

/-! ### The sheet records (R3) -/

theorem recordsInUse_append (a b : List Job) : recordsInUse (a ++ b) = recordsInUse a + recordsInUse b := by
  simp [recordsInUse]

theorem recordsInUse_cons (x : Job) (l : List Job) :
    recordsInUse (x :: l) = x.sheets.length + recordsInUse l := by
  simp [recordsInUse]

theorem recordsInUse_map {f : Job → Job} (hf : ∀ x, (f x).sheets.length = x.sheets.length) (l : List Job) :
    recordsInUse (l.map f) = recordsInUse l := by
  simp [recordsInUse, Function.comp_def, hf]

theorem recordsInUse_perm {a b : List Job} (h : a.Perm b) : recordsInUse a = recordsInUse b :=
  (h.map _).sum_nat

/-- A change of one record moves the count by what it does to that record. -/
theorem JobSplit.recordsInUse_modJob {s : State} {j : Nat} {x : Job} {before after : List Job}
    (h : JobSplit s j x before after) (f : Job → Job) :
    recordsInUse (s.modJob j f).jobs + x.sheets.length = recordsInUse s.jobs + (f x).sheets.length := by
  rw [h.modJob, h.jobs]
  simp only [recordsInUse_append, recordsInUse_cons]
  omega

theorem recordsInUse_modJob {s : State} {j : Nat} {f : Job → Job}
    (hf : ∀ x, (f x).sheets.length = x.sheets.length) : recordsInUse (s.modJob j f).jobs = recordsInUse s.jobs := by
  refine recordsInUse_map (f := fun x => if x.number = j then f x else x) (fun x => ?_) s.jobs
  split
  · exact hf x
  · rfl

theorem recordsInUse_removeJob {s : State} {j : Nat} (h : JobTableLaw s)
    (hj : ∀ x, s.job? j = some x → x.sheets = []) : recordsInUse (s.removeJob j).jobs = recordsInUse s.jobs := by
  cases hx : s.job? j with
  | none => rw [State.removeJob_none hx]
  | some x =>
    obtain ⟨before, after, hsplit⟩ := h.split hx
    rw [hsplit.removeJob, hsplit.jobs, recordsInUse_append, recordsInUse_append, recordsInUse_cons, hj x hx]
    simp

theorem Change.sheet_records {s t : State} (c : Change s t) (h : SheetRecordLaw s) :
    t.pool + recordsInUse t.jobs = Config.sheetRecords := by
  obtain ⟨htable, hsum⟩ := h
  cases c with
  | jobs f hf => exact (congrArg (s.pool + ·) (recordsInUse_map (fun x => chainsOf_length (hf x).2) s.jobs)).trans hsum
  | sheets j n bs f x hx hn hf hb =>
    obtain ⟨before, after, hsplit⟩ := htable.split hx
    have hcount := hsplit.recordsInUse_modJob f
    have hpool : s.pool + n + recordsInUse (s.modJob j f).jobs = Config.sheetRecords := by omega
    exact hpool
  | forget j hj => exact (congrArg (s.pool + ·) (recordsInUse_removeJob htable hj)).trans hsum
  | blocks fr q j f x hx hf =>
    exact (congrArg (s.pool + ·) (recordsInUse_modJob (s := s) (j := j) fun y => (hf y).2)).trans hsum
  | line | lines | account | meter | alerts | lists => exact hsum

theorem Move.sheet_record_law {s t : State} (m : Move s t) (h : SheetRecordLaw s) : SheetRecordLaw t := by
  refine ⟨m.job_table h.1, ?_⟩
  obtain ⟨htable, hsum⟩ := h
  cases m with
  | change c => exact c.sheet_records ⟨htable, hsum⟩
  | take j hnew x hx hp hc =>
    obtain ⟨before, after, hsplit⟩ := htable.split hx
    have hcount := hsplit.recordsInUse_modJob fun y => { y with sheets := y.sheets ++ [hnew] }
    rw [List.length_append, List.length_singleton] at hcount
    have hpool : s.pool - 1 + recordsInUse (s.modJob j fun y => { y with sheets := y.sheets ++ [hnew] }).jobs =
        Config.sheetRecords := by omega
    exact hpool
  | enrol x hs =>
    have hcount : recordsInUse (insertJob x s.jobs) = recordsInUse s.jobs := by
      rw [recordsInUse_perm (insertJob_perm x s.jobs), recordsInUse_cons, hs, List.length_nil, Nat.zero_add]
    exact (congrArg (s.pool + ·) hcount).trans hsum
  | store | outside | tables => exact hsum
  | tick => rwa [State.tick_pool, State.tick_jobs]
  | warm => rw [State.warmReset_pool, State.warmReset_jobs, recordsInUse, List.map_nil, List.sum_nil, Nat.add_zero]
  | power => rw [State.powerUp_pool, State.powerUp_jobs, recordsInUse, List.map_nil, List.sum_nil, Nat.add_zero]

/-- Settles O9: every move keeps the job table in order and the sheet records counted. -/
theorem stepConservesSheetRecords : Obligations.StepConservesSheetRecords := step_keeps Move.sheet_record_law

/-! ### The spool blocks (R2) -/

theorem chainBlocks_eq (l : List Job) : chainBlocks l = l.flatMap fun x => (chainsOf x).flatten := by
  simp [chainBlocks, chainsOf, List.flatMap]

theorem chainBlocks_append (a b : List Job) : chainBlocks (a ++ b) = chainBlocks a ++ chainBlocks b := by
  simp [chainBlocks]

theorem chainBlocks_cons (x : Job) (l : List Job) : chainBlocks (x :: l) = (chainsOf x).flatten ++ chainBlocks l := by
  simp [chainBlocks_eq]

theorem chainBlocks_map {f : Job → Job} (hf : ∀ x, chainsOf (f x) = chainsOf x) (l : List Job) :
    chainBlocks (l.map f) = chainBlocks l := by
  simp [chainBlocks_eq, List.flatMap_map, hf]

/-- The placed blocks with those of one job's chains brought to the front. -/
theorem JobSplit.placed_perm {s : State} {j : Nat} {x : Job} {before after : List Job}
    (h : JobSplit s j x before after) :
    (placedBlocks s).Perm (s.free ++ (chainsOf x).flatten ++ s.quarantine ++ chainBlocks (before ++ after)) := by
  rw [placedBlocks, h.jobs, List.perm_iff_count]
  intro b
  simp only [chainBlocks_append, chainBlocks_cons, List.count_append]
  omega

/-- The same after a change of that job's record and of the two lists. -/
theorem JobSplit.placed_modJob_perm {s : State} {j : Nat} {x : Job} {before after : List Job}
    (h : JobSplit s j x before after) {t : State} (f : Job → Job) (ht : t.jobs = (s.modJob j f).jobs) :
    (placedBlocks t).Perm (t.free ++ (chainsOf (f x)).flatten ++ t.quarantine ++ chainBlocks (before ++ after)) := by
  rw [placedBlocks, ht, h.modJob, List.perm_iff_count]
  intro b
  simp only [chainBlocks_append, chainBlocks_cons, List.count_append]
  omega

theorem mem_ascending {n b : Nat} {x : Block} (h : x ∈ ascending n b) (hb : b + n ≤ 32768) : b ≤ x.val := by
  induction n generalizing b with
  | zero => cases h
  | succ n ih =>
    rcases List.mem_cons.mp h with rfl | h
    · exact Nat.le_of_eq (Nat.mod_eq_of_lt (by omega)).symm
    · exact Nat.le_of_succ_le (ih h (by omega))

theorem ascending_nodup {n b : Nat} (hb : b + n ≤ 32768) : (ascending n b).Nodup := by
  induction n generalizing b with
  | zero => exact .nil
  | succ n ih =>
    refine List.nodup_cons.mpr ⟨fun hmem => ?_, ih (by omega)⟩
    have hle : b + 1 ≤ b % 32768 := mem_ascending hmem (by omega)
    rw [Nat.mod_eq_of_lt (by omega)] at hle
    omega

theorem State.reset_free : State.reset.free = ascending Config.blocks 0 := by
  simp only [State.reset, State.powerOn]

theorem BlockLaw.nodup {s : State} (h : BlockLaw s) : (placedBlocks s).Nodup := by
  rw [h.nodup_iff, State.reset_free]
  exact ascending_nodup (Nat.le_refl _)

theorem Change.placed_perm {s t : State} (c : Change s t) (htable : JobTableLaw s) (h : (placedBlocks s).Nodup) :
    (placedBlocks t).Perm (placedBlocks s) := by
  cases c with
  | jobs f hf => simp only [placedBlocks, chainBlocks_map (fun x => (hf x).2), List.Perm.refl]
  | sheets j n bs f x hx hn hf hb =>
    obtain ⟨before, after, hsplit⟩ := htable.split hx
    refine (hsplit.placed_modJob_perm (t := State.modJob { s with pool := s.pool + n, free := s.free ++ bs } j f) f
      rfl).trans (.trans (.append_right _ ?_) hsplit.placed_perm.symm)
    rw [State.modJob_free, State.modJob_quarantine, List.append_assoc s.free]
    exact .append_right _ (hb.append_left _)
  | forget j hj =>
    cases hx : s.job? j with
    | none => simp only [placedBlocks, State.removeJob_none hx, State.removeJob_free, State.removeJob_quarantine,
        List.Perm.refl]
    | some x =>
      obtain ⟨before, after, hsplit⟩ := htable.split hx
      have hempty : chainsOf x = [] := by simp [chainsOf, hj x hx]
      simp only [placedBlocks, hsplit.removeJob, hsplit.jobs, State.removeJob_free, State.removeJob_quarantine,
        chainBlocks_append, chainBlocks_cons, hempty, List.flatten_nil, List.nil_append, List.Perm.refl]
  | blocks fr q j f x hx hf hq hb =>
    obtain ⟨before, after, hsplit⟩ := htable.split hx
    refine (hsplit.placed_modJob_perm (t := State.modJob { s with free := fr, quarantine := q } j f) f
      rfl).trans (.trans (.append_right _ ?_) hsplit.placed_perm.symm)
    exact hb (((hsplit.placed_perm.nodup_iff.mp h).sublist (List.sublist_append_left _ _)))
  | line | lines | account | meter | alerts | lists => exact .refl _

/-- The job table and the block law together are kept by every move. -/
theorem Move.block_law {s t : State} (m : Move s t) (h : JobTableLaw s ∧ BlockLaw s) :
    JobTableLaw t ∧ BlockLaw t := by
  obtain ⟨htable, hblocks⟩ := h
  refine ⟨m.job_table htable, ?_⟩
  cases m with
  | change c => exact (c.placed_perm htable hblocks.nodup).trans hblocks
  | take j hnew x hx hp hc =>
    obtain ⟨before, after, hsplit⟩ := htable.split hx
    refine (hsplit.placed_modJob_perm _ rfl).trans (.trans ?_ (hsplit.placed_perm.symm.trans hblocks))
    have hchains : (chainsOf { x with sheets := x.sheets ++ [hnew] }).flatten = (chainsOf x).flatten := by
      simp [chainsOf, hc]
    rw [hchains]
    exact .refl _
  | enrol x hs =>
    refine List.Perm.trans (.append_right _ (.append_left _ ?_)) hblocks
    have hempty : chainsOf x = [] := by simp [chainsOf, hs]
    have hcons := (insertJob_perm x s.jobs).flatMap_right fun y => y.sheets.flatMap fun (g : Sheet) => g.chain
    refine hcons.trans ?_
    show (chainBlocks (x :: s.jobs)).Perm _
    rw [chainBlocks_cons, hempty]
    exact .refl _
  | store | outside | tables => exact hblocks
  | tick => rwa [BlockLaw, placedBlocks, State.tick_free, State.tick_jobs, State.tick_quarantine]
  | warm =>
    rw [BlockLaw, placedBlocks, State.warmReset_free, State.warmReset_jobs, State.warmReset_quarantine,
      State.reset_free, chainBlocks, List.flatMap_nil, List.append_nil, List.append_nil]
  | power =>
    rw [BlockLaw, placedBlocks, State.powerUp_free, State.powerUp_jobs, State.powerUp_quarantine,
      State.reset_free, chainBlocks, List.flatMap_nil, List.append_nil, List.append_nil]

/-- Settles O10: every move leaves each block in one place, in a job table that is in order. -/
theorem stepKeepsEveryBlockInOnePlace : Obligations.StepKeepsEveryBlockInOnePlace := fun s t hrecords hblocks hstep =>
  (step_keeps Move.block_law s t ⟨hrecords.1, hblocks⟩ hstep).2

end Sys2Proof.Machine
end

-- What the end of an event leaves: the figures of the accounts, the stores under way, the state of a line.
section
namespace Sys2Proof.Machine

/-! ### Two relations between the states of an event -/

/-- No figure of an account has changed, and no store has begun. -/
structure Kept (s t : State) : Prop where
  figures : ∀ a, sameFigures (s.account a) (t.account a)
  stores : ∀ u ∈ t.stores, u ∈ s.stores

/-- Beside that, no line has changed its state or its move delay. -/
structure Steady (s t : State) : Prop extends Kept s t where
  lines : ∀ p, (t.line p).state = (s.line p).state ∧ (t.line p).moveDelay = (s.line p).moveDelay

theorem Kept.refl (s : State) : Kept s s := ⟨fun _ => rfl, fun _ h => h⟩

theorem Kept.trans {s t u : State} (h : Kept s t) (k : Kept t u) : Kept s u :=
  ⟨fun a => (k.figures a).trans (h.figures a), fun v hv => h.stores v (k.stores v hv)⟩

theorem Steady.refl (s : State) : Steady s s := ⟨.refl s, fun _ => ⟨rfl, rfl⟩⟩

theorem Steady.trans {s t u : State} (h : Steady s t) (k : Steady t u) : Steady s u :=
  ⟨h.toKept.trans k.toKept, fun p =>
    ⟨(k.lines p).1.trans (h.lines p).1, (k.lines p).2.trans (h.lines p).2⟩⟩

theorem Kept.foldl {β : Type} {f : State → β → State} (hf : ∀ s b, Kept s (f s b)) (l : List β) (s : State) :
    Kept s (l.foldl f s) := by
  induction l generalizing s with
  | nil => exact .refl s
  | cons b l ih => exact (hf s b).trans (ih _)

theorem Steady.foldl {β : Type} {f : State → β → State} (hf : ∀ s b, Steady s (f s b)) (l : List β) (s : State) :
    Steady s (l.foldl f s) := by
  induction l generalizing s with
  | nil => exact .refl s
  | cons b l ih => exact (hf s b).trans (ih _)

/-- A change of no account, no store and no line. -/
theorem Steady.same {s t : State} (ha : t.accounts = s.accounts) (hs : t.stores = s.stores)
    (hl : t.lines = s.lines) : Steady s t := by
  refine ⟨⟨fun a => ?_, fun u hu => hs ▸ hu⟩, fun p => ?_⟩
  · simp only [sameFigures, State.account, ha]
  · simp only [State.line, hl, and_self]

theorem Kept.modLine (s : State) (p : LineNo) (f : Line → Line) : Kept s (s.modLine p f) :=
  ⟨fun _ => rfl, fun _ h => h⟩

/-- A change of one line record that keeps its state and its move delay. -/
theorem Steady.modLine (s : State) (p : LineNo) (f : Line → Line)
    (hf : ∀ l, (f l).state = l.state ∧ (f l).moveDelay = l.moveDelay) : Steady s (s.modLine p f) :=
  ⟨.modLine s p f, fun q => ⟨s.line_modLine_keeps Line.state p f (fun l => (hf l).1) q,
    s.line_modLine_keeps Line.moveDelay p f (fun l => (hf l).2) q⟩⟩

theorem Steady.modJob (s : State) (j : Nat) (f : Job → Job) : Steady s (s.modJob j f) := .same rfl rfl rfl

/-- The same after a steady chain. -/
theorem Steady.thenLine {s t : State} (h : Steady s t) (p : LineNo) (f : Line → Line)
    (hf : ∀ l, (f l).state = l.state ∧ (f l).moveDelay = l.moveDelay) : Steady s (t.modLine p f) :=
  h.trans (.modLine t p f hf)

theorem Steady.thenJob {s t : State} (h : Steady s t) (j : Nat) (f : Job → Job) : Steady s (t.modJob j f) :=
  h.trans (.modJob t j f)

/-- A change of one account's record that keeps its figures. -/
theorem Steady.modAccount (s : State) (a : AccountNo) (f : Account → Account) (hf : ∀ x, sameFigures x (f x)) :
    Steady s (s.modAccount a f) := by
  refine ⟨⟨fun b => ?_, fun _ h => h⟩, fun _ => ⟨rfl, rfl⟩⟩
  by_cases hb : b = a
  · subst hb
    rw [State.account_modAccount_self]
    exact hf _
  · rw [State.account_modAccount_ne s f hb]
    rfl

/-! ### The alert relay changes its own fields alone -/

/-- The state with the alert relay's own fields of another. -/
def State.alertsOf (s t : State) : State :=
  { s with alerts := t.alerts, cleared := t.cleared, alertCtr := t.alertCtr, shopOut := t.shopOut }

theorem State.openAlert_only (s : State) (k : AlertKind) (subj : Subject) (d : Detail) :
    s.openAlert k subj d = s.alertsOf (s.openAlert k subj d) := by
  unfold State.openAlert
  cases s.alertOf k subj with
  | some r =>
    dsimp only
    split <;> rfl
  | none =>
    cases hplace : s.alertPlace with
    | none => rfl
    | some t =>
      obtain ⟨rfl, _⟩ | ⟨n, _, rfl⟩ := alertPlace_some hplace <;> dsimp only <;> split <;> rfl

theorem State.clearAlert_only (s : State) (k : AlertKind) (subj : Subject) :
    s.clearAlert k subj = s.alertsOf (s.clearAlert k subj) := by
  unfold State.clearAlert
  cases s.alertOf k subj with
  | some r =>
    dsimp only
    split <;> rfl
  | none => rfl

theorem steady_openAlert (s : State) (k : AlertKind) (subj : Subject) (d : Detail) :
    Steady s (s.openAlert k subj d) := by
  rw [s.openAlert_only]
  exact .same rfl rfl rfl

theorem steady_clearAlert (s : State) (k : AlertKind) (subj : Subject) : Steady s (s.clearAlert k subj) := by
  rw [s.clearAlert_only]
  exact .same rfl rfl rfl

/-! ### The spool store -/

theorem steady_evalSpoolLow (s : State) : Steady s s.evalSpoolLow := by
  unfold State.evalSpoolLow
  split
  · exact .trans (t := { s with spoolLow := true }) (.same rfl rfl rfl) (steady_openAlert _ _ _ _)
  · split
    · exact .trans (t := { s with spoolLow := false }) (.same rfl rfl rfl) (steady_clearAlert _ _ _)
    · exact .refl s

theorem steady_returnBlocks (s : State) (bs : List Block) : Steady s (s.returnBlocks bs) := by
  cases bs with
  | nil => exact .refl s
  | cons b bs => exact .trans (t := { s with free := s.free ++ b :: bs }) (.same rfl rfl rfl) (steady_evalSpoolLow _)

theorem steady_releaseStorage (s : State) (j : Nat) : Steady s (s.releaseStorage j) := by
  unfold State.releaseStorage
  split
  · refine Steady.trans ?_ (steady_returnBlocks _ _)
    exact .same rfl rfl rfl
  · exact .refl s

theorem steady_purge (s : State) (j : Nat) : Steady s (s.purge j) := by
  have hstores : Steady s { s with stores := s.stores.filter fun t => decide (t.job ≠ j) } :=
    ⟨⟨fun _ => rfl, fun _ hu => (List.mem_filter.mp hu).1⟩, fun _ => ⟨rfl, rfl⟩⟩
  exact (hstores.trans (steady_releaseStorage _ j)).trans (.same rfl rfl rfl)

/-! ### The job table -/

theorem steady_enterWaiting (s : State) (j : Nat) : Steady s (s.enterWaiting j) := .same rfl rfl rfl

theorem steady_leaveWaiting (s : State) (j : Nat) : Steady s (s.leaveWaiting j) := .same rfl rfl rfl

theorem steady_leaveQuota (s : State) (a : AccountNo) (j : Nat) : Steady s (s.leaveQuota a j) := by
  have hleave := Steady.modAccount s a (fun x => { x with quotaHeld := without j x.quotaHeld }) fun _ => rfl
  unfold State.leaveQuota
  split
  · dsimp only
    split
    · exact hleave.trans (steady_clearAlert _ _ _)
    · exact hleave
  · exact .refl s

theorem steady_rechoose (s : State) (p : LineNo) : Steady s (s.rechoose p) := by
  have hjobs : Steady s { s with jobs := s.jobs.map (afterChoice (s.line p).queue (s.feedingChoice p)) } :=
    .same rfl rfl rfl
  unfold State.rechoose
  exact hjobs.thenLine p _ fun _ => ⟨rfl, rfl⟩

theorem steady_leaveQueue (s : State) (p : LineNo) (j : Nat) : Steady s (s.leaveQueue p j) := by
  refine Steady.trans ?_ (steady_rechoose _ p)
  exact .modLine s p _ fun _ => ⟨rfl, rfl⟩

theorem steady_unqueue (s : State) (j : Nat) : Steady s (s.unqueue j) := by
  unfold State.unqueue
  split
  · split
    · exact (Steady.modJob s j _).trans (steady_leaveQueue _ _ j)
    · exact .refl s
  · exact .refl s

theorem steady_unbind (s : State) (p : LineNo) (j : Nat) : Steady s (s.unbind p j) := by
  have hout : Steady s ((s.modLine p fun l => { l with queue := without j l.queue }).modJob j
      fun y => { y with bound := none }) := by
    refine Steady.thenJob ?_ j _
    exact .modLine s p _ fun _ => ⟨rfl, rfl⟩
  unfold State.unbind
  split
  · exact .refl s
  · dsimp only
    split
    · exact hout.thenJob j _
    · split
      · exact (hout.thenJob j _).trans (steady_enterWaiting _ j)
      · exact hout.trans (steady_enterWaiting _ j)

theorem steady_complete (s : State) (j : Nat) : Steady s (s.complete j) := by
  unfold State.complete
  split
  · exact .refl s
  · rename_i x _
    dsimp only
    have hdone (f : Job → Job) : Steady s ((((s.unqueue j).leaveWaiting j).modJob j f).leaveQuota x.account j) :=
      ((steady_unqueue s j).trans (steady_leaveWaiting _ j)).trans
        ((Steady.modJob _ j f).trans (steady_leaveQuota _ _ j))
    split
    · exact hdone _
    · exact (hdone _).trans (steady_purge _ j)

theorem steady_endLeaving (s : State) (j : Nat) : Steady s (s.endLeaving j) := by
  unfold State.endLeaving
  split
  · exact .refl s
  · split
    · split
      · exact steady_complete s j
      · split
        · exact (steady_unbind s _ j).trans (steady_rechoose _ _)
        · exact .refl s
    · exact .refl s

theorem steady_startLeaving (s : State) (j : Nat) (t : LeaveTarget) (r : Option HoldReason) :
    Steady s (s.startLeaving j t r) := by
  unfold State.startLeaving
  split
  · exact .refl s
  · dsimp only
    refine Steady.trans ?_ (steady_endLeaving _ j)
    split
    · exact (Steady.modJob s j _).trans (steady_rechoose _ _)
    · exact Steady.modJob s j _

/-! ### The quota retry -/

theorem steady_retryJob (s : State) (j : Nat) : Steady s (s.retryJob j) := by
  unfold State.retryJob
  split
  · split
    · exact steady_enterWaiting s j
    · split
      · exact .modJob s j _
      · exact .refl s
  · exact .refl s

theorem steady_quotaRetry (s : State) (a : AccountNo) : Steady s (s.quotaRetry a) := by
  unfold State.quotaRetry
  split
  · exact .refl s
  · refine Steady.trans ?_ (steady_clearAlert _ _ _)
    refine (Steady.foldl steady_retryJob (s.account a).quotaHeld s).trans ?_
    exact .modAccount _ a _ fun _ => rfl

theorem steady_quotaRetries (before s : State) : Steady s (State.quotaRetries before s) :=
  .foldl steady_quotaRetry _ s

/-! ### The move delay and the binding passes -/

theorem steady_moveJobOff (s : State) (j : Nat) : Steady s (s.moveJobOff j) := by
  unfold State.moveJobOff
  split
  · exact .refl s
  · split
    · exact .refl s
    · split
      · exact steady_startLeaving s j _ _
      · split
        · exact .modJob s j _
        · exact .refl s

theorem steady_requestFlush (s : State) (p : LineNo) (u : Purpose) : Steady s (s.requestFlush p u) := by
  unfold State.requestFlush
  split
  · exact .refl s
  · split
    · exact .modLine s p _ fun _ => ⟨rfl, rfl⟩
    · exact .modLine s p _ fun _ => ⟨rfl, rfl⟩

/-- A move delay expiry stops the timer of its line, and is steady from there on. -/
theorem steady_moveOff (s : State) (p : LineNo) :
    Steady (s.modLine p fun l => { l with moveDelay := .stopped }) (s.moveOff p) := by
  unfold State.moveOff
  dsimp only
  have hjobs := Steady.foldl steady_moveJobOff (s.line p).queue (s.modLine p fun l => { l with moveDelay := .stopped })
  split
  · exact hjobs.trans (steady_requestFlush _ p _)
  · exact hjobs

theorem kept_moveOff (s : State) (p : LineNo) : Kept s (s.moveOff p) :=
  (Kept.modLine s p _).trans (steady_moveOff s p).toKept

theorem kept_enterBlocked (s : State) (p : LineNo) (o : BlockOrigin) : Kept s (s.enterBlocked p o) :=
  ⟨fun _ => rfl, fun _ h => h⟩

theorem kept_enterWaking (s : State) (p : LineNo) (wake : Bool) : Kept s (s.enterWaking p wake) := by
  have hstart : Kept s (s.startWaking p wake) := ⟨fun _ => rfl, fun _ h => h⟩
  obtain h | h := s.enterWaking_cases p wake
  · exact h ▸ hstart
  · exact h ▸ hstart.trans (kept_enterBlocked _ p _)

/-- A binding before a STANDBY printer is woken: the job out of the waiting list and in the queue. -/
def State.placeInQueue (s : State) (j q : Nat) (p : LineNo) : State :=
  let s1 := (s.modJob j fun x =>
    { x with bound := some p, run := .queued, binding := 0, excluded := none }).leaveWaiting j
  s1.modLine p fun l => { l with queue := insertAfterLast (s1.goesBehind q) j (without j l.queue), standbyPending := false }

/-- A binding: the place in the queue, the wake of a STANDBY printer, and the feeding choice (R32, R46). -/
theorem State.bind_eq (s : State) (j q : Nat) (p : LineNo) :
    s.bind j q p = (if (s.line p).state = .standby then (s.placeInQueue j q p).enterWaking p true
      else s.placeInQueue j q p).rechoose p := by
  have hstate : ((s.placeInQueue j q p).line p).state = (s.line p).state := by
    rw [State.placeInQueue, State.line_modLine_self]
    rfl
  rw [← hstate]
  rfl

theorem steady_placeInQueue (s : State) (j q : Nat) (p : LineNo) : Steady s (s.placeInQueue j q p) := by
  unfold State.placeInQueue
  exact Steady.thenLine ((Steady.modJob s j _).trans (steady_leaveWaiting _ j)) p _ fun _ => ⟨rfl, rfl⟩

theorem kept_bind (s : State) (j q : Nat) (p : LineNo) : Kept s (s.bind j q p) := by
  rw [s.bind_eq]
  refine Kept.trans ?_ (steady_rechoose _ p).toKept
  split
  · exact (steady_placeInQueue s j q p).toKept.trans (kept_enterWaking _ p true)
  · exact (steady_placeInQueue s j q p).toKept

theorem kept_judge (s : State) (j : Nat) : Kept s (s.judge j) := by
  unfold State.judge
  split
  · exact .refl s
  · split
    · exact kept_bind s j _ _
    · exact (Steady.modJob s j _).toKept

theorem kept_pass (s : State) : Kept s s.pass := by
  have hjudge := Kept.foldl kept_judge s.waiting { s with passesWanted := 0 }
  exact ⟨hjudge.figures, hjudge.stores⟩

theorem kept_passes (n : Nat) (s : State) : Kept s (State.passes n s) := by
  induction n generalizing s with
  | zero => exact .refl s
  | succ n ih => exact (kept_pass s).trans (ih _)

/-! ### The end of an event -/

theorem kept_settleLoop (before : State) (n : Nat) (s : State) : Kept s (settleLoop before n s) := by
  induction n generalizing s with
  | zero => exact .refl s
  | succ n ih =>
    unfold settleLoop
    split
    · have hpasses := kept_passes s.passesWanted { s with passesWanted := 0 }
      exact Kept.trans ⟨hpasses.figures, hpasses.stores⟩ (ih _)
    · split
      · exact (kept_moveOff s _).trans (ih _)
      · exact .refl s

theorem kept_refreshIdle (s : State) : Kept s s.refreshIdle := ⟨fun _ => rfl, fun _ h => h⟩

/-- The end of an event changes no figure of an account, and begins no store. -/
theorem kept_settleEvent (before s : State) : Kept s (settleEvent before s) :=
  ((steady_quotaRetries before s).toKept.trans (kept_settleLoop before settleFuel _)).trans (kept_refreshIdle _)

end Sys2Proof.Machine
end

-- O12: the end of an event runs every binding pass (R29), within the fuel of its loop.
section
namespace Sys2Proof.Machine

/-! ### What is left for the loop to do -/

/-- What a line may still cost the loop: a STANDBY line can be woken and its zero move delay then expire, a
BLOCKED one can have its zero move delay expire. -/
def loopCost (before l : Line) : Nat :=
  if l.state = .standby then 3
  else if l.state = .blocked ∧ timerDue l.moveDelay = true ∧ timerDue before.moveDelay = false then 2 else 0

/-- The cost of all lines. -/
def loopCosts (before s : State) : Nat := (allLines.map fun p => loopCost (before.line p) (s.line p)).sum

theorem loopCost_le (before l : Line) : loopCost before l ≤ 3 := by
  unfold loopCost
  split
  · exact Nat.le_refl _
  · split <;> omega

theorem sum_le_length_mul {l : List Nat} {c : Nat} (h : ∀ n ∈ l, n ≤ c) : l.sum ≤ l.length * c := by
  induction l with
  | nil => exact Nat.zero_le _
  | cons n l ih =>
    obtain ⟨hn, hl⟩ := List.forall_mem_cons.mp h
    rw [List.sum_cons, List.length_cons, Nat.succ_mul, Nat.add_comm]
    exact Nat.add_le_add (ih hl) hn

theorem loopCosts_le (before s : State) : loopCosts before s ≤ 48 :=
  sum_le_length_mul (c := 3) fun c hc => by
    obtain ⟨p, _, rfl⟩ := List.mem_map.mp hc
    exact loopCost_le _ _

theorem mem_allLines (p : LineNo) : p ∈ allLines := by
  revert p
  decide

theorem allLines_nodup : allLines.Nodup := by decide

theorem loopCosts_congr {before s t : State} (h : ∀ p, (t.line p).state = (s.line p).state ∧
    (t.line p).moveDelay = (s.line p).moveDelay) : loopCosts before t = loopCosts before s := by
  unfold loopCosts loopCost
  simp only [(h _).1, (h _).2]

theorem Steady.costs {s t : State} (h : Steady s t) (before : State) : loopCosts before t = loopCosts before s :=
  loopCosts_congr h.lines

/-- A sum over all lines of which one term changes. -/
theorem sum_allLines_change {f g : LineNo → Nat} (p : LineNo) (h : ∀ q, q ≠ p → g q = f q) :
    (allLines.map g).sum + f p = (allLines.map f).sum + g p := by
  have key (l : List LineNo) (hd : l.Nodup) (hp : p ∈ l) : (l.map g).sum + f p = (l.map f).sum + g p := by
    induction l with
    | nil => cases hp
    | cons q l ih =>
      rw [List.nodup_cons] at hd
      simp only [List.map_cons, List.sum_cons]
      by_cases hq : q = p
      · subst hq
        have htail : l.map g = l.map f :=
          List.map_congr_left fun r hr => h r fun e => hd.1 (e ▸ hr)
        rw [htail]
        omega
      · have hmem : p ∈ l := (List.mem_cons.mp hp).resolve_left fun e => hq e.symm
        have htail := ih hd.2 hmem
        rw [h q hq]
        omega
  exact key allLines allLines_nodup (mem_allLines p)

/-- A change of one line moves the cost by what it does to that line. -/
theorem loopCosts_change {before s t : State} (p : LineNo) (h : ∀ q, q ≠ p → t.line q = s.line q) :
    loopCosts before t + loopCost (before.line p) (s.line p) =
      loopCosts before s + loopCost (before.line p) (t.line p) :=
  sum_allLines_change (f := fun q => loopCost (before.line q) (s.line q))
    (g := fun q => loopCost (before.line q) (t.line q)) p fun q hq => by rw [h q hq]

/-! ### What a pass costs -/

/-- Neither the cost nor the cost with the passes asked for has risen. -/
structure Cheaper (before s t : State) : Prop where
  costs : loopCosts before t ≤ loopCosts before s
  wanted : loopCosts before t + t.passesWanted ≤ loopCosts before s + s.passesWanted

theorem Cheaper.refl (before s : State) : Cheaper before s s := ⟨Nat.le_refl _, Nat.le_refl _⟩

theorem Cheaper.trans {before s t u : State} (h : Cheaper before s t) (k : Cheaper before t u) :
    Cheaper before s u :=
  ⟨Nat.le_trans k.costs h.costs, Nat.le_trans k.wanted h.wanted⟩

theorem Cheaper.foldl {before : State} {β : Type} {f : State → β → State} (hf : ∀ s b, Cheaper before s (f s b))
    (l : List β) (s : State) : Cheaper before s (l.foldl f s) := by
  induction l generalizing s with
  | nil => exact .refl before s
  | cons b l ih => exact (hf s b).trans (ih _)

theorem Steady.cheaper {s t : State} (h : Steady s t) (before : State) (hw : t.passesWanted = s.passesWanted) :
    Cheaper before s t :=
  ⟨Nat.le_of_eq (h.costs before), Nat.le_of_eq (by rw [h.costs before, hw])⟩

theorem State.enterWaking_state (s : State) (p : LineNo) (wake : Bool) :
    ((s.enterWaking p wake).line p).state ≠ .standby := by
  obtain h | h := s.enterWaking_cases p wake
  · rw [h, State.line_startWaking_self]
    simp [wakingLine]
  · rw [h, State.line_enterBlocked_self]
    simp [blockedLine]

/-- The wake of a STANDBY line asks for one pass, and pays for it. -/
theorem cheaper_enterWaking (before : State) {s : State} {p : LineNo} (wake : Bool)
    (h : (s.line p).state = .standby) : Cheaper before s (s.enterWaking p wake) := by
  have hchange := loopCosts_change (before := before) (t := s.enterWaking p wake) p
    fun q hq => s.line_enterWaking_ne wake hq
  have hfrom : loopCost (before.line p) (s.line p) = 3 := if_pos h
  have hto : loopCost (before.line p) ((s.enterWaking p wake).line p) ≤ 2 := by
    rw [loopCost, if_neg (s.enterWaking_state p wake)]
    split <;> omega
  have hpass := s.enterWaking_passesWanted p wake
  exact ⟨by omega, by omega⟩

theorem State.rechoose_passesWanted (s : State) (p : LineNo) : (s.rechoose p).passesWanted = s.passesWanted := rfl

theorem cheaper_bind (before s : State) (j q : Nat) (p : LineNo) : Cheaper before s (s.bind j q p) := by
  rw [s.bind_eq]
  refine Cheaper.trans ?_ ((steady_rechoose _ p).cheaper before (State.rechoose_passesWanted _ p))
  have hplace := steady_placeInQueue s j q p
  split
  · rename_i hstandby
    exact (hplace.cheaper before rfl).trans (cheaper_enterWaking before true (((hplace.lines p).1).trans hstandby))
  · exact hplace.cheaper before rfl

theorem cheaper_judge (before s : State) (j : Nat) : Cheaper before s (s.judge j) := by
  unfold State.judge
  split
  · exact .refl before s
  · split
    · exact cheaper_bind before s j _ _
    · exact (Steady.modJob s j _).cheaper before rfl

/-- A pass asks for a later one only where it woke a line, which makes the lines cheaper. -/
theorem cheaper_pass (before s : State) : Cheaper before s s.pass := by
  have hjudge := Cheaper.foldl (cheaper_judge before) s.waiting { s with passesWanted := 0 }
  have hstart : loopCosts before { s with passesWanted := 0 } = loopCosts before s := rfl
  have hend : loopCosts before s.pass = loopCosts before (s.waiting.foldl State.judge { s with passesWanted := 0 }) := rfl
  have hwanted : s.pass.passesWanted =
      s.passesWanted + min (s.waiting.foldl State.judge { s with passesWanted := 0 }).passesWanted 1 := rfl
  obtain ⟨hcosts, hsum⟩ := hjudge
  simp only at hsum
  exact ⟨by omega, by omega⟩

theorem cheaper_passes (before : State) (n : Nat) (s : State) : Cheaper before s (State.passes n s) := by
  induction n generalizing s with
  | zero => exact .refl before s
  | succ n ih => exact (cheaper_pass before s).trans (ih _)

/-! ### The loop -/

theorem zeroMove_some {before s : State} {p : LineNo} (h : zeroMove before s = some p) :
    (s.line p).state = .blocked ∧ timerDue (s.line p).moveDelay = true ∧ timerDue (before.line p).moveDelay = false := by
  have hp := List.find?_some h
  simp only [Bool.and_eq_true, Bool.not_eq_true', decide_eq_true_eq] at hp
  exact ⟨hp.2, hp.1.1, hp.1.2⟩

/-- A zero move delay that expires is paid for by its line. -/
theorem loopCosts_moveOff {before s : State} {p : LineNo} (h : zeroMove before s = some p) :
    loopCosts before (s.moveOff p) + 2 = loopCosts before s := by
  obtain ⟨hstate, hdue, hbefore⟩ := zeroMove_some h
  have hstop := loopCosts_change (before := before) (s := s)
    (t := s.modLine p fun l => { l with moveDelay := .stopped }) p fun q hq => State.line_modLine_ne s _ hq
  have hfrom : loopCost (before.line p) (s.line p) = 2 := by simp [loopCost, hstate, hdue, hbefore]
  have hto : loopCost (before.line p) ((s.modLine p fun l => { l with moveDelay := .stopped }).line p) = 0 := by
    rw [State.line_modLine_self]
    simp [loopCost, hstate, timerDue]
  have hrest := (steady_moveOff s p).costs before
  omega

/-- With as much fuel as there is cost left, the loop ends with no pass wanted. -/
theorem settleLoop_noPass (before : State) (n : Nat) (s : State)
    (h : loopCosts before s + min s.passesWanted 1 ≤ n) : NoPassWanted (settleLoop before n s) := by
  induction n generalizing s with
  | zero =>
    have hnone : s.passesWanted = 0 := by omega
    exact hnone
  | succ n ih =>
    unfold settleLoop
    split
    · rename_i hwanted
      refine ih _ ?_
      have hpasses := (cheaper_passes before s.passesWanted { s with passesWanted := 0 }).wanted
      have hstart : loopCosts before { s with passesWanted := 0 } = loopCosts before s := rfl
      simp only at hpasses
      omega
    · rename_i hwanted
      split
      · rename_i p hp
        refine ih _ ?_
        have hmove := loopCosts_moveOff hp
        omega
      · exact Decidable.not_not.mp hwanted

theorem settleEvent_noPass (before s : State) : NoPassWanted (settleEvent before s) := by
  have hcost := loopCosts_le before (State.quotaRetries before s)
  refine settleLoop_noPass before settleFuel _ ?_
  unfold settleFuel
  omega

end Sys2Proof.Machine
end

-- O5, O12, O13: what the end of every event establishes, and the table window.
section
namespace Sys2Proof.Machine

/-! ### The own changes of the commands leave the table window in its table -/

/-- The table window of the second state lies in its table if that of the first does. -/
def WindowKept (s t : State) : Prop := WindowLaw s → WindowLaw t

theorem WindowKept.refl (s : State) : WindowKept s s := id

theorem WindowKept.trans {s t u : State} (h : WindowKept s t) (k : WindowKept t u) : WindowKept s u := k ∘ h

theorem WindowKept.same {s t : State} (h : t.window = s.window) : WindowKept s t := by
  intro hs
  rwa [WindowLaw, h]

theorem Follows.window_kept {s t : State} (h : Follows s t) : WindowKept s t := by
  obtain ⟨_, _, hwindow, _⟩ := h.outside
  exact .same hwindow

/-! #### The requests -/

/-- A change of the cursors alone keeps the window in its table. -/
theorem WindowLaw.cursor {s t : State} {w : Window} (h : WindowLaw s) (hs : s.window = some w) (write read : WindowPos)
    (ht : t.window = some { w with write := write, read := read }) : WindowLaw t := by
  intro v hv
  obtain rfl := Option.some.inj (ht.symm.trans hv)
  exact h w hs

theorem windowKept_tableWindowAct (args : List Byte) (s : State) : WindowKept s (tableWindowAct args s).1 := by
  cases ht : tableOf (field args 0 1) with
  | none =>
    rw [tableWindowAct_noTable s ht]
    exact .refl s
  | some t =>
    by_cases hempty : (askedWindow t args).lastRow < (askedWindow t args).firstRow ∨
        (askedWindow t args).lastCell < (askedWindow t args).firstCell
    · rw [tableWindowAct_empty s ht hempty]
      exact .refl s
    · rw [not_or, Nat.not_lt, Nat.not_lt] at hempty
      rw [tableWindowAct_set s ht hempty.1 hempty.2]
      intro _ w hw
      obtain rfl := Option.some.inj hw
      have hrows : 1 ≤ tableRows t := by cases t <;> decide
      have hcells : 1 ≤ tableCells t := by cases t <;> decide
      refine ⟨hempty.1, ?_, hempty.2, ?_⟩ <;> simp only [askedWindow] <;> omega

theorem windowKept_tableReadAct (fromStart : Bool) (args : List Byte) (s : State) :
    WindowKept s (tableReadAct fromStart args s).1 := by
  unfold tableReadAct
  split
  · exact .refl s
  · rename_i w hw
    exact fun hs => hs.cursor hw w.write _ rfl

theorem windowKept_tableWriteAct (fromStart : Bool) (args : List Byte) (s : State) :
    WindowKept s (tableWriteAct fromStart args s).1 := by
  unfold tableWriteAct
  split
  · exact .refl s
  · rename_i w hw
    exact fun hs => hs.cursor hw _ w.read rfl

theorem windowKept_goLiveAct (args : List Byte) (s : State) : WindowKept s (goLiveAct args s).1 := by
  unfold goLiveAct
  split
  · exact .refl s
  · exact .same rfl

theorem windowKept_readStatusAct (args : List Byte) (s : State) : WindowKept s (readStatusAct args s).1 := by
  unfold readStatusAct
  dsimp only
  split
  · exact .refl s
  · split <;> exact .refl s
  · split <;> exact .refl s
  · exact .refl s

theorem windowKept_adjustLimitAct (args : List Byte) (s : State) : WindowKept s (adjustLimitAct args s).1 := by
  unfold adjustLimitAct
  split
  · exact .refl s
  · exact .same rfl

theorem State.closeAll_window (s : State) : s.closeAll.window = s.window := by simp only [State.closeAll]

theorem windowKept_closePeriodAct (args : List Byte) (s : State) : WindowKept s (closePeriodAct args s).1 := by
  unfold closePeriodAct
  split
  · exact .same s.closeAll_window
  · split
    · exact .refl s
    · exact .same rfl

theorem windowKept_sendPart (s : State) (n : Snapshot) (k : Nat) : WindowKept s (s.sendPart n k).1 := by
  unfold State.sendPart
  split <;> exact .same rfl

theorem windowKept_readMetersStartAct (args : List Byte) (s : State) :
    WindowKept s (readMetersStartAct args s).1 := by
  unfold readMetersStartAct
  split
  · exact .refl s
  · rename_i scope _
    refine WindowKept.trans ?_ (windowKept_sendPart _ _ _)
    split
    · cases scope with
      | accounts => exact .same s.closeAll_window
      | printers => exact .same rfl
    · exact .refl s

theorem windowKept_readMetersNextAct (args : List Byte) (s : State) : WindowKept s (readMetersNextAct args s).1 := by
  unfold readMetersNextAct
  split
  · exact .refl s
  · exact windowKept_sendPart s _ _

theorem windowKept_onJob {act : State → Job → State × Status} (hact : ∀ s x, Follows s (act s x).1)
    (args : List Byte) (s : State) : WindowKept s (onJob act args s).1 := by
  unfold onJob
  split
  · exact .refl s
  · exact (hact s _).window_kept

theorem windowKept_moveJobAct (args : List Byte) (s : State) : WindowKept s (moveJobAct args s).1 := by
  unfold moveJobAct
  dsimp only
  split
  · exact windowKept_onJob (follows_moveAct _) args s
  · exact .refl s

theorem windowKept_onPrinter {act : State → LineNo → State × Status} (hact : ∀ s p, Follows s (act s p).1)
    (args : List Byte) (s : State) : WindowKept s (onPrinter act args s).1 := by
  unfold onPrinter
  split
  · exact .refl s
  · exact (hact s _).window_kept

theorem windowKept_ackAlertAct (args : List Byte) (s : State) : WindowKept s (ackAlertAct args s).1 := by
  unfold ackAlertAct
  split
  · exact .refl s
  · split <;> exact .same rfl

/-! #### The job frames -/

theorem State.evalSpoolLow_window (s : State) : s.evalSpoolLow.window = s.window := by
  obtain ⟨_, _, hwindow, _⟩ := (follows_evalSpoolLow s).outside
  exact hwindow

theorem State.takeBlock_window (s : State) (j i : Nat) (need : Bool) : (s.takeBlock j i need).window = s.window := by
  unfold State.takeBlock
  split
  · split
    · rfl
    · rw [State.evalSpoolLow_window]
      rfl
  · rfl

theorem State.beginStore_window (s : State) (x : Job) (i o : Nat) (opens need : Bool) (f : ShopFrame)
    (bytes : List Byte) (L : Nat) : (s.beginStore x i o opens need f bytes L).window = s.window := by
  have htake (t : State) (g : Job → Job) (stores : List Store) :
      ({ (t.takeBlock x.number i need).modJob x.number g with stores := stores }).window = t.window :=
    t.takeBlock_window x.number i need
  unfold State.beginStore
  dsimp only
  rw [htake]
  split <;> rfl

theorem windowKept_sheetDataFrame (s : State) (f : ShopFrame) : WindowKept s (s.sheetDataFrame f).1 := by
  have hdiscard := (follows_discardOpen s f.job.toNat).window_kept
  unfold State.sheetDataFrame
  dsimp only
  split
  · exact .refl s
  · split
    · exact .refl s
    · split
      · exact .refl s
      · generalize (if opensAt _ f.sheet.toNat = true then 0 else s.receivedOf f.job.toNat f.sheet.toNat) = L
        split
        · exact .refl s
        · split
          · exact .refl s
          · split
            · exact hdiscard
            · split
              · exact .refl s
              · split
                · exact .refl s
                · exact .same (s.beginStore_window _ _ _ _ _ _ _ _)

theorem windowKept_completeSheet (s : State) (j i : Nat) (opens : Bool) (b : List Byte) :
    WindowKept s (s.completeSheet j i opens b) := by
  unfold State.completeSheet
  dsimp only
  split <;> split <;> exact .same rfl

theorem windowKept_sheetEndFrame (s : State) (f : ShopFrame) : WindowKept s (s.sheetEndFrame f).1 := by
  have hdiscard := (follows_discardOpen s f.job.toNat).window_kept
  unfold State.sheetEndFrame
  dsimp only
  split
  · exact .refl s
  · split
    · exact .refl s
    · split
      · exact .refl s
      · generalize (if opensAt _ f.sheet.toNat = true then 0 else s.receivedOf f.job.toNat f.sheet.toNat) = L
        split
        · exact .refl s
        · split
          · cases opensAt _ f.sheet.toNat with
            | true => exact .refl s
            | false => exact hdiscard
          · split
            · exact .refl s
            · exact windowKept_completeSheet s _ _ _ _

theorem windowKept_jobFrame (s : State) (k : JobFrame) (f : ShopFrame) : WindowKept s (s.jobFrame k f).1 := by
  cases k with
  | sheetData => exact windowKept_sheetDataFrame s f
  | sheetEnd => exact windowKept_sheetEndFrame s f
  | jobClose => exact (follows_jobCloseFrame s f).window_kept
  | jobCancel =>
    show WindowKept s (s.jobCancelFrame f).1
    unfold State.jobCancelFrame
    split
    · exact .refl s
    · split
      · exact .refl s
      · exact (follows_cancel s _).window_kept

theorem windowKept_enrol (s : State) (src : Station) (o : OpenFields) : WindowKept s (s.enrol src o).1 := by
  unfold State.enrol
  split
  · exact .refl s
  · split
    · exact .refl s
    · split
      · split <;> exact .same rfl
      · exact .refl s

theorem windowKept_afterStore (s : State) (t : Store) : WindowKept s (s.afterStore t) := by
  unfold State.afterStore
  split
  · dsimp only
    split
    · split
      · exact ((follows_discardOpen _ _).trans (follows_purge _ _)).window_kept
      · exact (follows_purge _ _).window_kept
    · split
      · exact (follows_discardOpen _ _).window_kept
      · exact .refl _
  · exact .refl _

theorem State.writeStore_window (s : State) (t : Store) : (s.writeStore t).window = s.window := by
  unfold State.writeStore
  split
  · split <;> rfl
  · rfl

/-! #### The bursts -/

theorem State.setEngine_window (s : State) (g : Fin 2) (o : Option LineNo) : (s.setEngine g o).window = s.window := by
  unfold State.setEngine
  split <;> rfl

theorem windowKept_completeBurst (s : State) (p : LineNo) (b : Burst) (err : Bool) :
    WindowKept s (s.completeBurst p b err) := by
  have hengine : WindowKept s (s.setEngine b.engine none) := .same (s.setEngine_window _ _)
  unfold State.completeBurst
  dsimp only
  split
  · refine hengine.trans (WindowKept.trans ?_ (follows_readError _ b).window_kept)
    exact .same rfl
  · split
    · exact hengine.trans (.same rfl)
    · exact hengine.trans (.same rfl)

/-! ### What every event leaves -/

/-- Nothing that the end of an event looks after has changed: no pass asked for, the table window and the ROSTER
rows the same, and on each line the conditions of its idle timer and whether that timer runs. -/
structure Undisturbed (s t : State) : Prop where
  wanted : t.passesWanted = s.passesWanted
  window : t.window = s.window
  roster : ∀ p, t.rosterOf p = s.rosterOf p
  holds : ∀ p, idleHolds (s.rosterOf p) (t.line p) = idleHolds (s.rosterOf p) (s.line p)
  runs : ∀ p, timerRuns (t.line p).idle = timerRuns (s.line p).idle
  stopped : ∀ p, (s.line p).idle = .stopped → (t.line p).idle = .stopped

/-- A change of neither the lines nor the ROSTER rows. -/
theorem Undisturbed.sameLines {s t : State} (hp : t.passesWanted = s.passesWanted) (hw : t.window = s.window)
    (hr : t.roster = s.roster) (hl : t.lines = s.lines) : Undisturbed s t := by
  have hline (p : LineNo) : t.line p = s.line p := by simp only [State.line, hl]
  have hroster (p : LineNo) : t.rosterOf p = s.rosterOf p := by simp only [State.rosterOf, hr]
  exact ⟨hp, hw, hroster, fun p => by rw [hline], fun p => by rw [hline], fun p => by rw [hline]; exact id⟩

/-- A change of one line that leaves what its idle timer looks at. -/
theorem Undisturbed.modLine (s : State) (p : LineNo) (f : Line → Line)
    (hh : ∀ r l, idleHolds r (f l) = idleHolds r l) (hi : ∀ l, (f l).idle = l.idle) :
    Undisturbed s (s.modLine p f) := by
  have hidle := s.line_modLine_keeps Line.idle p f hi
  exact ⟨rfl, rfl, fun _ => rfl, fun q => s.line_modLine_keeps (idleHolds (s.rosterOf q)) p f (hh _) q,
    fun q => by rw [hidle], fun q => by rw [hidle]; exact id⟩

theorem Undisturbed.trans {s t u : State} (h : Undisturbed s t) (k : Undisturbed t u) : Undisturbed s u where
  wanted := k.wanted.trans h.wanted
  window := k.window.trans h.window
  roster p := (k.roster p).trans (h.roster p)
  holds p := by
    have hk := k.holds p
    rw [h.roster p] at hk
    exact hk.trans (h.holds p)
  runs p := (k.runs p).trans (h.runs p)
  stopped p hs := k.stopped p (h.stopped p hs)

theorem undisturbed_reply (s : State) (port : PortSettings) (f : ShopFrame) (j : Nat) (st : Status)
    (body : List Byte) : Undisturbed s (s.reply port f j st body) := .sameLines rfl rfl rfl rfl

theorem undisturbed_withPort (s : State) (port : PortSettings) : Undisturbed s (s.withPort port) :=
  .sameLines rfl rfl rfl rfl

theorem undisturbed_hold (s : State) (h : Held) : Undisturbed s (s.hold h) := .sameLines rfl rfl rfl rfl

/-- A predicate that every event leaves true: it follows from the end of an event once the own changes have
established `Q`, and survives what the end of an event does not look after, and the resets. -/
structure EventLaw (P Q : State → Prop) : Prop where
  own : ∀ {s t : State}, WindowKept s t → P s → Q t
  settled : ∀ (before : State) {s : State}, Q s → P (settleEvent before s)
  undisturbed : ∀ {s t : State}, Undisturbed s t → P s → P t
  warm : ∀ s : State, P s.warmReset
  power : ∀ (s : State) straps, P (s.powerUp straps)

section
variable {P Q : State → Prop} (law : EventLaw P Q)
include law

theorem EventLaw.sameLines {s t : State} (h : P s) (hp : t.passesWanted = s.passesWanted)
    (hw : t.window = s.window) (hr : t.roster = s.roster) (hl : t.lines = s.lines) : P t :=
  law.undisturbed (.sameLines hp hw hr hl) h

theorem EventLaw.reply {s : State} (h : P s) (port : PortSettings) (f : ShopFrame) (j : Nat) (st : Status)
    (body : List Byte) : P (s.reply port f j st body) := law.undisturbed (undisturbed_reply s port f j st body) h

theorem EventLaw.event {s t : State} (before : State) (h : P s) (hown : WindowKept s t) :
    P (settleEvent before t) := law.settled before (law.own hown h)

theorem EventLaw.manage {b : Bool} {sizeOk : List Byte → Bool} {jobOf : List Byte → Nat}
    {act : List Byte → State → Outcome3} (hact : ∀ args s, WindowKept s (act args s).1) (f : ShopFrame) {s : State}
    (h : P s) : P (manage b sizeOk jobOf act f s) := by
  unfold Machine.manage
  split
  · exact h
  · split
    · exact law.reply h _ f _ _ _
    · have hend := law.event s h ((hact (requestArgs f) s).trans (.same (State.withPort_window _ s.settings.port)))
      exact law.reply (law.undisturbed (undisturbed_withPort _ _) hend) _ f _ _ _

theorem EventLaw.lineEvent {p : LineNo} {act : State → State} (hact : ∀ s, WindowKept s (act s)) {s : State}
    (h : P s) : P (lineEvent p act s) := by
  unfold Machine.lineEvent
  split
  · exact h
  · exact law.event s h ((WindowKept.same rfl).trans (hact (s.modLine p heard)))

theorem EventLaw.expiry {timer : Line → Timer} {p : LineNo} {act : State → State}
    (hact : ∀ s, WindowKept s (act s)) {s : State} (h : P s) : P (expiry timer p act s) := by
  unfold Machine.expiry
  split
  · exact law.event s h (hact s)
  · exact h

/-! #### The job frames -/

theorem EventLaw.answerJob {s : State} (h : P s) (port : PortSettings) (f : ShopFrame) (st : Status)
    (body : List Byte) : P (s.answerJob port f st body) := by
  unfold State.answerJob
  split
  · exact law.undisturbed (undisturbed_hold s _) h
  · exact law.reply h port f _ st body

theorem EventLaw.doJobFrame {s : State} (h : P s) (k : JobFrame) (f : ShopFrame) : P (s.doJobFrame k f) := by
  have hend := law.event s h (windowKept_jobFrame s k f)
  unfold State.doJobFrame
  dsimp only
  split
  · exact law.answerJob hend _ f _ _
  · exact hend

theorem EventLaw.takeJobFrame {s : State} (h : P s) (k : JobFrame) (f : ShopFrame) : P (takeJobFrame k f s) := by
  unfold Machine.takeJobFrame
  split
  · exact h
  · split
    · exact law.answerJob h _ f _ _
    · split
      · exact law.undisturbed (undisturbed_hold s _) h
      · exact law.doJobFrame h k f

theorem EventLaw.takeJobOpen {s : State} (h : P s) (f : ShopFrame) : P (takeJobOpen f s) := by
  unfold Machine.takeJobOpen
  split
  · exact h
  · split
    · exact law.reply h _ f _ _ _
    · exact law.reply (law.event s h (windowKept_enrol s _ _)) _ f _ _ _

theorem EventLaw.takeHeld {s : State} (h : P s) (x : Held) : P (s.takeHeld x) := by
  cases x with
  | answer f st body =>
    unfold State.takeHeld
    dsimp only
    split
    · exact law.undisturbed (undisturbed_hold s _) h
    · exact law.reply h _ f _ st body
  | frame k f =>
    unfold State.takeHeld
    dsimp only
    split
    · exact law.undisturbed (undisturbed_hold s _) h
    · exact law.doJobFrame h k f

omit law in
theorem foldl_keeps {β : Type} {f : State → β → State} (hf : ∀ s b, P s → P (f s b)) (l : List β) {s : State}
    (h : P s) : P (l.foldl f s) := by
  induction l generalizing s with
  | nil => exact h
  | cons b l ih => exact ih (hf s b h)

theorem EventLaw.drainHeld {s : State} (h : P s) : P s.drainHeld := by
  unfold State.drainHeld
  refine foldl_keeps (P := P) (f := State.takeHeld) (fun _ x hu => law.takeHeld hu x) _ ?_
  exact law.sameLines h rfl rfl rfl rfl

theorem EventLaw.storeEnd {s : State} (h : P s) (j : Nat) : P (storeEnd j s) := by
  unfold Machine.storeEnd
  split
  · exact h
  · rename_i t _
    refine law.drainHeld (law.event s h (WindowKept.trans ?_ (windowKept_afterStore _ t)))
    exact .same (s.writeStore_window t)

/-! #### The resets -/

theorem EventLaw.finishReset {s : State} (h : P s) (before : State) (f : ShopFrame) :
    P (finishReset before f s) := by
  unfold Machine.finishReset
  dsimp only
  refine foldl_keeps (fun u x hu => ?_) _ (law.reply (foldl_keeps (fun u t hu => ?_) _ h) _ f _ _ _)
  · cases x with
    | answer g st body => exact law.reply hu _ g _ st body
    | frame k g => exact law.doJobFrame hu k g
  · exact law.reply hu _ _ _ _ _

theorem EventLaw.takeReset {s : State} (h : P s) (f : ShopFrame) : P (takeReset f s) := by
  unfold Machine.takeReset
  split
  · exact h
  · split
    · exact law.reply h _ f _ _ _
    · split
      · exact law.finishReset (law.warm s) s f
      · exact law.finishReset (law.power s _) s f
      · exact law.reply h _ f _ _ _

/-! #### The rest -/

theorem EventLaw.unknownRequest {s : State} (h : P s) (f : ShopFrame) : P (unknownRequest f s) := by
  unfold Machine.unknownRequest
  split
  · exact h
  · split
    · exact law.reply h _ f _ _ _
    · split <;> exact law.reply h _ f _ _ _

theorem EventLaw.sheetStart {s : State} (h : P s) (p : LineNo) : P (s.sheetStart p) := by
  unfold State.sheetStart
  split
  · exact h
  · dsimp only
    refine law.event s h ?_
    split
    · exact (follows_startSheet s p _ _ _).window_kept
    · exact (follows_quotaFailure s _).window_kept

omit law in
theorem undisturbed_setEngine (s : State) (g : Fin 2) (o : Option LineNo) : Undisturbed s (s.setEngine g o) := by
  unfold State.setEngine
  split <;> exact .sameLines rfl rfl rfl rfl

theorem EventLaw.grant {s : State} (h : P s) : P s.grant := by
  unfold State.grant
  split
  · split
    · rename_i g p _ _ _ e _
      refine law.undisturbed (Undisturbed.trans ?_ (undisturbed_setEngine _ _ _)) h
      have hline : Undisturbed s (s.modLine p fun l =>
          { l with credits := l.credits - 1, burst := some (s.burstOf g e) }) :=
        .modLine s p _ (fun _ _ => rfl) fun _ => rfl
      refine hline.trans ?_
      exact .sameLines rfl rfl rfl rfl
    · exact h
  · exact h
  · exact h

theorem EventLaw.burstEnd {s : State} (h : P s) (p : LineNo) (err : Bool) : P (s.burstEnd p err) := by
  unfold State.burstEnd
  split
  · exact h
  · exact law.event s h (windowKept_completeBurst s p _ err)

omit law in
theorem undisturbed_takeFrame (s : State) (p : LineNo) : Undisturbed s (s.modLine p takeFrame) := by
  refine .modLine s p takeFrame (fun r l => ?_) fun l => ?_
  all_goals
    unfold takeFrame
    split
    · rfl
    · split <;> rfl

theorem EventLaw.transmit {s : State} (h : P s) (p : LineNo) : P (s.transmit p) := by
  unfold State.transmit
  split
  · exact h
  · refine law.undisturbed (Undisturbed.trans ?_ (undisturbed_takeFrame _ p)) h
    unfold State.finishFrame
    split <;> exact .sameLines rfl rfl rfl rfl

theorem EventLaw.remind {s : State} (h : P s) (n : Nat) : P (s.remind n) := by
  unfold State.remind
  split
  · split
    · exact law.sameLines h rfl rfl rfl rfl
    · exact h
  · exact h

omit law in
theorem timerRuns_tick (t : Timer) : timerRuns (timerTick t) = timerRuns t := by
  cases t with
  | running n => cases n <;> rfl
  | stopped | suspended => rfl

omit law in
theorem undisturbed_tick (s : State) : Undisturbed s s.tick where
  wanted := s.tick_passesWanted
  window := s.tick_window
  roster := s.tick_rosterOf
  holds p := by
    rw [State.tick_line]
    simp only [idleHolds, tickLine, timerRuns_tick]
    rfl
  runs p := by
    rw [State.tick_line]
    exact timerRuns_tick _
  stopped p hs := by
    rw [State.tick_line]
    simp only [tickLine, hs, timerTick]

theorem EventLaw.idleStep {s : State} (h : P s) : P s.idleStep := by
  unfold State.idleStep
  split
  · exact law.undisturbed (undisturbed_tick s) h
  · exact law.sameLines h rfl rfl rfl rfl

/-- Every command keeps the law. -/
theorem EventLaw.exec {c : Instr} {s t : State} (hs : P s) (h : exec c s = .next t) : P t := by
  cases c <;> injection h with h <;> subst h
  case jobOpen f => exact law.takeJobOpen hs f
  case sheetData f => exact law.takeJobFrame hs _ f
  case sheetDataStoreEnd j => exact law.storeEnd hs j
  case sheetEnd f => exact law.takeJobFrame hs _ f
  case jobClose f => exact law.takeJobFrame hs _ f
  case jobCancel f => exact law.takeJobFrame hs _ f
  case shopFrameDropped f => exact hs
  case goLive f => exact law.manage windowKept_goLiveAct f hs
  case readStatus f => exact law.manage windowKept_readStatusAct f hs
  case tableWindow f => exact law.manage windowKept_tableWindowAct f hs
  case tableWrite f => exact law.manage (windowKept_tableWriteAct _) f hs
  case tableWriteContinue f => exact law.manage (windowKept_tableWriteAct _) f hs
  case tableRead f => exact law.manage (windowKept_tableReadAct _) f hs
  case tableReadContinue f => exact law.manage (windowKept_tableReadAct _) f hs
  case adjustLimit f => exact law.manage windowKept_adjustLimitAct f hs
  case closePeriod f => exact law.manage windowKept_closePeriodAct f hs
  case readMetersStart f => exact law.manage windowKept_readMetersStartAct f hs
  case readMetersNext f => exact law.manage windowKept_readMetersNextAct f hs
  case holdJob f => exact law.manage (windowKept_onJob follows_holdAct) f hs
  case releaseJob f => exact law.manage (windowKept_onJob follows_releaseAct) f hs
  case cancelJob f => exact law.manage (windowKept_onJob follows_cancel) f hs
  case purgeJob f => exact law.manage (windowKept_onJob follows_purgeAct) f hs
  case reprintJob f => exact law.manage (fun args => windowKept_onJob (follows_reprintAct (field args 2 2)) args) f hs
  case moveJob f => exact law.manage windowKept_moveJobAct f hs
  case standbyRequest f => exact law.manage (windowKept_onPrinter follows_standbyAct) f hs
  case wakeRequest f => exact law.manage (windowKept_onPrinter follows_wakeAct) f hs
  case retireRequest f => exact law.manage (windowKept_onPrinter follows_retireAct) f hs
  case returnRequest f => exact law.manage (windowKept_onPrinter follows_returnAct) f hs
  case ackAlert f => exact law.manage windowKept_ackAlertAct f hs
  case resetWarm f => exact law.takeReset hs f
  case resetFull f => exact law.takeReset hs f
  case powerOn straps => exact law.power s straps
  case hello p a b c => exact law.lineEvent (fun t => (follows_hello t p a b c).window_kept) hs
  case credit p n => exact law.lineEvent (fun t => (follows_credit t p n.toNat).window_kept) hs
  case sheetDone p tag => exact law.lineEvent (fun t => (follows_sheetDone t p tag).window_kept) hs
  case status p report =>
    refine law.lineEvent (fun t => ?_) hs
    split
    · exact (follows_statusReport t p report).window_kept
    · exact .refl t
  case ready p => exact law.lineEvent (fun t => (follows_readyFrame t p).window_kept) hs
  case flushed p => exact law.lineEvent (fun t => (follows_flushedFrame t p).window_kept) hs
  case lineFrameDiscarded p f => exact law.lineEvent (fun t => .refl t) hs
  case lineTransmitFrame p => exact law.transmit hs p
  case settleExpiry p => exact law.expiry (fun t => (follows_settleExpiry t p).window_kept) hs
  case wakeLimitExpiry p => exact law.expiry (fun t => (follows_wakeLimitExpiry t p).window_kept) hs
  case minAwakeExpiry p => exact law.expiry (fun t => (follows_minAwakeExpiry t p).window_kept) hs
  case idleTimerExpiry p => exact law.expiry (fun t => (follows_enterStandby t p).window_kept) hs
  case flushLimitExpiry p => exact law.expiry (fun t => (follows_loseLine t p true).window_kept) hs
  case silenceMonitorExpiry p => exact law.expiry (fun t => (follows_loseLine t p true).window_kept) hs
  case stallTimerExpiry p => exact law.expiry (fun t => (follows_stallExpiry t p).window_kept) hs
  case moveDelayExpiry p => exact law.expiry (fun t => (follows_moveOff t p).window_kept) hs
  case reminderTimerExpiry n => exact law.remind hs n
  case sheetStart p => exact law.sheetStart hs p
  case burstGrant => exact law.grant hs
  case burstCompletion p e => exact law.burstEnd hs p e
  case idleSignalling p => exact law.lineEvent (fun t => .refl t) hs
  case unknownRequestCode f => exact law.unknownRequest hs f

/-- Every step keeps the law. -/
theorem EventLaw.step (s t : State) (hs : P s) (h : step s = .next t) : P t := by
  unfold Machine.step at h
  split at h
  · refine law.exec ?_ h
    exact law.sameLines hs rfl rfl rfl rfl
  · injection h with h
    exact h ▸ law.idleStep hs

end

/-! ### The binding passes (R29) -/

theorem noPass_eventLaw : EventLaw NoPassWanted fun _ => True where
  own _ _ := trivial
  settled before {s} _ := settleEvent_noPass before s
  undisturbed h hs := h.wanted.trans hs
  warm := State.warmReset_passesWanted
  power := State.powerUp_passesWanted

/-- Settles O12: the loop at the end of every event has fuel for all passes, and nothing else asks for one. -/
theorem stepRunsEveryBindingPass : Obligations.StepRunsEveryBindingPass := noPass_eventLaw.step

/-! ### The idle timers (R86) -/

/-- The refreshed timer follows its conditions. -/
theorem idleLine_follows (r : Roster) (l : Line) :
    ((idleLine r l).idle = .stopped ∨ timerRuns (idleLine r l).idle = true) ∧
      timerRuns (idleLine r l).idle = idleHolds r (idleLine r l) := by
  by_cases hholds : idleHolds r l = true
  · by_cases hruns : timerRuns l.idle = true
    · simp [idleLine, hholds, hruns]
    · have hstart : timerRuns (timerStart r.idleToStandby) = true := by
        have hne : r.idleToStandby ≠ 0 := by
          simp only [idleHolds, Bool.and_eq_true, decide_eq_true_eq] at hholds
          exact hholds.2
        simp [timerStart, hne, timerRuns]
      have hsame : idleHolds r { l with idle := timerStart r.idleToStandby } = idleHolds r l := rfl
      simp [idleLine, hholds, hruns, hsame, hstart]
  · have hsame : idleHolds r { l with idle := .stopped } = idleHolds r l := rfl
    simp [idleLine, hholds, hsame, timerRuns]

theorem State.refreshIdle_idleLaw (s : State) : IdleLaw s.refreshIdle := by
  intro p
  rw [State.refreshIdle, State.line_mapLines]
  exact idleLine_follows _ _

/-- A line in DOWN or RETIRED with its idle timer stopped follows its conditions. -/
theorem idle_off {r : Roster} {l : Line} (hidle : l.idle = .stopped) (hstate : l.state ≠ .ready) :
    (l.idle = .stopped ∨ timerRuns l.idle = true) ∧ timerRuns l.idle = idleHolds r l := by
  simp [hidle, timerRuns, idleHolds, hstate]

theorem warmLine_off (st : PartState) (l : Line) : (warmLine st l).idle = .stopped ∧ (warmLine st l).state ≠ .ready := by
  refine ⟨rfl, ?_⟩
  simp only [warmLine]
  split <;> decide

theorem idle_eventLaw : EventLaw IdleLaw fun _ => True where
  own _ _ := trivial
  settled before {s} _ := State.refreshIdle_idleLaw _
  undisturbed {s t} h hs p := by
    obtain ⟨hrest, hfollows⟩ := hs p
    refine ⟨?_, ?_⟩
    · rw [h.runs p]
      exact hrest.imp_left (h.stopped p)
    · rw [h.runs p, h.roster p, h.holds p]
      exact hfollows
  warm s p := by
    rw [State.warmReset_line]
    obtain ⟨hidle, hstate⟩ := warmLine_off s.live (s.line p)
    exact idle_off hidle hstate
  power s straps p := by
    rw [State.powerUp_line]
    exact idle_off rfl (by decide)

/-- Settles O13: the end of every event sets the idle timers by their conditions. -/
theorem stepKeepsIdleTimers : Obligations.StepKeepsIdleTimers := idle_eventLaw.step

/-! ### The table window (R189) -/

theorem WindowLaw.none {s : State} (h : s.window = .none) : WindowLaw s := by
  simp [WindowLaw, h]

theorem window_eventLaw : EventLaw WindowLaw WindowLaw where
  own h hs := h hs
  settled before {s} hs := (follows_settleEvent before s).window_kept hs
  undisturbed h hs := WindowKept.same h.window hs
  warm s := .none s.warmReset_window
  power s straps := .none (s.powerUp_window straps)

/-- Settles O5: every move keeps the spool bytes canonical and the quarantine list within its size, and every
event the window within its table. -/
theorem stepKeepsSpoolFormAndQuarantine : Obligations.StepKeepsSpoolFormAndQuarantine :=
  ⟨step_keeps Move.dram_law, step_keeps Move.quarantine_law, window_eventLaw.step⟩

end Sys2Proof.Machine
end

-- O1, O2, O3, O4: the queue, and the state right after reset.
section
namespace Sys2Proof.Machine

/-! ### The queue -/

/-- Settles O1: the queue's front is taken. -/
theorem stepTakesFront : Obligations.StepTakesFront := fun _ _ _ => rfl

theorem insertAt_perm {α : Type} (x : α) (k : Nat) (l : List α) : (insertAt x k l).Perm (x :: l) := by
  induction l generalizing k with
  | nil => cases k <;> exact .refl _
  | cons a l ih =>
    cases k with
    | zero => exact .refl _
    | succ k => exact ((ih k).cons a).trans (.swap x a l)

theorem freeOrder_perm (n : Nat) (l : List Instr) : (freeOrder n l).Perm l := by
  induction l generalizing n with
  | nil => exact .refl _
  | cons c cs ih => exact (insertAt_perm c _ _).trans ((ih (n + 1)).cons c)

theorem step_empty {s : State} (h : s.pending = []) : step s = .next s.idleStep := by
  unfold step
  rw [h]

theorem State.idleStep_quiet {s : State} (h : dueEvents s = []) : s.idleStep = s.tick := by
  unfold State.idleStep
  rw [h]

theorem State.idleStep_due {s : State} (h : dueEvents s ≠ []) :
    s.idleStep = { s with pending := freeOrder s.freeCtr (dueEvents s),
                          freeCtr := s.freeCtr + (dueEvents s).length } := by
  unfold State.idleStep
  split
  · contradiction
  · rename_i c cs hdue
    rw [hdue]

theorem State.tick_eq (s : State) :
    s.tick = { s with timeBase := s.timeBase + 1, lines := s.tick.lines, alerts := s.tick.alerts } := by
  simp [State.tick, State.mapLines]

/-- Settles O2: the events due enter the queue in a free order; when none is due a millisecond passes. -/
theorem stepOnEmptyQueue : Obligations.StepOnEmptyQueue := by
  intro s hpending
  refine ⟨fun hdue => ?_, fun hnone => ?_⟩
  · refine ⟨freeOrder s.freeCtr (dueEvents s), freeOrder_perm _ _, ?_⟩
    rw [step_empty hpending, State.idleStep_due hdue]
  · refine ⟨s.tick, ?_, s.tick_eq, rfl, fun p => ?_⟩
    · rw [step_empty hpending, State.idleStep_quiet hnone]
    · rw [State.tick_line]
      rfl

/-! ### The state right after reset -/

theorem State.reset_line (p : LineNo) : State.reset.line p = Line.reset := by
  simp [State.reset, State.powerOn, State.line]

theorem State.reset_account (a : AccountNo) : State.reset.account a = Account.reset := by
  simp [State.reset, State.powerOn, State.account]

theorem State.reset_rosterOf (p : LineNo) : State.reset.rosterOf p = Roster.reset := by
  simp [State.reset, State.powerOn, State.rosterOf]

theorem ascending_length (n b : Nat) : (ascending n b).length = n := by
  induction n generalizing b with
  | zero => rfl
  | succ n ih => simp [ascending, ih]

theorem getElem?_ascending (n b k : Nat) (h : k < n) : (ascending n b)[k]? = some (Fin.ofNat 32768 (b + k)) := by
  induction n generalizing b k with
  | zero => omega
  | succ n ih =>
    cases k with
    | zero => rfl
    | succ k =>
      have hrest := ih (b + 1) k (by omega)
      rw [Nat.add_right_comm] at hrest
      exact hrest

theorem State.reset_free_at (b : Block) : State.reset.free[b.val]? = some b := by
  have hblock := getElem?_ascending Config.blocks 0 b.val b.isLt
  have hsame : Fin.ofNat 32768 b.val = b := Fin.ext (Nat.mod_eq_of_lt b.isLt)
  rw [Nat.zero_add, hsame] at hblock
  rw [State.reset_free, hblock]

/-- Settles O3: the values of the reset rules. -/
theorem resetState : Obligations.ResetState := by
  refine ⟨rfl, rfl, rfl, rfl, ?_, State.reset_free_at, rfl, rfl, rfl, rfl, rfl, rfl, rfl, fun p => ?_, fun p => ?_,
    fun a => ?_, rfl, rfl, rfl, rfl, rfl, rfl, ?_, ?_, ?_, ?_, ?_, ?_, ?_, ?_, rfl⟩
  · rw [State.reset_free, ascending_length]
    rfl
  · rw [State.reset_line]
    decide
  · rw [State.reset_rosterOf]
    rfl
  · rw [State.reset_account]
    rfl
  · decide
  all_goals
    intros
    simp [State.reset, State.powerOn, RouteRow.reset, GroupRow.reset, PatternRow.reset, Meter.zero]

/-! ### The laws right after reset -/

theorem reset_blockLaw : BlockLaw State.reset := by
  have hplaced : placedBlocks State.reset = State.reset.free ++ [] ++ [] := rfl
  rw [BlockLaw, hplaced, List.append_nil, List.append_nil]

theorem reset_idleLaw : IdleLaw State.reset := by
  intro p
  rw [State.reset_line]
  exact idle_off rfl (by decide)

theorem reset_listLaw : ListLaw State.reset := by
  refine ⟨by simp [State.reset, State.powerOn], List.nodup_nil, by simp [State.reset, State.powerOn], fun p => ?_,
    fun a => ?_, by simp [State.reset, State.powerOn]⟩
  · simp [State.feedingChoice, State.reset_line, Line.reset]
  · simp [State.reset_account, Account.reset]

theorem reset_entryLaw : EntryLaw State.reset := by
  refine ⟨fun p => ?_, by simp [State.reset, State.powerOn]⟩
  rw [State.reset_line, State.reset_rosterOf]
  decide

theorem reset_accountLaw : AccountLaw State.reset := by
  intro a
  have hnone : accountEntries State.reset a = [] := rfl
  rw [State.reset_account, hnone]
  decide

/-- Settles O4: each law on the reset values. -/
theorem lawsAtReset : Obligations.LawsAtReset := by
  have hjobs : JobTableLaw State.reset := .empty rfl
  refine ⟨rfl, fun p => ?_, fun p => ?_, fun p => ?_, ⟨hjobs, rfl⟩, reset_blockLaw, .empty, Nat.zero_le _, rfl,
    reset_idleLaw, ⟨hjobs, reset_idleLaw, rfl, reset_listLaw, reset_entryLaw⟩, reset_accountLaw, .none rfl⟩
  · rw [State.reset_line]
    decide
  · rw [State.reset_line, State.reset_rosterOf]
    decide
  · rw [State.reset_line, State.reset_rosterOf]
    decide

end Sys2Proof.Machine
end

-- O14, O15, O16: what the shop port accepts, and the refusals of a frame's form.
section
namespace Sys2Proof.Machine

/-! ### What the port accepts -/

theorem State.accepts_iff (s : State) (b : Bool) (f : ShopFrame) : s.accepts b f = true ↔
    (f.fcsGood = true ∧ f.etherType = s.settings.port.frameType ∧ f.src.getLsbD 40 = false ∧
      (f.dst = s.settings.port.station ∨ (b = true ∧ f.dst = 0xFFFFFFFFFFFF#48))) := by
  have hdst : (b && decide (f.dst = Config.broadcast)) = true ↔ b = true ∧ f.dst = 0xFFFFFFFFFFFF#48 := by
    rw [Bool.and_eq_true, decide_eq_true_eq, Config.broadcast]
  simp only [State.accepts, groupBit, Bool.and_eq_true, Bool.or_eq_true, hdst, decide_eq_true_eq, Bool.not_eq_true',
    and_assoc]

/-! ### The commands that check a form first -/

/-- A command of the port that has no effect on a frame that is not accepted, and that refuses a form with a reply
and no other effect. -/
structure FormChecked (b : Bool) (sizeOk : List Byte → Bool) (f : ShopFrame) (run : State → State) : Prop where
  rejected : ∀ s : State, s.accepts b f = false → run s = s
  refused : ∀ (s : State) (st : Status), s.accepts b f = true → s.manageFormRefusal sizeOk f = some st →
    ∃ j, run s = s.reply s.settings.port f j st []

theorem manage_rejected {b : Bool} {sizeOk : List Byte → Bool} {jobOf : List Byte → Nat}
    {act : List Byte → State → Outcome3} {f : ShopFrame} {s : State} (h : s.accepts b f = false) :
    manage b sizeOk jobOf act f s = s := by
  simp [manage, h]

theorem manage_refused {b : Bool} {sizeOk : List Byte → Bool} {jobOf : List Byte → Nat}
    {act : List Byte → State → Outcome3} {f : ShopFrame} {s : State} {st : Status} (ha : s.accepts b f = true)
    (h : s.manageFormRefusal sizeOk f = some st) :
    manage b sizeOk jobOf act f s =
      s.reply s.settings.port f (if sizeOk (requestArgs f) then jobOf (requestArgs f) else 0) st [] := by
  simp [manage, ha, h]

theorem manage_formChecked (b : Bool) (sizeOk : List Byte → Bool) (jobOf : List Byte → Nat)
    (act : List Byte → State → Outcome3) (f : ShopFrame) : FormChecked b sizeOk f (manage b sizeOk jobOf act f) where
  rejected _ h := manage_rejected h
  refused _ _ ha h := ⟨_, manage_refused ha h⟩

theorem takeReset_formChecked (f : ShopFrame) : FormChecked false (sized 1) f (takeReset f) where
  rejected s h := by simp [takeReset, h]
  refused s st ha h := ⟨0, by simp [takeReset, ha, h]⟩

theorem manageFormRefusal_header {s : State} {sizeOk : List Byte → Bool} {f : ShopFrame}
    (h : f.version ≠ 1#8 ∨ f.rest.length + 1 < f.length.toNat) :
    s.manageFormRefusal sizeOk f = some .badRequest := by
  have hheader : headerOk f (f.rest.length + 1) = false := by
    simp only [headerOk, Bool.and_eq_false_iff, decide_eq_false_iff_not, Nat.not_le]
    exact h
  simp [State.manageFormRefusal, hheader]

theorem headerOk_of {f : ShopFrame} {n : Nat} (hv : f.version = 1#8) (hl : f.length.toNat ≤ n) :
    headerOk f n = true := by
  simp [headerOk, hv, hl]

theorem manageFormRefusal_source {s : State} {sizeOk : List Byte → Bool} {f : ShopFrame} (hv : f.version = 1#8)
    (hl : f.length.toNat ≤ f.rest.length + 1) (hm : s.isManager f.src = false) :
    s.manageFormRefusal sizeOk f = some .notPermitted := by
  simp [State.manageFormRefusal, headerOk_of hv hl, hm]

theorem manageFormRefusal_empty {s : State} {sizeOk : List Byte → Bool} {f : ShopFrame} (hv : f.version = 1#8)
    (hl : f.length.toNat = 0) (hm : s.isManager f.src = true) :
    s.manageFormRefusal sizeOk f = some .badRequest := by
  simp [State.manageFormRefusal, headerOk_of hv (by omega : f.length.toNat ≤ f.rest.length + 1), hm, hl]

theorem Requested.args {s : State} {f : ShopFrame} {args : List Byte} (h : Requested s f args) :
    requestArgs f = args := by
  obtain ⟨-, -, hl, hr, -⟩ := h
  rw [requestArgs, hl, Nat.add_sub_cancel, hr]

theorem Requested.size_refused {s : State} {f : ShopFrame} {args : List Byte} (h : Requested s f args)
    {sizeOk : List Byte → Bool} (hs : sizeOk args = false) : s.manageFormRefusal sizeOk f = some .badRequest := by
  have hargs := h.args
  obtain ⟨-, hv, hl, hr, hm⟩ := h
  have hlen : f.length.toNat ≤ f.rest.length + 1 := by
    have := congrArg List.length hr
    rw [List.length_take] at this
    omega
  simp [State.manageFormRefusal, headerOk_of hv hlen, hm, hargs, hs]

/-- The command runs as a check of the form and what follows it. -/
def Checks (b : Bool) (sizeOk : List Byte → Bool) (f : ShopFrame) (c : Instr) : Prop :=
  ∃ run, FormChecked b sizeOk f run ∧ ∀ s, exec c s = .next (run s)

theorem checks_manage {b : Bool} {sizeOk : List Byte → Bool} {jobOf : List Byte → Nat}
    {act : List Byte → State → Outcome3} {f : ShopFrame} {c : Instr}
    (h : ∀ s, exec c s = .next (manage b sizeOk jobOf act f s)) : Checks b sizeOk f c :=
  ⟨_, manage_formChecked b sizeOk jobOf act f, h⟩

theorem checks_takeReset {f : ShopFrame} {c : Instr} (h : ∀ s, exec c s = .next (takeReset f s)) :
    Checks false (sized 1) f c := ⟨_, takeReset_formChecked f, h⟩

/-- Every named request checks its form; READ STATUS alone is taken from the broadcast address too. -/
theorem namedRequests_checks (f : ShopFrame) : ∀ c ∈ namedRequests f, ∃ b sizeOk,
    Checks b sizeOk f c ∧ (c ≠ .readStatus f → b = false) := by
  simp only [namedRequests, List.forall_mem_cons]
  refine ⟨?_, ?_, ?_, ?_, ?_, ?_, ?_, ?_, ?_, ?_, ?_, ?_, ?_, ?_, ?_, ?_, ?_, ?_, ?_, ?_, ?_, ?_, ?_, ?_,
    List.forall_mem_nil _⟩
  case refine_2 => exact ⟨_, _, checks_manage fun _ => rfl, fun h => absurd rfl h⟩
  case refine_23 => exact ⟨_, _, checks_takeReset fun _ => rfl, fun _ => rfl⟩
  case refine_24 => exact ⟨_, _, checks_takeReset fun _ => rfl, fun _ => rfl⟩
  all_goals exact ⟨_, _, checks_manage fun _ => rfl, fun _ => rfl⟩

/-- A request of a fixed size checks that size. -/
theorem requestSizes_checks (f : ShopFrame) : ∀ c ∈ requestSizes f, ∃ b sizeOk, Checks b sizeOk f c.1 ∧
    ∀ args : List Byte, args.length ≠ c.2 → sizeOk args = false := by
  have hsized (n : Nat) (args : List Byte) (h : args.length ≠ n) : sized n args = false := decide_eq_false h
  have hadjust (args : List Byte) (h : args.length ≠ 10) : adjustSized args = false := by
    simp [adjustSized, hsized 10 args h]
  simp only [requestSizes, List.forall_mem_cons]
  refine ⟨?_, ?_, ?_, ?_, ?_, ?_, ?_, ?_, ?_, ?_, ?_, ?_, ?_, ?_, ?_, ?_, ?_, ?_, ?_, ?_, ?_, ?_,
    List.forall_mem_nil _⟩
  case refine_6 => exact ⟨_, _, checks_manage fun _ => rfl, hadjust⟩
  case refine_21 => exact ⟨_, _, checks_takeReset fun _ => rfl, hsized 1⟩
  case refine_22 => exact ⟨_, _, checks_takeReset fun _ => rfl, hsized 1⟩
  all_goals exact ⟨_, _, checks_manage fun _ => rfl, hsized _⟩

theorem unknownRequest_rejected {f : ShopFrame} {s : State} (h : s.accepts false f = false) :
    unknownRequest f s = s := by
  simp [unknownRequest, h]

theorem takeJobFrame_rejected {k : JobFrame} {f : ShopFrame} {s : State} (h : s.accepts false f = false) :
    takeJobFrame k f s = s := by
  simp [takeJobFrame, h]

theorem takeJobOpen_rejected {f : ShopFrame} {s : State} (h : s.accepts false f = false) : takeJobOpen f s = s := by
  simp [takeJobOpen, h]

/-- Settles O14: what the port accepts, and each command's first test. -/
theorem framesNotAcceptedHaveNoEffect : Obligations.FramesNotAcceptedHaveNoEffect := by
  refine ⟨fun b s f => s.accepts_iff b f, fun s f c hno hc hstatus => ?_, fun s f hno => ?_, fun s e => rfl⟩
  · have hnamed : ∀ c ∈ namedRequests f, c ≠ .readStatus f → exec c s = .next s := by
      intro c hc hstatus
      obtain ⟨b, sizeOk, ⟨run, hchecked, hexec⟩, hb⟩ := namedRequests_checks f c hc
      rw [hb hstatus] at hchecked
      rw [hexec, hchecked.rejected s hno]
    have hjob : ∀ c ∈ jobFrames f, exec c s = .next s := by
      simp only [jobFrames, List.forall_mem_cons]
      exact ⟨congrArg _ (takeJobOpen_rejected hno), congrArg _ (takeJobFrame_rejected hno),
        congrArg _ (takeJobFrame_rejected hno), congrArg _ (takeJobFrame_rejected hno),
        congrArg _ (takeJobFrame_rejected hno), List.forall_mem_nil _⟩
    rw [List.mem_append, List.mem_append, List.mem_singleton] at hc
    obtain (hc | hc) | rfl := hc
    · exact hjob c hc
    · exact hnamed c hc hstatus
    · exact congrArg _ (unknownRequest_rejected hno)
  · exact congrArg _ (manage_rejected hno)

/-! ### The refusals of a MANAGE frame -/

theorem Requested.manage_size_refused {s : State} {f : ShopFrame} {args : List Byte} (h : Requested s f args)
    {sizeOk : List Byte → Bool} (jobOf : List Byte → Nat) (act : List Byte → State → Outcome3)
    (hs : sizeOk args = false) :
    manage false sizeOk jobOf act f s = s.reply s.settings.port f 0 .badRequest [] := by
  have hrefused := manage_refused (jobOf := jobOf) (act := act) h.1 (h.size_refused hs)
  rwa [h.args, hs, if_neg (by decide)] at hrefused

theorem unknownRequest_accepted {f : ShopFrame} {s : State} (h : s.accepts false f = true) :
    unknownRequest f s = s.reply s.settings.port f 0
      (if f.version = 1#8 ∧ f.length.toNat ≤ f.rest.length ∧ s.isManager f.src = false then .notPermitted
       else .badRequest) [] := by
  by_cases hv : f.version = 1#8
  · by_cases hl : f.length.toNat ≤ f.rest.length
    · cases hm : s.isManager f.src <;> simp [unknownRequest, h, headerOk, hv, hl, hm]
    · simp [unknownRequest, h, headerOk, hv, hl]
  · simp [unknownRequest, h, headerOk, hv]

/-- Settles O15: the form and source checks, in their order. -/
theorem malformedRequestsAreRefused : Obligations.MalformedRequestsAreRefused := by
  intro s f hyes
  refine ⟨fun c hc => ?_, fun args hreq c hc hlen => ?_, fun args hreq => ⟨fun hsize => ?_, fun hlen hdelta => ?_⟩,
    congrArg _ (unknownRequest_accepted hyes)⟩
  · obtain ⟨b, sizeOk, ⟨run, hchecked, hexec⟩, -⟩ := namedRequests_checks f c hc
    have hrefused (st : Status) (h : s.manageFormRefusal sizeOk f = some st) :
        ∃ j, exec c s = .next (s.reply s.settings.port f j st []) := by
      obtain ⟨j, hj⟩ := hchecked.refused s st (accepts_mono _ hyes) h
      exact ⟨j, by rw [hexec, hj]⟩
    exact ⟨fun h => hrefused _ (manageFormRefusal_header h),
      fun hv hl hm => hrefused _ (manageFormRefusal_source hv hl hm),
      fun hv hl hm => hrefused _ (manageFormRefusal_empty hv hl hm)⟩
  · obtain ⟨b, sizeOk, ⟨run, hchecked, hexec⟩, hsize⟩ := requestSizes_checks f c hc
    obtain ⟨j, hj⟩ := hchecked.refused s _ (accepts_mono b hyes) (hreq.size_refused (hsize args hlen))
    exact ⟨j, by rw [hexec, hj]⟩
  · simp only [List.forall_mem_cons]
    exact ⟨congrArg _ (hreq.manage_size_refused _ _ hsize), congrArg _ (hreq.manage_size_refused _ _ hsize),
      List.forall_mem_nil _⟩
  · have hsize : adjustSized args = false := by
      have hmax : max48 < (signed64 (field args 2 8)).natAbs := by
        have : max48 = 2 ^ 48 - 1 := rfl
        omega
      simp [adjustSized, Nat.not_le.mpr hmax]
    exact congrArg _ (hreq.manage_size_refused _ _ hsize)

/-! ### The refusals of a job frame -/

theorem jobFormRefusal_header {s : State} {sizeOk : Nat → Bool} {f : ShopFrame}
    (h : f.version ≠ 1#8 ∨ f.rest.length < f.length.toNat) : s.jobFormRefusal sizeOk f = some .badRequest := by
  have hheader : headerOk f f.rest.length = false := by
    simp only [headerOk, Bool.and_eq_false_iff, decide_eq_false_iff_not, Nat.not_le]
    exact h
  simp [State.jobFormRefusal, hheader]

theorem jobFormRefusal_configuring {s : State} {sizeOk : Nat → Bool} {f : ShopFrame} (hv : f.version = 1#8)
    (hl : f.length.toNat ≤ f.rest.length) (hc : s.live = .configuring) :
    s.jobFormRefusal sizeOk f = some .notLive := by
  simp [State.jobFormRefusal, headerOk_of hv hl, hc]

theorem jobFormRefusal_size {s : State} {sizeOk : Nat → Bool} {f : ShopFrame} (hv : f.version = 1#8)
    (hl : f.length.toNat ≤ f.rest.length) (hlive : s.live = .live) (hs : sizeOk f.length.toNat = false) :
    s.jobFormRefusal sizeOk f = some .badRequest := by
  simp [State.jobFormRefusal, headerOk_of hv hl, hlive, hs]

theorem takeJobOpen_refused {f : ShopFrame} {s : State} {st : Status} (ha : s.accepts false f = true)
    (h : s.jobFormRefusal (fun n => decide (n = 9)) f = some st) :
    exec (.jobOpen f) s = .next (s.reply s.settings.port f 0 st []) := by
  show execJobOpen f s = _
  simp [execJobOpen, takeJobOpen, ha, h]

/-- The answer to a refused job frame (R183). -/
theorem takeJobFrame_refused {k : JobFrame} {f : ShopFrame} {s : State} {st : Status} (ha : s.accepts false f = true)
    (h : s.jobFormRefusal (bodyFits k) f = some st) :
    takeJobFrame k f s = if s.queued f.job.toNat = true then { s with held := s.held ++ [.answer f st []] }
      else s.reply s.settings.port f f.job.toNat st [] := by
  simp only [takeJobFrame, ha, h]
  rfl

/-- The four job frames with the sizes of their bodies. -/
theorem jobFrameSizes_taken (f : ShopFrame) : ∀ c ∈ jobFrameSizes f, ∃ k,
    (∀ s, exec c.1 s = .next (takeJobFrame k f s)) ∧ ∀ n, ¬ c.2 n → bodyFits k n = false := by
  simp only [jobFrameSizes, List.forall_mem_cons]
  refine ⟨⟨.sheetData, fun s => rfl, fun n hn => ?_⟩, ⟨.sheetEnd, fun s => rfl, fun n hn => decide_eq_false hn⟩,
    ⟨.jobClose, fun s => rfl, fun n hn => decide_eq_false hn⟩,
    ⟨.jobCancel, fun s => rfl, fun n hn => decide_eq_false hn⟩, List.forall_mem_nil _⟩
  simpa [bodyFits] using hn

/-- Settles O16: the form checks of a job frame, in their order. -/
theorem malformedJobFramesAreRefused : Obligations.MalformedJobFramesAreRefused := by
  intro s f hyes
  have hboth {st : Status} (h : ∀ sizeOk, s.jobFormRefusal sizeOk f = some st) :
      exec (.jobOpen f) s = .next (s.reply s.settings.port f 0 st []) ∧
      ∀ c ∈ jobFrameSizes f, exec c.1 s = .next
        (if s.queued f.job.toNat = true then { s with held := s.held ++ [.answer f st []] }
         else s.reply s.settings.port f f.job.toNat st []) := by
    refine ⟨takeJobOpen_refused hyes (h _), fun c hc => ?_⟩
    obtain ⟨k, hexec, -⟩ := jobFrameSizes_taken f c hc
    rw [hexec, takeJobFrame_refused hyes (h _)]
  refine ⟨fun st hst => ?_, fun hv hl hlive => ⟨fun hsize => ?_, fun c hc hsize => ?_⟩⟩
  · obtain ⟨rfl, hheader⟩ | ⟨rfl, hv, hl, hconf⟩ := hst
    · exact hboth fun _ => jobFormRefusal_header hheader
    · exact hboth fun _ => jobFormRefusal_configuring hv hl hconf
  · exact takeJobOpen_refused hyes (jobFormRefusal_size hv hl hlive (decide_eq_false hsize))
  · obtain ⟨k, hexec, hfits⟩ := jobFrameSizes_taken f c hc
    rw [hexec, takeJobFrame_refused hyes (jobFormRefusal_size hv hl hlive (hfits _ hsize))]

end Sys2Proof.Machine
end

-- O17: GO LIVE (R185).
section
namespace Sys2Proof.Machine

theorem goLiveAct_live {s : State} (args : List Byte) (h : s.live = .live) : goLiveAct args s = (s, .ok, []) :=
  if_pos h

/-- LIVE, with RESYNC made on the lines. -/
def State.gone (s : State) : State := { s with live := .live }.mapLines fun _ l => resyncLine l

theorem goLiveAct_configuring {s : State} (args : List Byte) (h : s.live = .configuring) :
    goLiveAct args s = (s.gone, .ok, []) := if_neg (by simp [h])

theorem State.gone_line (s : State) (p : LineNo) : s.gone.line p = resyncLine (s.line p) :=
  State.line_mapLines _ _ p

theorem State.gone_eq (s : State) : s.gone = { s with live := .live, lines := s.gone.lines } := rfl

@[simp] theorem resyncLine_moveDelay (l : Line) : (resyncLine l).moveDelay = l.moveDelay := by
  unfold resyncLine
  split <;> rfl

/-- Settles O17: the request has no effect in LIVE, and makes the RESYNC frames in CONFIGURING. -/
theorem goLiveMakesResync : Obligations.GoLiveMakesResync := by
  intro s f hreq hw
  refine ⟨fun hlive => ?_, fun hconf => ?_⟩
  · exact congrArg _ (manage_unchanged hreq noJob rfl hw (goLiveAct_live [] hlive))
  · have hdelay (p : LineNo) : (s.gone.line p).moveDelay = (s.line p).moveDelay := by
      rw [State.gone_line, resyncLine_moveDelay]
    refine ⟨s.gone, ?_, s.gone_eq, fun p => s.gone_line p⟩
    exact congrArg _ (manage_calm hreq noJob rfl (goLiveAct_configuring [] hconf) (congrArg (·.settings.port) s.gone_eq)
      (fun _ => Nat.le_refl _) hw (zeroMove_none hdelay))

end Sys2Proof.Machine
end

-- O18: READ STATUS (R186 to R188).
section
namespace Sys2Proof.Machine

/-! ### The figures of a body -/

theorem append_congr {α : Type} {a b c d : List α} (h : a = b) (k : c = d) : a ++ c = b ++ d := by rw [h, k]

theorem absentFigure_eq : absentFigure = List.replicate 8 0xFF#8 := by decide

theorem flagFigure_eq (b : Bool) : flagFigure b = be 8 (if b then 1 else 0) := rfl

theorem optFigure_tag (o : Option Byte) : optFigure (o.map fun t => t.toNat) =
    match o with
      | some t => be 8 t.toNat
      | none => List.replicate 8 0xFF#8 := by
  cases o with
  | none => exact absentFigure_eq
  | some t => rfl

theorem optFigure_line (o : Option LineNo) : optFigure (o.map fun p => p.val) =
    match o with
      | some p => be 8 p.val
      | none => List.replicate 8 0xFF#8 := by
  cases o with
  | none => exact absentFigure_eq
  | some p => rfl

theorem optFigure_eq (o : Option Nat) : optFigure o =
    match o with
      | some n => be 8 n
      | none => List.replicate 8 0xFF#8 := by
  cases o with
  | none => exact absentFigure_eq
  | some n => rfl

/-- A coded figure that may be absent. -/
theorem optFigure_code {α : Type} (o : Option α) (code : α → BitVec 64) : optFigure (o.map fun a => (code a).toNat) =
    if o.isSome then be 8 (o.elim 0 code).toNat else List.replicate 8 0xFF#8 := by
  cases o with
  | none => exact absentFigure_eq
  | some a => rfl

theorem absentFigure_twice : absentFigure ++ absentFigure = List.replicate 16 0xFF#8 := by decide

theorem optFigure_sheet (o : Option Sheet) :
    optFigure (o.map fun h => h.index) ++ optFigure (o.map fun h => h.received) =
    match o with
      | some h => be 8 h.index ++ be 8 h.received
      | none => List.replicate 16 0xFF#8 := by
  cases o with
  | none => exact absentFigure_twice
  | some h => rfl

theorem optFigure_blockOrigin (o : Option BlockOrigin) : optFigure (o.map blockOriginCode) =
    match o with
      | some .waking => be 8 1
      | some .ready => be 8 2
      | none => List.replicate 8 0xFF#8 := by
  cases o with
  | none => exact absentFigure_eq
  | some b => cases b <;> rfl

theorem posFigures_eq (pos : WindowPos) :
    posFigures pos = be 8 (pos.elim 65535 (·.1)) ++ be 8 (pos.elim 255 (·.2)) := by
  cases pos <;> rfl

theorem windowFigures_eq (o : Option Window) : windowFigures o =
    match o with
      | some w => be 8 (tableNumber w.table) ++ be 8 w.firstRow ++ be 8 w.lastRow ++ be 8 w.firstCell ++
          be 8 w.lastCell ++ be 8 (w.write.elim 65535 (·.1)) ++ be 8 (w.write.elim 255 (·.2)) ++
          be 8 (w.read.elim 65535 (·.1)) ++ be 8 (w.read.elim 255 (·.2))
      | none => List.replicate 72 0xFF#8 := by
  cases o with
  | none => decide
  | some w => simp only [windowFigures, posFigures_eq, figure, List.append_assoc]

theorem readoutFigures_eq (o : Option Snapshot) : readoutFigures o =
    match o with
      | some n => be 8 (meterScopeCode n.scope) ++ be 8 n.next
      | none => List.replicate 16 0xFF#8 := by
  cases o with
  | none => decide
  | some n => rfl

theorem allLines_eq : allLines = List.finRange 16 := by decide

theorem placeIn_eq (j : Nat) (l : List Nat) :
    placeIn j l = if j ∈ l then some (l.findIdx fun k => decide (k = j)) else none := by
  induction l with
  | nil => rfl
  | cons k l ih =>
    by_cases hk : k = j
    · simp [placeIn, hk, List.findIdx_cons]
    · have hne : j ≠ k := fun h => hk h.symm
      by_cases hj : j ∈ l <;> simp [placeIn, ih, hk, hne, hj, List.findIdx_cons]

theorem optFigure_placeIn (j : Nat) (l : List Nat) : optFigure (placeIn j l) =
    if j ∈ l then be 8 (l.findIdx fun k => decide (k = j)) else List.replicate 8 0xFF#8 := by
  rw [placeIn_eq]
  split
  · rfl
  · exact absentFigure_eq

theorem policyCode_eq (q : Policy) : policyCode q = if q = .spread then 0 else 1 := by cases q <;> rfl

theorem ingestCode_eq (i : IngestState) : ingestCode i = if i = .opened then 0 else 1 := by cases i <;> rfl

theorem State.queueElement_eq (s : State) (j : Nat) : s.queueElement j = be 2 j ++
    match s.job? j with
      | some x => be 1 (runStateCode x.run) ++ be 1 x.priority
      | none => be 2 0 := by
  unfold State.queueElement
  cases s.job? j with
  | none => rfl
  | some x => exact List.append_assoc ..

theorem entryElement_eq (e : Entry) : entryElement e = be 2 e.job ++ be 1 e.copy ++ be 2 e.sheet ++ [e.tag] ++
    be 4 e.cost ++ be 1 e.sides ++ be 4 e.moved ++ [if e.flushing then 1#8 else 0#8] := rfl

/-! ### The bodies -/

/-- The figures of a part status, in the order of section 12.1.2. -/
theorem State.partStatus_figures (s : State) : ∃ state : BitVec 64, s.partStatus =
    be 8 state.toNat ++ be 8 s.settings.port.station.toNat ++ be 8 s.free.length ++ be 8 s.quarantine.length ++
      be 8 s.pool ++ be 8 s.jobs.length ++ be 8 s.jobCtr ++ be 2 s.waiting.length ++ s.waiting.flatMap (be 2) ++
      be 8 s.alerts.length ++ be 8 s.cleared.length ++ be 8 s.alertCtr ++ be 8 (if s.spoolLow then 1 else 0) ++
      (List.finRange 16).flatMap (fun p => be 1 (lineStateCode (s.line p).state)) ++
      readoutFigures s.readout ++ windowFigures s.window ++ be 8 s.timeBase.toNat := by
  refine ⟨Config.partStateCode s.live, ?_⟩
  simp only [State.partStatus, figure, packedList, flagFigure_eq, allLines_eq, List.append_assoc]

/-- The figures of a printer status. -/
theorem State.printerStatus_figures (s : State) (p : LineNo) : ∃ flush conditions : BitVec 64,
    s.printerStatus p = be 8 (lineStateCode (s.line p).state) ++
      (if (s.line p).state = .blocked then
        optFigure ((s.line p).blockOrigin.map blockOriginCode) ++
          be 8 (if (s.line p).flushedDuringBlock then 1 else 0)
       else List.replicate 16 0xFF#8) ++
      (if flushPending (s.line p).flush then be 8 flush.toNat else List.replicate 8 0xFF#8) ++
      be 8 (if (s.line p).readySeen then 1 else 0) ++ be 8 (if (s.line p).standbyPending then 1 else 0) ++
      be 8 conditions.toNat ++ be 1 (s.line p).statusText.length ++ (s.line p).statusText ++
      optFigure ((s.line p).jamTag.map fun t => t.toNat) ++
      be 8 (if (s.line p).stalled then 1 else 0) ++ be 8 (s.line p).pace ++ be 8 (if (s.line p).armed then 1 else 0) ++
      be 8 (s.line p).credits ++ be 8 (s.line p).capacity ++ be 8 (fifoFill (s.line p).fifo) ++
      be 8 (s.line p).modelCode.toNat ++ be 8 (s.line p).tagCtr.toNat ++ be 2 (s.line p).queue.length ++
      (s.line p).queue.flatMap s.queueElement ++ optFigure (s.line p).feeding ++
      be 2 (s.line p).inflight.length ++ (s.line p).inflight.flatMap entryElement := by
  refine ⟨Config.purposesCode (s.line p).flush, Config.conditionsCode (s.line p).conditions, ?_⟩
  simp only [State.printerStatus, figure, packedList, flagFigure_eq, absentFigure_twice, List.append_assoc]
  rw [absentFigure_eq]

/-- The figures of a job status. -/
theorem State.jobStatus_figures (s : State) (x : Job) : ∃ target reason : BitVec 64, s.jobStatus x =
    be 8 x.submitterRef.toNat ++ be 8 x.source.toNat ++ be 8 x.account.val ++ be 8 x.kind ++ be 8 x.priority ++
      be 8 x.copies ++ be 8 x.mediaSet.toNat ++ be 8 (if x.retain then 1 else 0) ++
      be 8 (if x.moveAllowed then 1 else 0) ++ be 8 x.group.val ++
      be 8 (if x.policy = .spread then 0 else 1) ++ be 8 x.spreadShift ++
      be 8 (if x.ingest = .opened then 0 else 1) ++ be 8 (runStateCode x.run) ++
      (if x.leaveTarget.isSome then be 8 target.toNat else List.replicate 8 0xFF#8) ++
      (if x.holdReason.isSome then be 8 reason.toNat else List.replicate 8 0xFF#8) ++
      optFigure (x.bound.map fun p => p.val) ++ optFigure (x.excluded.map fun p => p.val) ++
      be 8 x.dispatch.copy ++ be 8 x.dispatch.sheet ++ be 8 x.confirm.copy ++ be 8 x.confirm.sheet ++
      be 8 (completeCount x) ++
      (optFigure ((openSheet x).map fun h => h.index) ++ optFigure ((openSheet x).map fun h => h.received)) ++
      be 8 (x.sheets.map fun h => h.chain.length).sum ++ be 8 x.noProgress ++ be 8 x.split ++ be 8 x.binding ++
      be 8 x.chargedCost ++ be 8 x.confirmedCopies ++ be 8 x.confirmedSides ++
      (if x.number ∈ s.waiting then be 8 (s.waiting.findIdx fun j => decide (j = x.number))
       else List.replicate 8 0xFF#8) ++
      be 8 (if x.number ∈ (s.account x.account).quotaHeld then 1 else 0) := by
  refine ⟨x.leaveTarget.elim 0 Config.leaveTargetCode, x.holdReason.elim 0 Config.holdReasonCode, ?_⟩
  delta State.jobStatus
  simp only [figure, flagFigure_eq, policyCode_eq, ingestCode_eq, optFigure_code, optFigure_placeIn,
    decide_eq_true_eq, List.append_assoc]

/-! ### The statement -/

theorem StatusRequested.answer {s : State} {f : ShopFrame} {args : List Byte} {st : Status} {body : List Byte}
    (h : StatusRequested s f args) (hlen : args.length = 3) (hw : NoPassWanted s)
    (hact : readStatusAct args s = (s, st, body)) :
    exec (.readStatus f) s = .next (answered s s f (statusJob args) st body) := by
  obtain ⟨ha, hv, hl, hr, hm⟩ := h
  show execReadStatus f s = _
  rw [execReadStatus, manage_taken true (sized 3) statusJob readStatusAct ha hv hl hr hm (decide_eq_true hlen), hact,
    manageEnd_ended f (statusJob args) (s, st, body) rfl,
    ended_answered f _ _ _ (fun _ => Nat.le_refl _) hw (zeroMove_none fun _ => rfl)]

theorem statusJob_job {args : List Byte} (h : field args 0 1 = 2) : statusJob args = field args 1 2 := if_pos h

theorem statusJob_other {args : List Byte} (h : field args 0 1 ≠ 2) : statusJob args = 0 := if_neg h

/-- Settles O18: the reply of each scope, and the figures of its body. -/
theorem readStatusReportsItsScope : Obligations.ReadStatusReportsItsScope := by
  intro s f args hreq hlen hw
  have hanswer {st : Status} {body : List Byte} (hact : readStatusAct args s = (s, st, body)) :=
    hreq.answer hlen hw hact
  refine ⟨fun hscope => ?_, fun hscope => ⟨fun p hp => ?_, fun hout => ?_⟩,
    fun hscope => ⟨fun x hx => ?_, fun hnone => ?_⟩, fun hscope => ?_, ?_, fun p => ?_, fun x => ?_⟩
  · rw [hanswer (st := .ok) (body := s.partStatus) (by simp [readStatusAct, hscope]),
      statusJob_other (by omega)]
  · rw [hanswer (st := .ok) (body := s.printerStatus p) (by simp [readStatusAct, hscope, ← hp]),
      statusJob_other (by omega)]
  · rw [hanswer (st := .badRequest) (body := [])
      (by simp [readStatusAct, hscope, refuse, Nat.not_lt.mpr hout]), statusJob_other (by omega)]
  · rw [hanswer (st := .ok) (body := s.jobStatus x) (by simp [readStatusAct, hscope, hx]), statusJob_job hscope]
  · rw [hanswer (st := .unknownJob) (body := []) (by simp [readStatusAct, hscope, hnone, refuse]),
      statusJob_job hscope]
  · rw [hanswer (st := .badRequest) (body := []) ?_, statusJob_other (by omega)]
    unfold readStatusAct
    split
    · omega
    · omega
    · omega
    · rfl
  · obtain ⟨state, hfigures⟩ := s.partStatus_figures
    refine ⟨state, hfigures.trans ?_⟩
    rw [readoutFigures_eq, windowFigures_eq]
    repeat' with_reducible apply append_congr
    all_goals rfl
  · obtain ⟨flush, conditions, hfigures⟩ := s.printerStatus_figures p
    refine ⟨flush, conditions, hfigures.trans ?_⟩
    rw [optFigure_blockOrigin, optFigure_tag, optFigure_eq (s.line p).feeding,
      funext s.queueElement_eq, funext entryElement_eq]
    repeat' with_reducible apply append_congr
    all_goals rfl
  · obtain ⟨target, reason, hfigures⟩ := s.jobStatus_figures x
    refine ⟨target, reason, hfigures.trans ?_⟩
    rw [optFigure_sheet, optFigure_line, optFigure_line]
    repeat' with_reducible apply append_congr
    all_goals rfl

end Sys2Proof.Machine
end

-- O22: TABLE READ (R192).
section
namespace Sys2Proof.Machine

/-! ### The cursor order (R190) -/

theorem posAfter_none (w : Window) (n : Nat) : posAfter w n none = none := by cases n <;> rfl

theorem posAfter_succ (w : Window) (n : Nat) (pos : WindowPos) :
    posAfter w (n + 1) pos = (posAfter w n pos).bind fun q => nextPos w q.1 q.2 := by
  induction n generalizing pos with
  | zero => cases pos <;> rfl
  | succ n ih =>
    cases pos with
    | none => rfl
    | some q => exact ih (nextPos w q.1 q.2)

/-- The place of cell `k` of a block of `rows` rows of `cells` cells is the next one after cell `k - 1`. -/
theorem div_mod_succ {m k : Nat} (hm : 0 < m) : (k % m + 1 < m → (k + 1) / m = k / m ∧ (k + 1) % m = k % m + 1) ∧
    (¬ k % m + 1 < m → (k + 1) / m = k / m + 1 ∧ (k + 1) % m = 0) := by
  have hk := Nat.div_add_mod k m
  have hlt := Nat.mod_lt k hm
  refine ⟨fun h => ?_, fun h => ?_⟩
  · have hnext : k + 1 = k % m + 1 + m * (k / m) := by omega
    rw [hnext, Nat.add_mul_div_left _ _ hm, Nat.add_mul_mod_self_left, Nat.div_eq_of_lt h, Nat.mod_eq_of_lt h,
      Nat.zero_add]
    exact ⟨rfl, rfl⟩
  · have hnext : k + 1 = m * (k / m + 1) := by
      rw [Nat.mul_add]
      omega
    rw [hnext, Nat.mul_div_cancel_left _ hm, Nat.mul_mod_right]
    exact ⟨rfl, rfl⟩

theorem posAfter_start (w : Window) (k : Nat) (hrow : w.firstRow ≤ w.lastRow) (hcell : w.firstCell ≤ w.lastCell) :
    posAfter w k (some (w.firstRow, w.firstCell)) =
      if k < (w.lastRow - w.firstRow + 1) * (w.lastCell - w.firstCell + 1) then
        some (w.firstRow + k / (w.lastCell - w.firstCell + 1), w.firstCell + k % (w.lastCell - w.firstCell + 1))
      else none := by
  obtain ⟨m, hm⟩ : ∃ m, w.lastCell - w.firstCell + 1 = m := ⟨_, rfl⟩
  obtain ⟨n, hn⟩ : ∃ n, w.lastRow - w.firstRow + 1 = n := ⟨_, rfl⟩
  rw [hm, hn]
  have hmpos : 0 < m := by omega
  have hnpos : 0 < n := by omega
  induction k with
  | zero => simp [posAfter, Nat.mul_pos hnpos hmpos]
  | succ k ih =>
    rw [posAfter_succ, ih]
    obtain ⟨hsame, hwrap⟩ := div_mod_succ (m := m) (k := k) hmpos
    have hrows : k < n * m ↔ k / m < n := (Nat.div_lt_iff_lt_mul hmpos).symm
    have hrows' : k + 1 < n * m ↔ (k + 1) / m < n := (Nat.div_lt_iff_lt_mul hmpos).symm
    by_cases hk : k / m < n
    · rw [if_pos (hrows.mpr hk), Option.bind_some]
      unfold nextPos
      by_cases hlast : k % m + 1 < m
      · obtain ⟨hdiv, hmod⟩ := hsame hlast
        rw [if_pos (by omega), if_pos (hrows'.mpr (by omega)), hdiv, hmod, Nat.add_assoc]
      · obtain ⟨hdiv, hmod⟩ := hwrap hlast
        rw [if_neg (by omega), hdiv, hmod]
        by_cases hend : k / m + 1 < n
        · rw [if_pos (by omega), if_pos (hrows'.mpr (by omega)), Nat.add_assoc]
          rfl
        · rw [if_neg (by omega), if_neg (fun h => hend (hdiv ▸ hrows'.mp h))]
    · have hle := Nat.div_le_div_right (c := m) (Nat.le_succ k)
      rw [if_neg (fun h => hk (hrows.mp h)), if_neg (fun h => hk (by have := hrows'.mp h; omega)), Option.bind_none]

/-! ### The cells read -/

theorem State.readValues_pos (s : State) (w : Window) (n : Nat) (pos : WindowPos) :
    (s.readValues w n pos).2 = posAfter w n pos := by
  induction n generalizing pos with
  | zero => rfl
  | succ n ih =>
    cases pos with
    | none => rfl
    | some q => exact ih (nextPos w q.1 q.2)

theorem State.readValues_getElem? (s : State) (w : Window) (n : Nat) (pos : WindowPos) (k : Nat) :
    (s.readValues w n pos).1[k]? =
      if k < n then (posAfter w k pos).map (fun q => s.readCell w.table q.1 q.2) else none := by
  induction n generalizing pos k with
  | zero => rfl
  | succ n ih =>
    cases pos with
    | none => simp [State.readValues, posAfter_none]
    | some q =>
      cases k with
      | zero => simp [State.readValues, posAfter]
      | succ k =>
        have hrest := ih (nextPos w q.1 q.2) k
        simpa [State.readValues, posAfter] using hrest

/-- What a read from a place answers (R192). -/
theorem State.readFrom_eq (s : State) (w : Window) (start : WindowPos) : s.readFrom w start =
    ({ s with window := some { w with read := posAfter w 128 start } },
      if posAfter w 128 start = none then .last else .more,
      posBytes start ++ be 1 (s.readValues w 128 start).1.length ++
        (s.readValues w 128 start).1.flatMap (be 8)) := by
  simp only [State.readFrom, State.readValues_pos]
  cases posAfter w 128 start <;> rfl

theorem manage_tableRead {s : State} {f : ShopFrame} {w : Window} {start : WindowPos} {fromStart : Bool}
    (h : Requested s f []) (hw : NoPassWanted s) (hwin : s.window = some w)
    (hstart : (if fromStart then windowStart w else w.read) = start) :
    manage false (sized 0) noJob (tableReadAct fromStart) f s =
      answered s { s with window := some { w with read := posAfter w 128 start } } f 0
        (if posAfter w 128 start = none then .last else .more)
        (posBytes start ++ be 1 (s.readValues w 128 start).1.length ++
          (s.readValues w 128 start).1.flatMap (be 8)) := by
  have hact : tableReadAct fromStart [] s = s.readFrom w start := by
    unfold tableReadAct
    rw [hwin, ← hstart]
  exact manage_calm h noJob rfl (hact.trans (s.readFrom_eq w start)) rfl (fun _ => Nat.le_refl _) hw
    (zeroMove_none fun _ => rfl)

/-- Settles O22: the cells of 128 places in cursor order, and the cursor order itself. -/
theorem tableReadReturnsCells : Obligations.TableReadReturnsCells := by
  refine ⟨fun s f w hreq hw hwin c start hc => ?_, fun w k hrow hcell => posAfter_start w k hrow hcell⟩
  refine ⟨(s.readValues w 128 start).1, fun k => s.readValues_getElem? w 128 start k, ?_⟩
  obtain ⟨rfl, hstart⟩ | ⟨rfl, hstart⟩ := hc
  · exact congrArg _ (manage_tableRead hreq hw hwin (fromStart := true) hstart.symm)
  · exact congrArg _ (manage_tableRead hreq hw hwin (fromStart := false) hstart.symm)

end Sys2Proof.Machine
end

-- O20: TABLE WRITE counts every value (R190).
section
namespace Sys2Proof.Machine

/-! ### The values of a write -/

theorem valueList_length (n : Nat) (bs : List Byte) : (valueList n bs).length = n := by
  induction n generalizing bs with
  | zero => rfl
  | succ n ih => exact congrArg (· + 1) (ih _)

theorem writeArgs_length (args : List Byte) : (writeArgs args).length = field args 0 1 := valueList_length _ _

/-- What the run of a write over a list of values adds to its counts. -/
structure RunStep (w : Window) (n : Nat) (k m : WriteRun) : Prop where
  pos : m.pos = posAfter w n k.pos
  counts : m.taken + m.skipped + m.ignored = k.taken + k.skipped + k.ignored + n
  ignored : m.pos ≠ none → m.ignored = k.ignored
  clamped : k.clamped ≤ k.taken → m.clamped ≤ m.taken

theorem nextPos_ne_none {w : Window} {n r c : Nat} (h : posAfter w n (nextPos w r c) ≠ none) :
    posAfter w (n + 1) (some (r, c)) ≠ none := h

theorem takeValue_step (w : Window) (k : WriteRun) (v : Nat) : RunStep w 1 k (takeValue w k v) := by
  unfold takeValue
  split
  · rename_i hpos
    exact ⟨hpos.trans (by rw [hpos]; rfl), by dsimp only; omega, fun h => absurd hpos h, id⟩
  · rename_i r c hpos
    have hnext : nextPos w r c = posAfter w 1 k.pos := by rw [hpos]; rfl
    split
    · exact ⟨hnext, by dsimp only; omega, fun _ => rfl, id⟩
    · refine ⟨hnext, by dsimp only; omega, fun _ => rfl, fun hle => ?_⟩
      dsimp only
      split <;> omega

theorem posAfter_add (w : Window) (n m : Nat) (pos : WindowPos) :
    posAfter w (n + m) pos = posAfter w n (posAfter w m pos) := by
  induction m generalizing pos with
  | zero => rfl
  | succ m ih =>
    cases pos with
    | none => rw [posAfter_none, posAfter_none, posAfter_none]
    | some q => exact ih (nextPos w q.1 q.2)

theorem RunStep.trans {w : Window} {a b : Nat} {k m o : WriteRun} (h : RunStep w a k m) (g : RunStep w b m o) :
    RunStep w (a + b) k o where
  pos := by rw [g.pos, h.pos, Nat.add_comm, posAfter_add]
  counts := by rw [g.counts, h.counts, Nat.add_assoc]
  ignored ho := by
    have hm : m.pos ≠ none := fun hnone => ho (by rw [g.pos, hnone, posAfter_none])
    rw [g.ignored ho, h.ignored hm]
  clamped hle := g.clamped (h.clamped hle)

theorem takeValues_step (w : Window) (values : List Nat) (k : WriteRun) :
    RunStep w values.length k (values.foldl (takeValue w) k) := by
  induction values generalizing k with
  | nil => exact ⟨rfl, rfl, fun _ => rfl, id⟩
  | cons v values ih =>
    have hboth := (takeValue_step w k v).trans (ih (takeValue w k v))
    rwa [Nat.add_comm] at hboth

/-! ### What a write leaves -/

/-- Everything that a write to table `tb` leaves as it was, apart from what the end of the event may do. -/
structure Writes (tb : Table) (s t : State) : Prop where
  route : tb ≠ .route → t.route = s.route
  group : tb ≠ .group → t.group = s.group
  accounts : tb ≠ .account → ∀ a, sameFigures (s.account a) (t.account a)
  rate : tb ≠ .rate → t.rate = s.rate
  media : tb ≠ .media → t.media = s.media
  tier : tb ≠ .tier → t.tier = s.tier
  pattern : tb ≠ .pattern → t.pattern = s.pattern
  roster : tb ≠ .roster → t.roster = s.roster
  settings : tb ≠ .settings → t.settings = s.settings
  outside : t.live = s.live ∧ t.straps = s.straps ∧ t.readout = s.readout ∧ t.timeBase = s.timeBase ∧
    t.dram = s.dram ∧ t.jobCtr = s.jobCtr ∧ t.engine0 = s.engine0 ∧ t.engine1 = s.engine1 ∧
    t.lastGranted = s.lastGranted ∧ t.lineOut = s.lineOut ∧ t.held = s.held ∧ t.pending = s.pending

theorem Writes.refl (tb : Table) (s : State) : Writes tb s s :=
  ⟨fun _ => rfl, fun _ => rfl, fun _ _ => rfl, fun _ => rfl, fun _ => rfl, fun _ => rfl, fun _ => rfl, fun _ => rfl,
    fun _ => rfl, rfl, rfl, rfl, rfl, rfl, rfl, rfl, rfl, rfl, rfl, rfl, rfl⟩

theorem Writes.trans {tb : Table} {s t u : State} (h : Writes tb s t) (k : Writes tb t u) : Writes tb s u where
  route n := (k.route n).trans (h.route n)
  group n := (k.group n).trans (h.group n)
  accounts n a := (k.accounts n a).trans (h.accounts n a)
  rate n := (k.rate n).trans (h.rate n)
  media n := (k.media n).trans (h.media n)
  tier n := (k.tier n).trans (h.tier n)
  pattern n := (k.pattern n).trans (h.pattern n)
  roster n := (k.roster n).trans (h.roster n)
  settings n := (k.settings n).trans (h.settings n)
  outside := by
    obtain ⟨h1, h2, h3, h4, h5, h6, h7, h8, h9, h10, h11, h12⟩ := h.outside
    obtain ⟨k1, k2, k3, k4, k5, k6, k7, k8, k9, k10, k11, k12⟩ := k.outside
    exact ⟨k1.trans h1, k2.trans h2, k3.trans h3, k4.trans h4, k5.trans h5, k6.trans h6, k7.trans h7, k8.trans h8,
      k9.trans h9, k10.trans h10, k11.trans h11, k12.trans h12⟩

/-- A change of one table of the state. -/
theorem Writes.tables (tb : Table) (s : State) (route : Vector RouteRow 32) (group : Vector GroupRow 8)
    (accounts : Vector Account 256) (rate : Vector (Vector Nat 4) 4) (media : Vector Nat 16)
    (tier : Vector TierRow 4) (pattern : Vector PatternRow 24) (roster : Vector Roster 16) (settings : Settings)
    (want : Nat) (win : Option Window) (h1 : tb ≠ .route → route = s.route) (h2 : tb ≠ .group → group = s.group)
    (h3 : tb ≠ .account → accounts = s.accounts) (h4 : tb ≠ .rate → rate = s.rate) (h5 : tb ≠ .media → media = s.media)
    (h6 : tb ≠ .tier → tier = s.tier) (h7 : tb ≠ .pattern → pattern = s.pattern)
    (h8 : tb ≠ .roster → roster = s.roster) (h9 : tb ≠ .settings → settings = s.settings) :
    Writes tb s { s with route := route, group := group, accounts := accounts, rate := rate, media := media,
                         tier := tier, pattern := pattern, roster := roster, settings := settings,
                         passesWanted := want, window := win } :=
  ⟨h1, h2, fun n a => by simp [State.account, h3 n, sameFigures], h4, h5, h6, h7, h8, h9,
    rfl, rfl, rfl, rfl, rfl, rfl, rfl, rfl, rfl, rfl, rfl, rfl⟩

/-! #### One value -/

/-- A written cell changes its own table alone. -/
theorem writeCell_writes {s t : State} {tb : Table} {r c v : Nat} {b : Bool}
    (h : s.writeCell tb r c v = some (t, b)) : Writes tb s t := by
  cases tb with
  | route =>
    obtain ⟨x, -, hx⟩ := Option.bind_eq_some_iff.mp h
    obtain ⟨y, -, hy⟩ := Option.map_eq_some_iff.mp hx
    obtain ⟨rfl, -⟩ := Prod.mk.inj hy
    exact .tables .route s _ _ _ _ _ _ _ _ _ _ _ (absurd rfl) (fun _ => rfl) (fun _ => rfl) (fun _ => rfl)
      (fun _ => rfl) (fun _ => rfl) (fun _ => rfl) (fun _ => rfl) fun _ => rfl
  | group =>
    obtain ⟨x, -, hx⟩ := Option.bind_eq_some_iff.mp h
    obtain ⟨y, -, hy⟩ := Option.map_eq_some_iff.mp hx
    obtain ⟨rfl, -⟩ := Prod.mk.inj hy
    exact .tables .group s _ _ _ _ _ _ _ _ _ _ _ (fun _ => rfl) (absurd rfl) (fun _ => rfl) (fun _ => rfl)
      (fun _ => rfl) (fun _ => rfl) (fun _ => rfl) (fun _ => rfl) fun _ => rfl
  | account =>
    obtain ⟨x, -, hx⟩ := Option.bind_eq_some_iff.mp h
    obtain ⟨y, -, hy⟩ := Option.map_eq_some_iff.mp hx
    obtain ⟨rfl, -⟩ := Prod.mk.inj hy
    exact .tables .account s _ _ _ _ _ _ _ _ _ _ _ (fun _ => rfl) (fun _ => rfl) (absurd rfl) (fun _ => rfl)
      (fun _ => rfl) (fun _ => rfl) (fun _ => rfl) (fun _ => rfl) fun _ => rfl
  | rate =>
    obtain ⟨x, -, hx⟩ := Option.bind_eq_some_iff.mp h
    obtain ⟨rfl, -⟩ := Prod.mk.inj (Option.some.inj hx)
    exact .tables .rate s _ _ _ _ _ _ _ _ _ _ _ (fun _ => rfl) (fun _ => rfl) (fun _ => rfl) (absurd rfl)
      (fun _ => rfl) (fun _ => rfl) (fun _ => rfl) (fun _ => rfl) fun _ => rfl
  | media =>
    obtain ⟨rfl, -⟩ := Prod.mk.inj (Option.some.inj h)
    exact .tables .media s _ _ _ _ _ _ _ _ _ _ _ (fun _ => rfl) (fun _ => rfl) (fun _ => rfl) (fun _ => rfl)
      (absurd rfl) (fun _ => rfl) (fun _ => rfl) (fun _ => rfl) fun _ => rfl
  | tier =>
    obtain ⟨x, -, hx⟩ := Option.bind_eq_some_iff.mp h
    obtain ⟨y, -, hy⟩ := Option.map_eq_some_iff.mp hx
    obtain ⟨rfl, -⟩ := Prod.mk.inj hy
    exact .tables .tier s _ _ _ _ _ _ _ _ _ _ _ (fun _ => rfl) (fun _ => rfl) (fun _ => rfl) (fun _ => rfl)
      (fun _ => rfl) (absurd rfl) (fun _ => rfl) (fun _ => rfl) fun _ => rfl
  | pattern =>
    obtain ⟨x, -, hx⟩ := Option.bind_eq_some_iff.mp h
    obtain ⟨y, -, hy⟩ := Option.map_eq_some_iff.mp hx
    obtain ⟨rfl, -⟩ := Prod.mk.inj hy
    exact .tables .pattern s _ _ _ _ _ _ _ _ _ _ _ (fun _ => rfl) (fun _ => rfl) (fun _ => rfl) (fun _ => rfl)
      (fun _ => rfl) (fun _ => rfl) (absurd rfl) (fun _ => rfl) fun _ => rfl
  | roster =>
    unfold State.writeCell at h
    dsimp only at h
    split at h
    · split at h
      · obtain ⟨y, -, hy⟩ := Option.map_eq_some_iff.mp h
        obtain ⟨rfl, -⟩ := Prod.mk.inj hy
        exact .tables .roster s _ _ _ _ _ _ _ _ _ _ _ (fun _ => rfl) (fun _ => rfl) (fun _ => rfl) (fun _ => rfl)
          (fun _ => rfl) (fun _ => rfl) (fun _ => rfl) (absurd rfl) fun _ => rfl
      · cases h
    · cases h
  | settings =>
    obtain ⟨y, -, hy⟩ := Option.map_eq_some_iff.mp h
    obtain ⟨rfl, -⟩ := Prod.mk.inj hy
    exact .tables .settings s _ _ _ _ _ _ _ _ _ _ _ (fun _ => rfl) (fun _ => rfl) (fun _ => rfl) (fun _ => rfl)
      (fun _ => rfl) (fun _ => rfl) (fun _ => rfl) (fun _ => rfl) (absurd rfl)
  | jobs => cases h

theorem takeValue_writes (w : Window) (k : WriteRun) (v : Nat) : Writes w.table k.state (takeValue w k v).state := by
  unfold takeValue
  split
  · exact .refl _ _
  · split
    · exact .refl _ _
    · rename_i hcell
      exact writeCell_writes hcell

theorem takeValues_writes (w : Window) (values : List Nat) (k : WriteRun) :
    Writes w.table k.state (values.foldl (takeValue w) k).state := by
  induction values generalizing k with
  | nil => exact .refl _ _
  | cons v values ih => exact (takeValue_writes w k v).trans (ih _)

/-! #### The end of a write -/

theorem Writes.groups (s : State) (group : Vector GroupRow 8) (want : Nat) :
    Writes .group s { s with group := group, passesWanted := want } :=
  .tables .group s _ _ _ _ _ _ _ _ _ _ _ (fun _ => rfl) (absurd rfl) (fun _ => rfl) (fun _ => rfl)
    (fun _ => rfl) (fun _ => rfl) (fun _ => rfl) (fun _ => rfl) fun _ => rfl

theorem foldl_writes {β : Type} {tb : Table} {f : State → β → State} (hf : ∀ s b, Writes tb s (f s b)) (l : List β)
    (s : State) : Writes tb s (l.foldl f s) := by
  induction l generalizing s with
  | nil => exact .refl _ _
  | cons b l ih => exact (hf s b).trans (ih _)

theorem foldPair_writes {β : Type} {tb : Table} {f : State × Nat → β → State × Nat}
    (hf : ∀ q b, Writes tb q.1 (f q b).1) (l : List β) (q : State × Nat) : Writes tb q.1 (l.foldl f q).1 := by
  induction l generalizing q with
  | nil => exact .refl _ _
  | cons b l ih => exact (hf q b).trans (ih _)

theorem adjustGroups_writes (before : State) (rows : List Nat) (s : State) :
    Writes .group s (adjustGroups before rows s) := by
  unfold adjustGroups
  refine Writes.trans (foldl_writes (fun u r => ?_) rows s) (.groups _ _ _)
  split
  · exact .groups u _ _
  · exact .refl _ _

theorem adjustRoster_writes (cells : List (Nat × Nat)) (rows : List Nat) (s : State) :
    Writes .roster s (adjustRoster cells rows s).1 := by
  unfold adjustRoster
  refine foldPair_writes (fun q r => ?_) rows (s, 0)
  dsimp only
  split
  · split
    · exact .tables .roster q.1 _ _ _ _ _ _ _ _ _ _ _ (fun _ => rfl) (fun _ => rfl) (fun _ => rfl) (fun _ => rfl)
        (fun _ => rfl) (fun _ => rfl) (fun _ => rfl) (absurd rfl) fun _ => rfl
    · exact .refl _ _
  · exact .refl _ _

theorem adjustAccounts_writes (rows : List Nat) (s : State) : Writes .account s (adjustAccounts rows s).1 := by
  unfold adjustAccounts
  refine foldPair_writes (fun q r => ?_) rows (s, 0)
  dsimp only
  split
  · split
    · exact .refl _ _
    · exact .tables .account q.1 _ _ _ _ _ _ _ _ _ _ _ (fun _ => rfl) (fun _ => rfl) (absurd rfl) (fun _ => rfl)
        (fun _ => rfl) (fun _ => rfl) (fun _ => rfl) (fun _ => rfl) fun _ => rfl
  · exact .refl _ _

theorem Writes.settingsOnly (s : State) (t : Settings) : Writes .settings s { s with settings := t } :=
  .tables .settings s _ _ _ _ _ _ _ _ _ _ _ (fun _ => rfl) (fun _ => rfl) (fun _ => rfl) (fun _ => rfl)
    (fun _ => rfl) (fun _ => rfl) (fun _ => rfl) (fun _ => rfl) (absurd rfl)

theorem Writes.withAlertFields (s : State) (t : Settings) : Writes .settings s (s.withAlertFields t) :=
  .settingsOnly s _

/-- What the scheduling operations and the end of an event leave to every table. -/
theorem Follows.writes {s t : State} (h : Follows s t) (ha : ∀ a, sameFigures (s.account a) (t.account a))
    (tb : Table) : Writes tb s t := by
  obtain ⟨hlive, hstraps, -, hreadout, htime, ⟨hroute, hgroup, hrate, hmedia, htier, hpattern, hroster, hsettings⟩,
    hdram, hctr, he0, he1, hlast, hout, -, hheld, hpending⟩ := h.outside
  exact ⟨fun _ => hroute, fun _ => hgroup, fun _ => ha, fun _ => hrate, fun _ => hmedia, fun _ => htier,
    fun _ => hpattern, fun _ => hroster, fun _ => hsettings, hlive, hstraps, hreadout, htime, hdram, hctr, he0, he1,
    hlast, hout, hheld, hpending⟩

theorem endAdjust_writes (before : State) (tb : Table) (cells : List (Nat × Nat)) (s : State) :
    Writes tb s (endAdjust before tb cells s).1 := by
  cases tb with
  | group => exact adjustGroups_writes before _ s
  | roster => exact adjustRoster_writes cells _ s
  | settings =>
    unfold endAdjust
    dsimp only
    have hfit : Writes .settings s (adjustSettings cells s).1 := .settingsOnly s _
    split
    · have hlow (u : State) : Writes .settings u u.evalSpoolLow :=
        (follows_evalSpoolLow u).writes (steady_evalSpoolLow u).figures .settings
      exact ((hfit.trans (.withAlertFields _ _)).trans (hlow _)).trans (.withAlertFields _ _)
    · exact hfit
  | account => exact adjustAccounts_writes _ s
  | route | rate | media | tier | pattern | jobs => exact .refl _ _

/-- The second adjustment of a write is a count of 0 in the tables that have none. -/
theorem endAdjust_count (before : State) {tb : Table} (cells : List (Nat × Nat)) (s : State) (h1 : tb ≠ .roster)
    (h2 : tb ≠ .settings) (h3 : tb ≠ .account) : (endAdjust before tb cells s).2 = 0 := by
  cases tb with
  | roster => exact absurd rfl h1
  | settings => exact absurd rfl h2
  | account => exact absurd rfl h3
  | group | route | rate | media | tier | pattern | jobs => rfl

/-! ### The request -/

theorem settleEvent_writes (before s : State) (tb : Table) : Writes tb s (settleEvent before s) :=
  (follows_settleEvent before s).writes (kept_settleEvent before s).figures tb

/-- The end of a request leaves what its own changes left, apart from its own table. -/
theorem manageEnd_writes {tb : Table} {s : State} (f : ShopFrame) (job : Nat) (o : Outcome3)
    (h : Writes tb s o.1) : Writes tb s (manageEnd s f job o) := by
  have hport (u : State) (port : PortSettings) (hu : tb ≠ .settings → port = u.settings.port) :
      Writes tb u (u.withPort port) :=
    .tables tb u _ _ _ _ _ _ _ _ _ _ _ (fun _ => rfl) (fun _ => rfl) (fun _ => rfl) (fun _ => rfl)
      (fun _ => rfl) (fun _ => rfl) (fun _ => rfl) (fun _ => rfl) fun n => by rw [hu n]
  have hin := hport o.1 s.settings.port fun n => by rw [h.settings n]
  have hout := hport (settleEvent s (o.1.withPort s.settings.port)) o.1.settings.port fun n => by
    rw [settleEvent_settings, State.withPort_port, h.settings n]
  have hreply (u : State) (port : PortSettings) (st : Status) (body : List Byte) :
      Writes tb u (u.reply port f job st body) := (follows_send u _).writes (fun _ => rfl) tb
  exact (((h.trans hin).trans (settleEvent_writes s _ tb)).trans hout).trans (hreply _ _ _ _)

/-- The state that a run over a write's values starts from. -/
def runStart (s : State) (start : WindowPos) : WriteRun :=
  { state := s, taken := 0, clamped := 0, skipped := 0, ignored := 0, pos := start, cells := [] }

/-- The run of a write over its values. -/
def writeRun (s : State) (w : Window) (start : WindowPos) (values : List Nat) : WriteRun :=
  values.foldl (takeValue w) (runStart s start)

theorem State.writeValues_eq (s : State) (w : Window) (start : WindowPos) (values : List Nat) :
    s.writeValues w start values =
      ({ (endAdjust s w.table (writeRun s w start values).cells (writeRun s w start values).state).1 with
          window := some { w with write := (writeRun s w start values).pos } },
        be 1 (writeRun s w start values).taken ++
          countByte ((writeRun s w start values).clamped +
            (endAdjust s w.table (writeRun s w start values).cells (writeRun s w start values).state).2) ++
          be 1 (writeRun s w start values).skipped ++ be 1 (writeRun s w start values).ignored ++
          posBytes (writeRun s w start values).pos) := rfl

/-- A write's own changes, apart from the window. -/
theorem writeValues_writes (s : State) (w : Window) (start : WindowPos) (values : List Nat) :
    Writes w.table s (s.writeValues w start values).1 := by
  have hvalues : Writes w.table s (writeRun s w start values).state := takeValues_writes w values (runStart s start)
  have hwindow (u : State) (win : Option Window) : Writes w.table u { u with window := win } :=
    .tables w.table u _ _ _ _ _ _ _ _ _ _ _ (fun _ => rfl) (fun _ => rfl) (fun _ => rfl) (fun _ => rfl)
      (fun _ => rfl) (fun _ => rfl) (fun _ => rfl) (fun _ => rfl) fun _ => rfl
  rw [State.writeValues_eq]
  exact (hvalues.trans (endAdjust_writes s w.table _ _)).trans (hwindow _ _)

/-- What any write answers and leaves, from the place where it starts. -/
theorem manage_tableWrite {s : State} {f : ShopFrame} {args : List Byte} {w : Window} {start : WindowPos}
    {fromStart : Bool} (h : Requested s f args) (hs : writeSized args = true) (hwin : s.window = some w)
    (hstart : (if fromStart then windowStart w else w.write) = start) :
    manage false writeSized noJob (tableWriteAct fromStart) f s =
      manageEnd s f 0 ((s.writeValues w start (writeArgs args)).1, .ok,
        (s.writeValues w start (writeArgs args)).2) := by
  rw [manage_requested h writeSized noJob (tableWriteAct fromStart) hs]
  unfold tableWriteAct
  rw [hwin, ← hstart]
  rfl

theorem Follows.window {s t : State} (h : Follows s t) : t.window = s.window := by
  obtain ⟨_, _, hwindow, _⟩ := h.outside
  exact hwindow

theorem manageEnd_window (s : State) (f : ShopFrame) (job : Nat) (o : Outcome3) :
    (manageEnd s f job o).window = o.1.window := by
  simp only [manageEnd, State.reply, State.send_window, State.withPort_window,
    (follows_settleEvent s (o.1.withPort s.settings.port)).window]

theorem manageEnd_lastReply (s : State) (f : ShopFrame) (job : Nat) (o : Outcome3) :
    lastReply (manageEnd s f job o)
      (replyOf s.settings.port f job o.2.1 (manageEnd s f job o).free.length o.2.2) :=
  List.getLast?_concat

/-- Settles O20: the run over the values, its end and the end of the event. -/
theorem tableWriteCountsEveryValue : Obligations.TableWriteCountsEveryValue := by
  intro s f args w hreq hs hwin c start hc
  let k := writeRun s w start (writeArgs args)
  let adjusted := (endAdjust s w.table k.cells k.state).2
  let t := manageEnd s f 0 ((s.writeValues w start (writeArgs args)).1, .ok,
    (s.writeValues w start (writeArgs args)).2)
  have hexec : exec c s = .next t := by
    obtain ⟨rfl, hstart⟩ | ⟨rfl, hstart⟩ := hc
    · exact congrArg _ (manage_tableWrite hreq hs hwin (fromStart := true) hstart.symm)
    · exact congrArg _ (manage_tableWrite hreq hs hwin (fromStart := false) hstart.symm)
  have hrun : RunStep w (field args 0 1) (runStart s start) k := by
    rw [← writeArgs_length]
    exact takeValues_step w (writeArgs args) (runStart s start)
  have hpos : k.pos = posAfter w (field args 0 1) start := hrun.pos
  have hwrites : Writes w.table s t := manageEnd_writes f 0 _ (writeValues_writes s w start (writeArgs args))
  refine ⟨t, k.taken, k.clamped + adjusted, k.skipped, k.ignored, hexec, ?_, ?_, fun hmore => ?_,
    fun h1 h2 h3 => ?_, ?_, hwrites.route, hwrites.group, hwrites.accounts, hwrites.rate, hwrites.media, hwrites.tier,
    hwrites.pattern, hwrites.roster, hwrites.settings, hwrites.outside⟩
  · rw [← hpos]
    exact manageEnd_window s f 0 _
  · rw [hrun.counts]
    exact Nat.zero_add _
  · exact hrun.ignored (hpos ▸ hmore)
  · have hnone : adjusted = 0 := endAdjust_count s k.cells k.state h1 h2 h3
    rw [hnone]
    exact hrun.clamped (Nat.le_refl 0)
  · rw [← hpos]
    exact manageEnd_lastReply s f 0 _

end Sys2Proof.Machine
end

-- O21: a write of one value, and the adjustments at the end of a write (R190, R191, R198).
section
namespace Sys2Proof.Machine

/-! ### The fitting of a value (R198) -/

theorem clamp_eq {lo hi : Nat} (v : Nat) (h : lo ≤ hi) : clamp lo hi v = max lo (min hi v) := by
  unfold clamp
  split
  · omega
  · split <;> omega

theorem clamp_ne_iff {lo hi : Nat} (v : Nat) : clamp lo hi v ≠ v ↔ v < lo ∨ hi < v := by
  unfold clamp
  split
  · omega
  · split <;> omega

theorem fit_eq {α : Type} (lo hi v : Nat) (put : Nat → α) :
    fit lo hi v put = some (put (clamp lo hi v), decide (v < lo ∨ hi < v)) := by
  unfold fit
  rw [decide_eq_decide.mpr (clamp_ne_iff v)]

/-! ### The written cell -/

/-- A write to one cell of a row shows the number `n` there, flags `b`, and leaves the row's other cells. -/
def RowCell {α : Type} (put : α → Nat → Nat → Fitted α) (cell : α → Nat → Nat) (cells : Nat) (x : α) (c v n : Nat)
    (b : Bool) : Prop :=
  ∃ y, put x c v = some (y, b) ∧ ∀ k, k < cells → cell y k = if k = c then n else cell x k

/-- A write to one cell shows the number `n` there, flags `b`, and leaves all other cells of all tables. -/
def CellBecomes (s : State) (tb : Table) (r c v n : Nat) (b : Bool) : Prop :=
  ∃ u, s.writeCell tb r c v = some (u, b) ∧ ∀ t i k, i < tableRows t → k < tableCells t →
    u.readCell t i k = if t = tb ∧ i = r ∧ k = c then n else s.readCell t i k

theorem CellBecomes.of {s u : State} {tb : Table} {r c v n : Nat} {b : Bool}
    (hwrite : s.writeCell tb r c v = some (u, b))
    (hother : ∀ t, t ≠ tb → ∀ i k, u.readCell t i k = s.readCell t i k)
    (hself : ∀ i k, i < tableRows tb → k < tableCells tb →
      u.readCell tb i k = if i = r ∧ k = c then n else s.readCell tb i k) : CellBecomes s tb r c v n b := by
  refine ⟨u, hwrite, fun t i k hi hk => ?_⟩
  by_cases ht : t = tb
  · subst ht
    rw [hself i k hi hk]
    simp
  · rw [hother t ht, if_neg fun h => ht h.1]

/-- A cell that is read from a row of a vector, after a change of one row. -/
theorem elim_setIfInBounds {α : Type} {m : Nat} {x : Vector α m} {r i k c n : Nat} {y : α} {cell : α → Nat → Nat}
    (hr : r < m) (hi : i < m) (h : cell y k = if k = c then n else cell x[r] k) :
    ((x.setIfInBounds r y)[i]?).elim 0 (fun z => cell z k) =
      if i = r ∧ k = c then n else (x[i]?).elim 0 fun z => cell z k := by
  by_cases hir : i = r
  · subst hir
    simp [hi, h]
  · have hri : ¬ r = i := fun he => hir he.symm
    simp [hir, hri]

/-! #### The tables whose rows are records -/

theorem RowCell.route {s : State} {r c v n : Nat} {b : Bool} (hr : r < 32)
    (h : RowCell putRoute routeCell 8 s.route[r] c v n b) : CellBecomes s .route r c v n b := by
  obtain ⟨y, hput, hcells⟩ := h
  refine .of (u := { s with route := s.route.setIfInBounds r y }) ?_ (fun t ht i k => ?_) fun i k hi hk => ?_
  · simp [State.writeCell, hr, hput]
  · cases t with
    | route => exact absurd rfl ht
    | group | account | rate | media | tier | pattern | roster | settings | jobs => rfl
  · exact elim_setIfInBounds hr hi (hcells k hk)

theorem RowCell.group {s : State} {r c v n : Nat} {b : Bool} (hr : r < 8)
    (h : RowCell putGroup groupCell 17 s.group[r] c v n b) : CellBecomes s .group r c v n b := by
  obtain ⟨y, hput, hcells⟩ := h
  refine .of (u := { s with group := s.group.setIfInBounds r y }) ?_ (fun t ht i k => ?_) fun i k hi hk => ?_
  · simp [State.writeCell, hr, hput]
  · cases t with
    | group => exact absurd rfl ht
    | route | account | rate | media | tier | pattern | roster | settings | jobs => rfl
  · exact elim_setIfInBounds hr hi (hcells k hk)

theorem RowCell.account {s : State} {r c v n : Nat} {b : Bool} (hr : r < 256)
    (h : RowCell putAccount accountCell 9 s.accounts[r] c v n b) : CellBecomes s .account r c v n b := by
  obtain ⟨y, hput, hcells⟩ := h
  refine .of (u := { s with accounts := s.accounts.setIfInBounds r y }) ?_ (fun t ht i k => ?_) fun i k hi hk => ?_
  · simp [State.writeCell, hr, hput]
  · cases t with
    | account => exact absurd rfl ht
    | route | group | rate | media | tier | pattern | roster | settings | jobs => rfl
  · exact elim_setIfInBounds hr hi (hcells k hk)

/-- The cell of a TIER row. -/
def tierCell (x : TierRow) (c : Nat) : Nat := if c = 0 then x.threshold else x.discount

theorem RowCell.tier {s : State} {r c v n : Nat} {b : Bool} (hr : r < 4)
    (h : RowCell putTier tierCell 2 s.tier[r] c v n b) : CellBecomes s .tier r c v n b := by
  obtain ⟨y, hput, hcells⟩ := h
  refine .of (u := { s with tier := s.tier.setIfInBounds r y }) ?_ (fun t ht i k => ?_) fun i k hi hk => ?_
  · simp [State.writeCell, hr, hput]
  · cases t with
    | tier => exact absurd rfl ht
    | route | group | account | rate | media | pattern | roster | settings | jobs => rfl
  · exact elim_setIfInBounds hr hi (hcells k hk)

theorem RowCell.pattern {s : State} {r c v n : Nat} {b : Bool} (hr : r < 24)
    (h : RowCell putPattern patternCell 14 s.pattern[r] c v n b) : CellBecomes s .pattern r c v n b := by
  obtain ⟨y, hput, hcells⟩ := h
  refine .of (u := { s with pattern := s.pattern.setIfInBounds r y }) ?_ (fun t ht i k => ?_) fun i k hi hk => ?_
  · simp [State.writeCell, hr, hput]
  · cases t with
    | pattern => exact absurd rfl ht
    | route | group | account | rate | media | tier | roster | settings | jobs => rfl
  · exact elim_setIfInBounds hr hi (hcells k hk)

theorem rosterOpen_iff (l : Line) : rosterOpen l = true ↔ l.state = .down ∨ l.state = .retired := by
  simp [rosterOpen]

theorem State.writeCell_roster {s : State} {p : LineNo} (c v : Nat)
    (h : (s.line p).state = .down ∨ (s.line p).state = .retired) :
    s.writeCell .roster p c v = (putRoster (s.rosterOf p) c v).map fun y =>
      ({ s with roster := s.roster.set p y.1 }, y.2) := by
  unfold State.writeCell
  dsimp only
  rw [dif_pos p.isLt, if_pos ((rosterOpen_iff _).mpr h)]

theorem RowCell.roster {s : State} {p : LineNo} {c v n : Nat} {b : Bool}
    (hopen : (s.line p).state = .down ∨ (s.line p).state = .retired)
    (h : RowCell putRoster (fun r k => rosterCell r (s.line p) k) 15 (s.rosterOf p) c v n b) :
    CellBecomes s .roster p c v n b := by
  obtain ⟨y, hput, hcells⟩ := h
  refine .of (u := { s with roster := s.roster.set p y }) ?_ (fun t ht i k => ?_) fun i k hi hk => ?_
  · rw [s.writeCell_roster c v hopen, hput]
    rfl
  · cases t with
    | roster => exact absurd rfl ht
    | route | group | account | rate | media | tier | pattern | settings | jobs => rfl
  · have hi16 : i < 16 := hi
    simp only [State.readCell, hi16, dif_pos]
    have hline : ({ s with roster := s.roster.set p y } : State).line ⟨i, hi16⟩ = s.line ⟨i, hi16⟩ := rfl
    rw [hline]
    by_cases hip : i = p.val
    · subst hip
      have hrow : ({ s with roster := s.roster.set p y } : State).rosterOf ⟨p.val, hi16⟩ = y := by
        simp [State.rosterOf]
      rw [hrow]
      simpa using hcells k hk
    · have hpi : ¬ p.val = i := fun he => hip he.symm
      have hrow : ({ s with roster := s.roster.set p y } : State).rosterOf ⟨i, hi16⟩ = s.rosterOf ⟨i, hi16⟩ := by
        simp [State.rosterOf, hpi]
      rw [hrow, if_neg fun h => hip h.1]

theorem RowCell.settings {s : State} {c v n : Nat} {b : Bool}
    (h : RowCell putSettings settingsCell 19 s.settings c v n b) : CellBecomes s .settings 0 c v n b := by
  obtain ⟨y, hput, hcells⟩ := h
  refine .of (u := { s with settings := y }) ?_ (fun t ht i k => ?_) fun i k hi hk => ?_
  · simp [State.writeCell, hput]
  · cases t with
    | settings => exact absurd rfl ht
    | route | group | account | rate | media | tier | pattern | roster | jobs => rfl
  · have hi0 : i = 0 := Nat.lt_one_iff.mp hi
    simpa [State.readCell, hi0] using hcells k hk

/-! #### The tables of numbers -/

theorem State.writeCell_media (s : State) (r c v : Nat) : s.writeCell .media r c v =
    some ({ s with media := s.media.setIfInBounds r (clamp 1 255 v) }, decide (v < 1 ∨ 255 < v)) := by
  unfold State.writeCell
  exact fit_eq ..

theorem media_becomes {s : State} {r : Nat} (v : Nat) (hr : r < 16) :
    CellBecomes s .media r 0 v (clamp 1 255 v) (decide (v < 1 ∨ 255 < v)) := by
  refine .of (s.writeCell_media r 0 v) (fun t ht i k => ?_) fun i k hi hk => ?_
  · cases t with
    | media => exact absurd rfl ht
    | route | group | account | rate | tier | pattern | roster | settings | jobs => rfl
  · have hk0 : k = 0 := Nat.lt_one_iff.mp hk
    have hi16 : i < 16 := hi
    by_cases hir : i = r
    · simp [State.readCell, hir, hr, hk0]
    · have hri : ¬ r = i := fun he => hir he.symm
      simp [State.readCell, hir, hri]

theorem State.writeCell_rate (s : State) {r : Nat} (c v : Nat) (hr : r < 4) : s.writeCell .rate r c v =
    some ({ s with rate := s.rate.setIfInBounds r (s.rate[r].setIfInBounds c (clamp 0 65535 v)) },
      decide (65535 < v)) := by
  simp [State.writeCell, hr, fit_eq]

theorem rate_becomes {s : State} {r c : Nat} (v : Nat) (hr : r < 4) (hc : c < 4) :
    CellBecomes s .rate r c v (clamp 0 65535 v) (decide (65535 < v)) := by
  refine .of (s.writeCell_rate c v hr) (fun t ht i k => ?_) fun i k hi hk => ?_
  · cases t with
    | rate => exact absurd rfl ht
    | route | group | account | media | tier | pattern | roster | settings | jobs => rfl
  · refine elim_setIfInBounds (cell := fun x k => (x[k]?).getD 0) hr hi ?_
    by_cases hkc : k = c
    · simp [hkc, hc]
    · have hck : ¬ c = k := fun he => hkc he.symm
      simp [hkc, hck]

/-! #### The cells of a row -/

/-- A number cell: fitted to `lo..hi`. -/
theorem RowCell.fit {α : Type} {put : α → Nat → Nat → Fitted α} {cell : α → Nat → Nat} {cells : Nat} {x : α}
    {c lo hi v : Nat} {g : Nat → α} (hput : put x c v = Machine.fit lo hi v g) (hle : lo ≤ hi)
    (hcell : ∀ n, lo ≤ n → n ≤ hi → ∀ k, k < cells → cell (g n) k = if k = c then n else cell x k) :
    RowCell put cell cells x c v (max lo (min hi v)) (decide (v < lo ∨ hi < v)) := by
  refine ⟨g (clamp lo hi v), by rw [hput, fit_eq], ?_⟩
  obtain ⟨hlo, hhi⟩ := clamp_range v hle
  rw [← clamp_eq v hle]
  exact hcell _ hlo hhi

/-- A flag cell. -/
theorem RowCell.flag {α : Type} {put : α → Nat → Nat → Fitted α} {cell : α → Nat → Nat} {cells : Nat} {x : α}
    {c v : Nat} {g : Bool → α} (hput : put x c v = fitFlag v g)
    (hcell : ∀ b k, k < cells → cell (g b) k = if k = c then flagCell b else cell x k) :
    RowCell put cell cells x c v (max 0 (min 1 v)) (decide (v < 0 ∨ 1 < v)) := by
  have hflag : flagCell (decide (v ≠ 0)) = max 0 (min 1 v) := by
    by_cases hv : v = 0
    · simp [flagCell, hv]
    · simp only [flagCell, hv, ne_eq, not_false_eq_true, decide_true, if_true]
      omega
  have hdecide : decide (1 < v) = decide (v < 0 ∨ 1 < v) := by simp
  refine ⟨g (decide (v ≠ 0)), by rw [hput, fitFlag, hdecide], ?_⟩
  rw [← hflag]
  exact hcell _

/-- A cell that holds a number or the code 255. -/
theorem RowCell.code {α : Type} {put : α → Nat → Nat → Fitted α} {cell : α → Nat → Nat} {cells : Nat} {x : α}
    {c hi v : Nat} {g : Option Nat → α} (hput : put x c v = fitOpt hi v g)
    (hcell : ∀ o k, k < cells → cell (g o) k = if k = c then optCell o else cell x k) :
    RowCell put cell cells x c v (if v = 255 then 255 else min hi v) (decide (hi < v ∧ v ≠ 255)) := by
  by_cases hv : v = 255
  · subst hv
    exact ⟨g none, by simp [hput, fitOpt], hcell none⟩
  · have hclamp : clamp 0 hi v = min hi v := by rw [clamp_eq v (Nat.zero_le hi), Nat.zero_max]
    refine ⟨g (some (min hi v)), by simp [hput, fitOpt, hv, hclamp], ?_⟩
    rw [if_neg hv]
    exact hcell (some (min hi v))

theorem policyCode_of {n : Nat} (h : n ≤ 1) : policyCode (if n = 0 then .spread else .earliest) = n :=
  (by decide : ∀ i : Fin 2, policyCode (if i.val = 0 then .spread else .earliest) = i) ⟨n, Nat.lt_succ_of_le h⟩

theorem routeRow_cells (x : RouteRow) (v : Nat) :
    (∀ q ∈ [(0, 0, 1), (3, 0, 3), (4, 0, 7), (5, 0, 1), (6, 0, 7), (7, 0, 1)],
      RowCell putRoute routeCell 8 x q.1 v (max q.2.1 (min q.2.2 v)) (decide (v < q.2.1 ∨ q.2.2 < v))) ∧
    ∀ q ∈ [(1, 15), (2, 7)],
      RowCell putRoute routeCell 8 x q.1 v (if v = 255 then 255 else min q.2 v) (decide (q.2 < v ∧ v ≠ 255)) := by
  simp only [List.forall_mem_cons]
  refine ⟨⟨.flag (g := fun b => { x with valid := b }) rfl fun b k hk => ?_,
    .fit (g := fun n => { x with minPriority := n }) rfl (by decide) fun n hlo hhi k hk => ?_,
    .fit (g := fun n => { x with group := Fin.ofNat 8 n }) rfl (by decide) fun n hlo hhi k hk => ?_,
    .fit (g := fun n => { x with policy := if n = 0 then .spread else .earliest }) rfl (by decide)
      fun n hlo hhi k hk => ?_,
    .fit (g := fun n => { x with spreadShift := n }) rfl (by decide) fun n hlo hhi k hk => ?_,
    .flag (g := fun b => { x with moveAllowed := b }) rfl fun b k hk => ?_, List.forall_mem_nil _⟩,
    .code (g := fun o => { x with cls := o }) rfl fun o k hk => ?_,
    .code (g := fun o => { x with kind := o }) rfl fun o k hk => ?_, List.forall_mem_nil _⟩
  case refine_3 =>
    have hn : n % 8 = n := Nat.mod_eq_of_lt (Nat.lt_succ_of_le hhi)
    iterate 8 (cases k with | zero => simp [routeCell, hn] | succ k => ?_)
    omega
  case refine_4 =>
    have hn := policyCode_of hhi
    iterate 8 (cases k with | zero => simp [routeCell, hn] | succ k => ?_)
    omega
  all_goals
    iterate 8 (cases k with | zero => rfl | succ k => ?_)
    omega

theorem groupRow_cells (x : GroupRow) (v : Nat) :
    RowCell putGroup groupCell 17 x 0 v (max 0 (min 16 v)) (decide (v < 0 ∨ 16 < v)) ∧
    ∀ c ∈ List.range 16,
      RowCell putGroup groupCell 17 x (c + 1) v (max 0 (min 15 v)) (decide (v < 0 ∨ 15 < v)) := by
  refine ⟨.fit (g := fun n => { x with count := n }) rfl (by decide) fun n hlo hhi k hk => ?_, fun c hc => ?_⟩
  · by_cases hk0 : k = 0 <;> simp [groupCell, hk0]
  · have hc16 := List.mem_range.mp hc
    refine .fit (g := fun n => { x with members := x.members.setIfInBounds c (Fin.ofNat 16 n) }) ?_ (by decide)
      fun n hlo hhi k hk => ?_
    · simp [putGroup]
    · have hn : n % 16 = n := Nat.mod_eq_of_lt (Nat.lt_succ_of_le hhi)
      cases k with
      | zero => simp [groupCell]
      | succ k =>
        by_cases hck : c = k
        · subst hck
          simp [groupCell, hc16, hn]
        · have hkc : ¬ k = c := fun he => hck he.symm
          simp [groupCell, hck, hkc]

theorem accountRow_cells (x : Account) (v : Nat) :
    ∀ q ∈ [(0, 0, 15), (1, 0, 1), (2, 0, 2 ^ 48 - 1), (3, 0, 1)],
      RowCell putAccount accountCell 9 x q.1 v (max q.2.1 (min q.2.2 v)) (decide (v < q.2.1 ∨ q.2.2 < v)) := by
  simp only [List.forall_mem_cons]
  refine ⟨.fit (g := fun n => { x with cls := n }) rfl (by decide) fun n hlo hhi k hk => ?_,
    .flag (g := fun b => { x with limited := b }) rfl fun b k hk => ?_,
    .fit (g := fun n => { x with limit := n }) rfl (by decide) fun n hlo hhi k hk => ?_,
    .flag (g := fun b => { x with tier := b }) rfl fun b k hk => ?_, List.forall_mem_nil _⟩
  all_goals
    iterate 9 (cases k with | zero => rfl | succ k => ?_)
    omega

theorem tierRow_cells (x : TierRow) (v : Nat) :
    ∀ q ∈ [(0, 0, 2 ^ 32 - 1), (1, 0, 50)],
      RowCell putTier tierCell 2 x q.1 v (max q.2.1 (min q.2.2 v)) (decide (v < q.2.1 ∨ q.2.2 < v)) := by
  simp only [List.forall_mem_cons]
  refine ⟨.fit (g := fun n => { x with threshold := n }) rfl (by decide) fun n hlo hhi k hk => ?_,
    .fit (g := fun n => { x with discount := n }) rfl (by decide) fun n hlo hhi k hk => ?_, List.forall_mem_nil _⟩
  all_goals
    iterate 2 (cases k with | zero => rfl | succ k => ?_)
    omega

theorem conditionCode_of {n : Nat} (h : n ≤ 3) : conditionCode (conditionOf n) = n :=
  (by decide : ∀ i : Fin 4, conditionCode (conditionOf i) = i) ⟨n, Nat.lt_succ_of_le h⟩

theorem senseCode_of {n : Nat} (h : n ≤ 1) : senseCode (if n = 0 then .raise else .clear) = n :=
  (by decide : ∀ i : Fin 2, senseCode (if i.val = 0 then .raise else .clear) = i) ⟨n, Nat.lt_succ_of_le h⟩

theorem patternRow_cells (x : PatternRow) (v : Nat) :
    (∀ q ∈ [(0, 0, 1), (1, 0, 65535), (2, 1, 8), (11, 0, 3), (12, 0, 1)],
      RowCell putPattern patternCell 14 x q.1 v (max q.2.1 (min q.2.2 v)) (decide (v < q.2.1 ∨ q.2.2 < v))) ∧
    (∀ c ∈ List.range 8,
      RowCell putPattern patternCell 14 x (c + 3) v (max 0 (min 255 v)) (decide (v < 0 ∨ 255 < v))) ∧
    RowCell putPattern patternCell 14 x 13 v (if v = 255 then 255 else min 31 v) (decide (31 < v ∧ v ≠ 255)) := by
  simp only [List.forall_mem_cons]
  refine ⟨⟨.flag (g := fun b => { x with valid := b }) rfl fun b k hk => ?_,
    .fit (g := fun n => { x with scope := BitVec.ofNat 16 n }) rfl (by decide) fun n hlo hhi k hk => ?_,
    .fit (g := fun n => { x with length := n }) rfl (by decide) fun n hlo hhi k hk => ?_,
    .fit (g := fun n => { x with kind := conditionOf n }) rfl (by decide) fun n hlo hhi k hk => ?_,
    .fit (g := fun n => { x with sense := if n = 0 then .raise else .clear }) rfl (by decide)
      fun n hlo hhi k hk => ?_, List.forall_mem_nil _⟩,
    fun c hc => .fit (g := fun n => { x with bytes := x.bytes.setIfInBounds c (BitVec.ofNat 8 n) }) ?_ (by decide)
      fun n hlo hhi k hk => ?_,
    .code (g := fun o => { x with tagPos := o }) rfl fun o k hk => ?_⟩
  case refine_2 =>
    have hn : n % 65536 = n := Nat.mod_eq_of_lt (Nat.lt_succ_of_le hhi)
    iterate 14 (cases k with | zero => simp [patternCell, hn] | succ k => ?_)
    omega
  case refine_4 =>
    iterate 14 (cases k with | zero => simp [patternCell, conditionCode_of hhi] | succ k => ?_)
    omega
  case refine_5 =>
    iterate 14 (cases k with | zero => simp [patternCell, senseCode_of hhi] | succ k => ?_)
    omega
  case refine_6 =>
    have hc8 := List.mem_range.mp hc
    have h2 : ¬ c + 3 = 1 := by omega
    have h3 : ¬ c + 3 = 2 := by omega
    have h4 : c + 3 ≤ 10 := by omega
    simp [putPattern, h2, h3, h4]
  case refine_7 =>
    have hc8 := List.mem_range.mp hc
    have hn : n % 256 = n := Nat.mod_eq_of_lt (Nat.lt_succ_of_le hhi)
    by_cases hkc : k = c + 3
    · subst hkc
      have h1 : ¬ c + 3 = 1 := by omega
      have h2 : ¬ c + 3 = 2 := by omega
      have h3 : c + 3 ≤ 10 := by omega
      simp [patternCell, h1, h2, h3, hc8, hn]
    · rw [if_neg hkc]
      by_cases hbyte : 3 ≤ k
      · have hck : ¬ c = k - 3 := by omega
        simp [patternCell, hck]
      · have hsmall : k ≤ 2 := by omega
        iterate 3 (cases k with | zero => rfl | succ k => ?_)
        omega
  all_goals
    iterate 14 (cases k with | zero => rfl | succ k => ?_)
    omega

theorem rosterRow_cells (x : Roster) (l : Line) (v : Nat) :
    ∀ q ∈ [(0, 0, 3), (1, 0, 65535), (2, 1, 16), (3, 100, 60000), (4, 0, 600000), (5, 0, 3600000),
        (6, 1000, 900000), (7, 0, 86400000), (8, 0, 768)],
      RowCell putRoster (fun r k => rosterCell r l k) 15 x q.1 v (max q.2.1 (min q.2.2 v))
        (decide (v < q.2.1 ∨ q.2.2 < v)) := by
  simp only [List.forall_mem_cons]
  refine ⟨.fit (g := fun n => { x with rateSet := Fin.ofNat 4 n }) rfl (by decide) fun n hlo hhi k hk => ?_,
    .fit (g := fun n => { x with mediaMask := BitVec.ofNat 16 n }) rfl (by decide) fun n hlo hhi k hk => ?_,
    .fit (g := fun n => { x with maxInFlight := n }) rfl (by decide) fun n hlo hhi k hk => ?_,
    .fit (g := fun n => { x with nominalPace := n }) rfl (by decide) fun n hlo hhi k hk => ?_,
    .fit (g := fun n => { x with settle := n }) rfl (by decide) fun n hlo hhi k hk => ?_,
    .fit (g := fun n => { x with minAwake := n }) rfl (by decide) fun n hlo hhi k hk => ?_,
    .fit (g := fun n => { x with wakeLimit := n }) rfl (by decide) fun n hlo hhi k hk => ?_,
    .fit (g := fun n => { x with idleToStandby := n }) rfl (by decide) fun n hlo hhi k hk => ?_,
    .fit (g := fun n => { x with threshold := n }) rfl (by decide) fun n hlo hhi k hk => ?_, List.forall_mem_nil _⟩
  case refine_1 =>
    have hn : n % 4 = n := Nat.mod_eq_of_lt (Nat.lt_succ_of_le hhi)
    iterate 15 (cases k with | zero => simp [rosterCell, hn] | succ k => ?_)
    omega
  case refine_2 =>
    have hn : n % 65536 = n := Nat.mod_eq_of_lt (Nat.lt_succ_of_le hhi)
    iterate 15 (cases k with | zero => simp [rosterCell, hn] | succ k => ?_)
    omega
  all_goals
    iterate 15 (cases k with | zero => rfl | succ k => ?_)
    omega

theorem ofNat48_toNat {n : Nat} (h : n ≤ max48) : (BitVec.ofNat 48 n).toNat = n := by
  have hmax : max48 = 2 ^ 48 - 1 := rfl
  rw [BitVec.toNat_ofNat, Nat.mod_eq_of_lt (by omega)]

theorem settingsRow_ports (x : Settings) (v : Nat) :
    ∀ q ∈ [(1, 0x0600, 0xFFFF), (2, 0, 2 ^ 48 - 1), (3, 0, 2 ^ 48 - 1), (4, 0, 2 ^ 48 - 1), (5, 0, 2 ^ 48 - 1),
        (6, 0, 2 ^ 48 - 1)],
      RowCell putSettings settingsCell 19 x q.1 v (max q.2.1 (min q.2.2 v)) (decide (v < q.2.1 ∨ q.2.2 < v)) := by
  simp only [List.forall_mem_cons]
  refine ⟨.fit (g := fun n => { x with port := { x.port with frameType := BitVec.ofNat 16 n } }) rfl (by decide)
      fun n hlo hhi k hk => ?_,
    .fit (g := fun n => { x with port := { x.port with console := BitVec.ofNat 48 n } }) rfl (by decide)
      fun n hlo hhi k hk => ?_,
    .fit (g := fun n => { x with port :=
        { x.port with stations := x.port.stations.setIfInBounds 0 (BitVec.ofNat 48 n) } }) rfl (by decide)
      fun n hlo hhi k hk => ?_,
    .fit (g := fun n => { x with port :=
        { x.port with stations := x.port.stations.setIfInBounds 1 (BitVec.ofNat 48 n) } }) rfl (by decide)
      fun n hlo hhi k hk => ?_,
    .fit (g := fun n => { x with port :=
        { x.port with stations := x.port.stations.setIfInBounds 2 (BitVec.ofNat 48 n) } }) rfl (by decide)
      fun n hlo hhi k hk => ?_,
    .fit (g := fun n => { x with port :=
        { x.port with stations := x.port.stations.setIfInBounds 3 (BitVec.ofNat 48 n) } }) rfl (by decide)
      fun n hlo hhi k hk => ?_, List.forall_mem_nil _⟩
  case refine_1 =>
    have hn : n % 65536 = n := Nat.mod_eq_of_lt (Nat.lt_succ_of_le hhi)
    iterate 19 (cases k with | zero => simp [settingsCell, hn] | succ k => ?_)
    omega
  all_goals
    have hn : n % 281474976710656 = n := Nat.mod_eq_of_lt (Nat.lt_succ_of_le hhi)
    iterate 19 (cases k with | zero => simp [settingsCell, hn] | succ k => ?_)
    omega

theorem settingsRow_limits (x : Settings) (v : Nat) :
    ∀ q ∈ [(7, 500, 60000), (8, 1, 16), (9, 1000, 600000), (10, 1000, 3600000), (11, 0, 3600000), (12, 0, 15),
        (13, 5000, 3600000), (14, 0, 255), (15, 0, 4096), (16, 0, 32768), (17, 0, 32768), (18, 0, 65535)],
      RowCell putSettings settingsCell 19 x q.1 v (max q.2.1 (min q.2.2 v)) (decide (v < q.2.1 ∨ q.2.2 < v)) := by
  simp only [List.forall_mem_cons]
  refine ⟨.fit (g := fun n => { x with flushLimit := n }) rfl (by decide) fun n hlo hhi k hk => ?_,
    .fit (g := fun n => { x with stallFactor := n }) rfl (by decide) fun n hlo hhi k hk => ?_,
    .fit (g := fun n => { x with stallMin := n }) rfl (by decide) fun n hlo hhi k hk => ?_,
    .fit (g := fun n => { x with stallMax := n }) rfl (by decide) fun n hlo hhi k hk => ?_,
    .fit (g := fun n => { x with moveDelay := n }) rfl (by decide) fun n hlo hhi k hk => ?_,
    .fit (g := fun n => { x with retryLimit := n }) rfl (by decide) fun n hlo hhi k hk => ?_,
    .fit (g := fun n => { x with reminderInterval := n }) rfl (by decide) fun n hlo hhi k hk => ?_,
    .fit (g := fun n => { x with reminderLimit := n }) rfl (by decide) fun n hlo hhi k hk => ?_,
    .fit (g := fun n => { x with ingestFloor := n }) rfl (by decide) fun n hlo hhi k hk => ?_,
    .fit (g := fun n => { x with lowWater := n }) rfl (by decide) fun n hlo hhi k hk => ?_,
    .fit (g := fun n => { x with highWater := n }) rfl (by decide) fun n hlo hhi k hk => ?_,
    .fit (g := fun n => { x with minCharge := n }) rfl (by decide) fun n hlo hhi k hk => ?_, List.forall_mem_nil _⟩
  all_goals
    iterate 19 (cases k with | zero => rfl | succ k => ?_)
    omega

/-! #### The station address (R198) -/

theorem putPort_station (q : PortSettings) (v : Nat) : putPort q 0 v =
    if (BitVec.ofNat 48 (min (2 ^ 48 - 1) v)).getLsbD 40 = true then none
    else fit 0 max48 v fun n => { q with station := BitVec.ofNat 48 n } := by
  have hclamp : clamp 0 max48 v = min (2 ^ 48 - 1) v := by
    rw [clamp_eq v (Nat.zero_le _), Nat.zero_max]
    rfl
  simp only [putPort, hclamp, groupBit, fitStation]

theorem settingsRow_station_group {s : State} {v : Nat}
    (h : (BitVec.ofNat 48 (min (2 ^ 48 - 1) v)).getLsbD 40 = true) : s.writeCell .settings 0 0 v = none := by
  have hput : putSettings s.settings 0 v = none := by
    show (putPort s.settings.port 0 v).map _ = none
    rw [putPort_station, if_pos h]
    rfl
  simp [State.writeCell, hput]

theorem settingsRow_station {x : Settings} {v : Nat}
    (h : (BitVec.ofNat 48 (min (2 ^ 48 - 1) v)).getLsbD 40 = false) :
    RowCell putSettings settingsCell 19 x 0 v (max 0 (min (2 ^ 48 - 1) v)) (decide (v < 0 ∨ 2 ^ 48 - 1 < v)) := by
  refine .fit (g := fun n => { x with port := { x.port with station := BitVec.ofNat 48 n } }) ?_ (by decide)
    fun n hlo hhi k hk => ?_
  · show (putPort x.port 0 v).map _ = _
    rw [putPort_station, if_neg (by rw [h]; decide)]
    rfl
  · have hn : n % 281474976710656 = n := Nat.mod_eq_of_lt (Nat.lt_succ_of_le hhi)
    iterate 19 (cases k with | zero => simp [settingsCell, hn] | succ k => ?_)
    omega

/-! #### The numbers of R198 -/

/-- What R198 says of a cell `(table, cell, lo, hi)` that holds a number. -/
def NumberCell (q : Table × Nat × Nat × Nat) : Prop :=
  ∀ (s : State) (r v : Nat), r < tableRows q.1 →
    (q.1 = .roster → ∀ p : LineNo, p.val = r → (s.line p).state = .down ∨ (s.line p).state = .retired) →
    CellBecomes s q.1 r q.2.1 v (max q.2.2.1 (min q.2.2.2 v)) (decide (v < q.2.2.1 ∨ q.2.2.2 < v))

/-- What R198 says of a cell `(table, cell, hi)` that holds a number or the code 255. -/
def CodeCell (q : Table × Nat × Nat) : Prop :=
  ∀ (s : State) (r v : Nat), r < tableRows q.1 →
    CellBecomes s q.1 r q.2.1 v (if v = 255 then 255 else min q.2.2 v) (decide (q.2.2 < v ∧ v ≠ 255))

theorem numberCell_rate {c : Nat} (hc : c < 4) : NumberCell (.rate, c, 0, 65535) := by
  intro s r v hr _
  have hflag : decide (v < 0 ∨ 65535 < v) = decide (65535 < v) := by simp
  show CellBecomes s .rate r c v (max 0 (min 65535 v)) (decide (v < 0 ∨ 65535 < v))
  rw [← clamp_eq v (Nat.zero_le _), hflag]
  exact rate_becomes v hr hc

theorem numberCell_media : NumberCell (.media, 0, 1, 255) := by
  intro s r v hr _
  show CellBecomes s .media r 0 v (max 1 (min 255 v)) (decide (v < 1 ∨ 255 < v))
  rw [← clamp_eq v (by decide)]
  exact media_becomes v hr

theorem numberCell_route : ∀ q ∈ [(0, 0, 1), (3, 0, 3), (4, 0, 7), (5, 0, 1), (6, 0, 7), (7, 0, 1)],
    NumberCell (.route, q) := fun q hq s _ v hr _ => ((routeRow_cells s.route[_] v).1 q hq).route hr

theorem numberCell_account : ∀ q ∈ [(0, 0, 15), (1, 0, 1), (2, 0, 2 ^ 48 - 1), (3, 0, 1)],
    NumberCell (.account, q) := fun q hq s _ v hr _ => (accountRow_cells s.accounts[_] v q hq).account hr

theorem numberCell_tier : ∀ q ∈ [(0, 0, 2 ^ 32 - 1), (1, 0, 50)], NumberCell (.tier, q) :=
  fun q hq s _ v hr _ => (tierRow_cells s.tier[_] v q hq).tier hr

theorem numberCell_pattern : ∀ q ∈ [(0, 0, 1), (1, 0, 65535), (2, 1, 8), (11, 0, 3), (12, 0, 1)],
    NumberCell (.pattern, q) := fun q hq s _ v hr _ => ((patternRow_cells s.pattern[_] v).1 q hq).pattern hr

theorem numberCell_patternByte : ∀ c ∈ List.range 8, NumberCell (.pattern, c + 3, 0, 255) :=
  fun c hc s _ v hr _ => ((patternRow_cells s.pattern[_] v).2.1 c hc).pattern hr

theorem numberCell_groupCount : NumberCell (.group, 0, 0, 16) :=
  fun s _ v hr _ => (groupRow_cells s.group[_] v).1.group hr

theorem numberCell_groupMember : ∀ c ∈ List.range 16, NumberCell (.group, c + 1, 0, 15) :=
  fun c hc s _ v hr _ => ((groupRow_cells s.group[_] v).2 c hc).group hr

theorem numberCell_roster : ∀ q ∈ [(0, 0, 3), (1, 0, 65535), (2, 1, 16), (3, 100, 60000), (4, 0, 600000),
    (5, 0, 3600000), (6, 1000, 900000), (7, 0, 86400000), (8, 0, 768)], NumberCell (.roster, q) := by
  intro q hq s r v hr hopen
  have hclosed := hopen rfl ⟨r, hr⟩ rfl
  exact (rosterRow_cells (s.rosterOf ⟨r, hr⟩) (s.line ⟨r, hr⟩) v q hq).roster hclosed

theorem numberCell_settings {q : Nat × Nat × Nat}
    (h : ∀ (x : Settings) (v : Nat),
      RowCell putSettings settingsCell 19 x q.1 v (max q.2.1 (min q.2.2 v)) (decide (v < q.2.1 ∨ q.2.2 < v))) :
    NumberCell (.settings, q) := by
  intro s r v hr _
  obtain rfl : r = 0 := Nat.lt_one_iff.mp hr
  exact (h s.settings v).settings

theorem numberCells_hold : ∀ q ∈ numberCells, NumberCell q := by
  have hroute := numberCell_route
  have haccount := numberCell_account
  have htier := numberCell_tier
  have hpattern := numberCell_pattern
  have hroster := numberCell_roster
  have hports := fun q hq => numberCell_settings (q := q) fun x v => settingsRow_ports x v q hq
  have hlimits := fun q hq => numberCell_settings (q := q) fun x v => settingsRow_limits x v q hq
  simp only [List.forall_mem_cons] at hroute haccount htier hpattern hroster hports hlimits
  obtain ⟨hr0, hr3, hr4, hr5, hr6, hr7, -⟩ := hroute
  obtain ⟨ha0, ha1, ha2, ha3, -⟩ := haccount
  obtain ⟨ht0, ht1, -⟩ := htier
  obtain ⟨hp0, hp1, hp2, hp11, hp12, -⟩ := hpattern
  obtain ⟨ho0, ho1, ho2, ho3, ho4, ho5, ho6, ho7, ho8, -⟩ := hroster
  obtain ⟨hs1, hs2, hs3, hs4, hs5, hs6, -⟩ := hports
  obtain ⟨hs7, hs8, hs9, hs10, hs11, hs12, hs13, hs14, hs15, hs16, hs17, hs18, -⟩ := hlimits
  simp only [numberCells, List.forall_mem_append, List.forall_mem_cons, List.forall_mem_map]
  exact ⟨⟨⟨⟨⟨hr0, hr3, hr4, hr5, hr6, hr7, numberCell_groupCount, List.forall_mem_nil _⟩,
    numberCell_groupMember⟩, ⟨ha0, ha1, ha2, ha3, numberCell_rate (by decide), numberCell_rate (by decide),
    numberCell_rate (by decide), numberCell_rate (by decide), numberCell_media, ht0, ht1, hp0, hp1, hp2,
    List.forall_mem_nil _⟩⟩, numberCell_patternByte⟩, hp11, hp12, ho0, ho1, ho2, ho3, ho4, ho5, ho6, ho7, ho8, hs1,
    hs2, hs3, hs4, hs5, hs6, hs7, hs8, hs9, hs10, hs11, hs12, hs13, hs14, hs15, hs16, hs17, hs18,
    List.forall_mem_nil _⟩

theorem codeCells_hold : ∀ q ∈ codeCells, CodeCell q := by
  have hroute : ∀ q ∈ [(1, 15), (2, 7)], CodeCell (.route, q) :=
    fun q hq s _ v hr => ((routeRow_cells s.route[_] v).2 q hq).route hr
  have hpattern : CodeCell (.pattern, 13, 31) :=
    fun s _ v hr => (patternRow_cells s.pattern[_] v).2.2.pattern hr
  simp only [List.forall_mem_cons] at hroute
  obtain ⟨hr1, hr2, -⟩ := hroute
  simp only [codeCells, List.forall_mem_cons]
  exact ⟨hr1, hr2, hpattern, List.forall_mem_nil _⟩

/-! ### The adjustments at the end of a write (R191) -/

theorem limitClamp_eq (a : Account) : limitClamp a =
    { a with limit := if a.limited = true then max a.limit (a.chargedCost + a.reservedCost) else a.limit } := by
  unfold limitClamp
  split
  · rename_i h
    rw [if_pos h.1, Nat.max_eq_right (Nat.le_of_lt h.2)]
  · rename_i h
    have hkeep : (if a.limited = true then max a.limit (a.chargedCost + a.reservedCost) else a.limit) = a.limit := by
      split
      · rename_i hlim
        exact Nat.max_eq_left (Nat.le_of_not_lt fun hlt => h ⟨hlim, hlt⟩)
      · rfl
    rw [hkeep]

theorem raiseWakeLimit_eq (r : Roster) : raiseWakeLimit r = { r with wakeLimit := max r.wakeLimit r.settle } := by
  unfold raiseWakeLimit
  split
  · rename_i hlt
    rw [Nat.max_eq_right (Nat.le_of_lt hlt)]
  · rename_i hle
    rw [Nat.max_eq_left (Nat.le_of_not_lt hle)]

/-- A value raised to a lower bound where it is below it. -/
theorem raised_eq (w : Bool) (a b : Nat) :
    (if (w && decide (a < b)) = true then b else a) = if w = true then max a b else a := by
  cases w with
  | false => rfl
  | true =>
    by_cases hlt : a < b
    · simp [hlt, Nat.max_eq_right (Nat.le_of_lt hlt)]
    · simp [hlt, Nat.max_eq_left (Nat.le_of_not_lt hlt)]

theorem adjustSettings_eq (s : State) (cells : List (Nat × Nat)) :
    (adjustSettings cells s).1 = { s with settings := { s.settings with
      stallMax := if wroteCell cells 0 9 10 = true then max s.settings.stallMax s.settings.stallMin
        else s.settings.stallMax
      highWater := if wroteCell cells 0 16 17 = true then max s.settings.highWater s.settings.lowWater
        else s.settings.highWater } } := by
  simp only [adjustSettings, raised_eq]

/-! #### The normalisation of a GROUP row (R27) -/

theorem mem_dedup {α : Type} [DecidableEq α] {a : α} {l : List α} : a ∈ dedup l ↔ a ∈ l := by
  induction l with
  | nil => exact Iff.rfl
  | cons b l ih =>
    by_cases hab : a = b
    · simp [dedup, hab]
    · simp [dedup, hab, ih]

theorem dedup_nodup {α : Type} [DecidableEq α] (l : List α) : (dedup l).Nodup := by
  induction l with
  | nil => exact List.nodup_nil
  | cons b l ih =>
    rw [dedup, List.nodup_cons]
    exact ⟨by simp, ih.filter _⟩

theorem dedup_sublist {α : Type} [DecidableEq α] (l : List α) : (dedup l).Sublist l := by
  induction l with
  | nil => exact .slnil
  | cons b l ih => exact (List.filter_sublist.trans ih).cons_cons b

theorem groupMembers_length_le (g : GroupRow) : (groupMembers g).length ≤ g.count := List.length_take_le _ _

theorem groupMembers_normalise {g : GroupRow} (h : g.count ≤ 16) :
    groupMembers (normaliseGroup g) = dedup (groupMembers g) := by
  have hle : (dedup (groupMembers g)).length ≤ 16 :=
    Nat.le_trans (Nat.le_trans (dedup_sublist _).length_le (groupMembers_length_le g)) h
  refine List.ext_getElem ?_ fun k hk hk' => ?_
  · simp [groupMembers, normaliseGroup] at hle ⊢
    omega
  · simp [groupMembers, normaliseGroup] at hk hk' ⊢
    rw [List.getElem?_append_left hk', List.getElem?_eq_getElem hk', Option.getD_some]

theorem normaliseGroup_rest (g : GroupRow) (i : Fin 16) (h : (normaliseGroup g).count ≤ i.val) :
    (normaliseGroup g).members[i] =
      ((g.members.toList.drop g.count)[i.val - (normaliseGroup g).count]?).getD 0 := by
  have hcount : (normaliseGroup g).count = (dedup (groupMembers g)).length := rfl
  rw [hcount] at h ⊢
  simp only [normaliseGroup, Fin.getElem_fin, Vector.getElem_ofFn, List.getElem?_append_right h]

/-! ### A write of one value -/

theorem field_of_byte (b : Byte) (bytes : List Byte) : field (b :: bytes) 0 1 = b.toNat := by
  simp [field, beNat]

theorem writeSized_one {bytes : List Byte} (h : bytes.length = 8) : writeSized (1#8 :: bytes) = true := by
  simp [writeSized, h]

theorem writeArgs_one {bytes : List Byte} (h : bytes.length = 8) : writeArgs (1#8 :: bytes) = [beNat bytes] := by
  have htake : bytes.take 8 = bytes := List.take_of_length_le (Nat.le_of_eq h)
  show valueList (field (1#8 :: bytes) 0 1) bytes = _
  rw [field_of_byte]
  show [beNat (bytes.take 8)] = _
  rw [htake]

theorem filter_never {α : Type} (l : List α) : (l.filter fun _ => false) = [] :=
  List.filter_eq_nil_iff.mpr fun _ _ => Bool.false_ne_true

theorem endAdjust_nothing (s : State) (tb : Table) : endAdjust s tb [] s = (s, 0) := by
  cases tb with
  | group => simp [endAdjust, adjustGroups, writtenRows, dedup, filter_never]
  | settings => simp [endAdjust, adjustSettings, wroteCell]
  | route | account | rate | media | tier | pattern | roster | jobs => rfl

theorem State.writeValues_skipped {s : State} {w : Window} {r c v : Nat} (h : s.writeCell w.table r c v = none) :
    s.writeValues w (some (r, c)) [v] = ({ s with window := some { w with write := nextPos w r c } },
      [0#8, 0#8, 1#8, 0#8] ++ posBytes (nextPos w r c)) := by
  have hrun : writeRun s w (some (r, c)) [v] =
      { runStart s (some (r, c)) with skipped := 1, pos := nextPos w r c } := by
    simp [writeRun, takeValue, runStart, h]
  have hbytes : be 1 0 ++ countByte (0 + 0) ++ be 1 1 ++ be 1 0 = [0#8, 0#8, 1#8, 0#8] := by decide
  rw [State.writeValues_eq, hrun]
  dsimp only [runStart]
  rw [endAdjust_nothing, hbytes]

theorem State.writeValues_taken {s u : State} {w : Window} {r c v : Nat} {cl : Bool}
    (h : s.writeCell w.table r c v = some (u, cl)) :
    s.writeValues w (some (r, c)) [v] =
      ({ (endAdjust s w.table [(r, c)] u).1 with window := some { w with write := nextPos w r c } },
        [1#8] ++ countByte ((if cl then 1 else 0) + (endAdjust s w.table [(r, c)] u).2) ++ [0#8, 0#8] ++
          posBytes (nextPos w r c)) := by
  have hrun : writeRun s w (some (r, c)) [v] =
      { state := u, taken := 1, clamped := if cl then 1 else 0, skipped := 0, ignored := 0,
        pos := nextPos w r c, cells := [(r, c)] } := by
    simp [writeRun, takeValue, runStart, h]
  rw [State.writeValues_eq, hrun]
  simp only [List.append_assoc]
  rfl

/-- A TABLE WRITE of one value ends with what the write of the value answers. -/
theorem exec_tableWrite_one {s : State} {f : ShopFrame} {bytes : List Byte} {w : Window}
    (hreq : Requested s f (1#8 :: bytes)) (hlen : bytes.length = 8) (hwin : s.window = some w) :
    exec (.tableWrite f) s = .next (manageEnd s f 0
      ((s.writeValues w (some (w.firstRow, w.firstCell)) [beNat bytes]).1, .ok,
        (s.writeValues w (some (w.firstRow, w.firstCell)) [beNat bytes]).2)) := by
  have hwrite := manage_tableWrite hreq (writeSized_one hlen) hwin (fromStart := true)
    (start := some (w.firstRow, w.firstCell)) rfl
  rw [writeArgs_one hlen] at hwrite
  exact congrArg _ hwrite

/-- The end of a request that changes no account, no move delay and asks for no pass. -/
theorem manageEnd_answered {s u : State} (f : ShopFrame) (job : Nat) (st : Status) (body : List Byte)
    (ha : u.accounts = s.accounts) (hl : u.lines = s.lines) (hw : u.passesWanted = 0) :
    manageEnd s f job (u, st, body) = answered s u f job st body := by
  have haccount (a : AccountNo) : (u.withPort s.settings.port).account a = s.account a := by
    simp only [State.account, State.withPort_accounts, ha]
  have hline (p : LineNo) : (u.withPort s.settings.port).line p = s.line p := by
    simp only [State.line, State.withPort_lines, hl]
  have hcalm : settleEvent s (u.withPort s.settings.port) = (u.withPort s.settings.port).refreshIdle :=
    settleEvent_calm (fun a => Nat.le_of_eq (by rw [haccount])) hw (zeroMove_none fun p => by rw [hline])
  unfold manageEnd
  dsimp only
  rw [hcalm]
  rfl

theorem exec_tableWrite_skipped {s : State} {f : ShopFrame} {bytes : List Byte} {w : Window}
    (hreq : Requested s f (1#8 :: bytes)) (hlen : bytes.length = 8) (hw : NoPassWanted s) (hwin : s.window = some w)
    (h : s.writeCell w.table w.firstRow w.firstCell (beNat bytes) = none) :
    exec (.tableWrite f) s = .next (answered s
      { s with window := some { w with write := nextPos w w.firstRow w.firstCell } } f 0 .ok
      ([0#8, 0#8, 1#8, 0#8] ++ posBytes (nextPos w w.firstRow w.firstCell))) := by
  rw [exec_tableWrite_one hreq hlen hwin, State.writeValues_skipped h]
  exact congrArg _ (manageEnd_answered f 0 _ _ rfl rfl hw)

theorem exec_tableWrite_taken {s u : State} {f : ShopFrame} {bytes : List Byte} {w : Window} {cl : Bool} {tb : Table}
    {r : Nat} (hreq : Requested s f (1#8 :: bytes)) (hlen : bytes.length = 8) (hwin : s.window = some w)
    (h : s.writeCell w.table w.firstRow w.firstCell (beNat bytes) = some (u, cl)) (htb : w.table = tb)
    (hr : w.firstRow = r) :
    exec (.tableWrite f) s = .next (manageEnd s f 0
      ({ (endAdjust s tb [(r, w.firstCell)] u).1 with
          window := some { w with write := nextPos w w.firstRow w.firstCell } }, .ok,
        [1#8] ++ countByte ((if cl then 1 else 0) + (endAdjust s tb [(r, w.firstCell)] u).2) ++
          [0#8, 0#8] ++ posBytes (nextPos w w.firstRow w.firstCell))) := by
  subst htb hr
  rw [exec_tableWrite_one hreq hlen hwin, State.writeValues_taken h]

theorem countByte_small {n : Nat} (h : n < 256) : countByte n = be 1 n := if_pos h

/-! #### The plain tables -/

theorem endAdjust_plain (before s : State) {tb : Table} (cells : List (Nat × Nat))
    (h : tb = .route ∨ tb = .rate ∨ tb = .media ∨ tb = .tier ∨ tb = .pattern) :
    endAdjust before tb cells s = (s, 0) := by
  obtain rfl | rfl | rfl | rfl | rfl := h <;> rfl

/-- What a written cell leaves, in the form that the end of the event looks at. -/
theorem writeCell_calm {s u : State} {tb : Table} {r c v : Nat} {b : Bool} (h : s.writeCell tb r c v = some (u, b))
    (h1 : tb ≠ .account) (h2 : tb ≠ .settings) : u.settings.port = s.settings.port ∧ u.accounts = s.accounts ∧
      u.lines = s.lines ∧ u.passesWanted = s.passesWanted := by
  cases tb with
  | account => exact absurd rfl h1
  | settings => exact absurd rfl h2
  | route | group | tier | pattern =>
    obtain ⟨x, -, hx⟩ := Option.bind_eq_some_iff.mp h
    obtain ⟨y, -, hy⟩ := Option.map_eq_some_iff.mp hx
    obtain ⟨rfl, -⟩ := Prod.mk.inj hy
    exact ⟨rfl, rfl, rfl, rfl⟩
  | rate =>
    obtain ⟨x, -, hx⟩ := Option.bind_eq_some_iff.mp h
    obtain ⟨rfl, -⟩ := Prod.mk.inj (Option.some.inj hx)
    exact ⟨rfl, rfl, rfl, rfl⟩
  | media =>
    obtain ⟨rfl, -⟩ := Prod.mk.inj (Option.some.inj h)
    exact ⟨rfl, rfl, rfl, rfl⟩
  | roster =>
    unfold State.writeCell at h
    dsimp only at h
    split at h
    · split at h
      · obtain ⟨y, -, hy⟩ := Option.map_eq_some_iff.mp h
        obtain ⟨rfl, -⟩ := Prod.mk.inj hy
        exact ⟨rfl, rfl, rfl, rfl⟩
      · cases h
    · cases h
  | jobs => cases h

theorem exec_tableWrite_plain {s u : State} {f : ShopFrame} {bytes : List Byte} {w : Window} {cl : Bool}
    (hreq : Requested s f (1#8 :: bytes)) (hlen : bytes.length = 8) (hw : NoPassWanted s) (hwin : s.window = some w)
    (htb : w.table = .route ∨ w.table = .rate ∨ w.table = .media ∨ w.table = .tier ∨ w.table = .pattern)
    (h : s.writeCell w.table w.firstRow w.firstCell (beNat bytes) = some (u, cl)) :
    exec (.tableWrite f) s = .next (answered s
      { u with window := some { w with write := nextPos w w.firstRow w.firstCell } } f 0 .ok
      ([1#8, if cl then 1#8 else 0#8, 0#8, 0#8] ++ posBytes (nextPos w w.firstRow w.firstCell))) := by
  have hbytes : [1#8] ++ countByte ((if cl then 1 else 0) + 0) ++ [0#8, 0#8] =
      [1#8, if cl then 1#8 else 0#8, 0#8, 0#8] := by cases cl <;> decide
  have hne : w.table ≠ .account ∧ w.table ≠ .settings := by
    obtain htb | htb | htb | htb | htb := htb <;> rw [htb] <;> exact ⟨by decide, by decide⟩
  obtain ⟨-, haccounts, hlines, hpasses⟩ := writeCell_calm h hne.1 hne.2
  rw [exec_tableWrite_taken hreq hlen hwin h rfl rfl, endAdjust_plain s u _ htb, hbytes]
  exact congrArg _ (manageEnd_answered f 0 _ _ haccounts hlines (hpasses.trans hw))

/-! #### GROUP -/

theorem setIfInBounds_eq_set {α : Type} {m : Nat} (x : Vector α m) (i : Fin m) (y : α) :
    x.setIfInBounds i y = x.set i y := by
  refine Vector.ext fun k hk => ?_
  simp [Vector.getElem_set, Vector.getElem_setIfInBounds]

theorem groupRows_changed {x y : Vector GroupRow 8} {i : Fin 8} {g : GroupRow} (h : ∀ k, k ≠ i.val → y[k]? = x[k]?)
    (hi : y[i.val]? = some g) :
    ((List.range 8).filter fun k => decide (y[k]? ≠ x[k]?)).length = if g = x[i] then 0 else 1 := by
  have hx : x[i.val]? = some x[i] := Vector.getElem?_eq_getElem i.isLt
  have hone : ((List.range 8).filter fun k => decide (k = i.val)).length = 1 := by
    have hall : ∀ n : Fin 8, ((List.range 8).filter fun k => decide (k = n.val)).length = 1 := by decide
    exact hall i
  by_cases hg : g = x[i]
  · rw [if_pos hg, List.length_eq_zero_iff, List.filter_eq_nil_iff]
    intro k _
    by_cases hk : k = i.val
    · rw [hk, hi, hx, hg]
      simp
    · simp [h k hk]
  · rw [if_neg hg, ← hone]
    refine congrArg List.length (List.filter_congr fun k _ => ?_)
    by_cases hk : k = i.val
    · rw [hk, hi, hx]
      simpa using hg
    · simp [h k hk, hk]

theorem endAdjust_group {s u : State} {r c v : Nat} {cl : Bool} {i : Fin 8} (hi : i.val = r)
    (h : s.writeCell .group r c v = some (u, cl)) (hw : NoPassWanted s) : endAdjust s .group [(r, c)] u =
      ({ u with
          group := u.group.set i (normaliseGroup u.group[i])
          passesWanted := if normaliseGroup u.group[i] = s.group[i] then 0 else 1 }, 0) := by
  subst hi
  obtain ⟨x, -, hx⟩ := Option.bind_eq_some_iff.mp h
  obtain ⟨y, -, hy⟩ := Option.map_eq_some_iff.mp hx
  obtain ⟨hu, -⟩ := Prod.mk.inj hy
  have hother (k : Nat) (hk : k ≠ i.val) :
      (u.group.set i (normaliseGroup u.group[i]))[k]? = s.group[k]? := by
    simp [← hu, Ne.symm hk]
  have hpasses : u.passesWanted = 0 := by rw [← hu]; exact hw
  have hrow : u.group[i.val]? = some u.group[i] := Vector.getElem?_eq_getElem i.isLt
  have hchanged := groupRows_changed (x := s.group) (g := normaliseGroup u.group[i]) hother (by simp)
  simp only [endAdjust, adjustGroups, writtenRows, dedup, List.map, List.filter_nil, List.foldl, hrow,
    setIfInBounds_eq_set, hpasses, hchanged, Nat.zero_add]

/-! #### ACCOUNT -/

theorem endAdjust_account (before u : State) {r : Nat} (c : Nat) {a : AccountNo} (ha : a.val = r) :
    endAdjust before .account [(r, c)] u =
      (u.modAccount a limitClamp, if limitClamp (u.account a) = u.account a then 0 else 1) := by
  subst ha
  have hrow : u.accounts[a.val]? = some (u.account a) := Vector.getElem?_eq_getElem a.isLt
  simp only [endAdjust, adjustAccounts, writtenRows, dedup, List.map, List.filter_nil, List.foldl, hrow]
  split
  · rename_i hsame
    rw [State.modAccount, hsame]
    simp [State.account]
  · rw [setIfInBounds_eq_set]
    rfl

/-! #### ROSTER -/

theorem endAdjust_roster (before u : State) {r : Nat} (c : Nat) {p : LineNo} (hp : p.val = r) :
    endAdjust before .roster [(r, c)] u =
      ({ u with roster := u.roster.set p (if c = 4 ∨ c = 6 then raiseWakeLimit (u.rosterOf p) else u.rosterOf p) },
        if (if c = 4 ∨ c = 6 then raiseWakeLimit (u.rosterOf p) else u.rosterOf p) = u.rosterOf p then 0 else 1) := by
  subst hp
  have hrow : u.roster[p.val]? = some (u.rosterOf p) := Vector.getElem?_eq_getElem p.isLt
  have hsame : ({ u with roster := u.roster.set p (u.rosterOf p) } : State) = u := by
    simp [State.rosterOf]
  have hcell : wroteCell [(p.val, c)] p.val 4 6 = decide (c = 4 ∨ c = 6) := by
    simp [wroteCell]
  simp only [endAdjust, adjustRoster, writtenRows, dedup, List.map, List.filter_nil, List.foldl, hrow, hcell]
  by_cases hc : c = 4 ∨ c = 6
  · by_cases hlow : (u.rosterOf p).wakeLimit < (u.rosterOf p).settle
    · have hne : raiseWakeLimit (u.rosterOf p) ≠ u.rosterOf p := by
        intro he
        have hlimit := congrArg Roster.wakeLimit he
        rw [raiseWakeLimit, if_pos hlow] at hlimit
        exact Nat.ne_of_gt hlow hlimit
      simp [hc, hlow, hne, setIfInBounds_eq_set]
    · have he : raiseWakeLimit (u.rosterOf p) = u.rosterOf p := if_neg hlow
      simp [hc, hlow, he, hsame]
  · simp [hc, hsame]

/-! #### SETTINGS -/

theorem State.evalSpoolLow_only (s : State) :
    s.evalSpoolLow = { s.alertsOf s.evalSpoolLow with spoolLow := s.evalSpoolLow.spoolLow } := by
  unfold State.evalSpoolLow
  split
  · rw [State.openAlert_only]
    rfl
  · split
    · rw [State.clearAlert_only]
      rfl
    · rfl

theorem adjustSettings_count (u : State) (c : Nat) : (adjustSettings [(0, c)] u).2 =
    if (adjustSettings [(0, c)] u).1.settings = u.settings then 0 else 1 := by
  have hstall : wroteCell [(0, c)] 0 9 10 = decide (c = 9 ∨ c = 10) := by simp [wroteCell]
  have hwater : wroteCell [(0, c)] 0 16 17 = decide (c = 16 ∨ c = 17) := by simp [wroteCell]
  simp only [adjustSettings, hstall, hwater]
  by_cases h1 : c = 9 ∨ c = 10
  · have h2 : ¬ (c = 16 ∨ c = 17) := by omega
    by_cases hlow : u.settings.stallMax < u.settings.stallMin
    · have hne : ¬ ({ u.settings with stallMax := u.settings.stallMin } : Settings) = u.settings := fun he =>
        Nat.ne_of_gt hlow (congrArg Settings.stallMax he)
      simp [h1, h2, hlow, hne]
    · simp [h1, h2, hlow]
  · by_cases h2 : c = 16 ∨ c = 17
    · by_cases hlow : u.settings.highWater < u.settings.lowWater
      · have hne : ¬ ({ u.settings with highWater := u.settings.lowWater } : Settings) = u.settings := fun he =>
          Nat.ne_of_gt hlow (congrArg Settings.highWater he)
        simp [h1, h2, hlow, hne]
      · simp [h1, h2, hlow]
    · simp [h1, h2]

/-- The spool low-mark evaluation of a write to the marks, with the alert fields of before the write. -/
def markedSpool (s u x : State) : State :=
  ({ u with settings := { x.settings with
      port := s.settings.port, reminderInterval := s.settings.reminderInterval } }).evalSpoolLow

theorem endAdjust_settings_mark (s u : State) {c : Nat} (hc : c = 16 ∨ c = 17) :
    endAdjust s .settings [(0, c)] u =
      ((markedSpool s u (adjustSettings [(0, c)] u).1).withAlertFields (adjustSettings [(0, c)] u).1.settings,
        (adjustSettings [(0, c)] u).2) := by
  have hwrote : wroteCell [(0, c)] 0 16 17 = true := by simp [wroteCell, hc]
  simp only [endAdjust, hwrote, if_true]
  rfl

theorem endAdjust_settings_other (s u : State) {c : Nat} (h1 : c ≠ 16) (h2 : c ≠ 17) :
    endAdjust s .settings [(0, c)] u = adjustSettings [(0, c)] u := by
  have hwrote : wroteCell [(0, c)] 0 16 17 = false := by simp [wroteCell, h1, h2]
  simp [endAdjust, hwrote]

/-- What the end of a write to SETTINGS leaves. -/
theorem endAdjust_settings_calm (s u : State) (c : Nat) :
    (endAdjust s .settings [(0, c)] u).1.settings = (adjustSettings [(0, c)] u).1.settings ∧
    (endAdjust s .settings [(0, c)] u).1.accounts = u.accounts ∧
    (endAdjust s .settings [(0, c)] u).1.lines = u.lines ∧
    (endAdjust s .settings [(0, c)] u).1.passesWanted = u.passesWanted ∧
    (endAdjust s .settings [(0, c)] u).2 = (adjustSettings [(0, c)] u).2 := by
  by_cases hc : c = 16 ∨ c = 17
  · rw [endAdjust_settings_mark s u hc, markedSpool, State.evalSpoolLow_only]
    exact ⟨rfl, rfl, rfl, rfl, rfl⟩
  · rw [not_or] at hc
    rw [endAdjust_settings_other s u hc.1 hc.2]
    exact ⟨rfl, rfl, rfl, rfl, rfl⟩

theorem writeCell_settings_only {s u : State} {r c v : Nat} {b : Bool}
    (h : s.writeCell .settings r c v = some (u, b)) : u = { s with settings := u.settings } := by
  obtain ⟨y, -, hy⟩ := Option.map_eq_some_iff.mp h
  obtain ⟨rfl, -⟩ := Prod.mk.inj hy
  rfl

/-- A write of one SETTINGS cell. -/
theorem exec_tableWrite_settings {s u : State} {f : ShopFrame} {bytes : List Byte} {w : Window} {cl : Bool}
    (hreq : Requested s f (1#8 :: bytes)) (hlen : bytes.length = 8) (hw : NoPassWanted s) (hlaw : WindowLaw s)
    (hwin : s.window = some w) (htb : w.table = .settings)
    (h : s.writeCell w.table w.firstRow w.firstCell (beNat bytes) = some (u, cl)) :
    exec (.tableWrite f) s = .next (answered s
      { (endAdjust s .settings [(0, w.firstCell)] u).1 with
          window := some { w with write := nextPos w w.firstRow w.firstCell } } f 0 .ok
      ([1#8] ++ be 1 ((if cl then 1 else 0) +
          if (adjustSettings [(0, w.firstCell)] u).1.settings = u.settings then 0 else 1) ++ [0#8, 0#8] ++
        posBytes (nextPos w w.firstRow w.firstCell))) ∧ w.firstRow = 0 := by
  have hrow : w.firstRow = 0 := by
    obtain ⟨hle, hlt, -, -⟩ := hlaw w hwin
    rw [htb] at hlt
    exact Nat.le_zero.mp (Nat.le_trans hle (Nat.le_of_eq (Nat.lt_one_iff.mp hlt)))
  have htaken := exec_tableWrite_taken hreq hlen hwin h htb hrow
  rw [htb, hrow] at h
  obtain ⟨-, haccounts, hlines, hpasses, hcount⟩ := endAdjust_settings_calm s u w.firstCell
  have honly := writeCell_settings_only h
  have hsmall : (if cl = true then 1 else 0) +
      (if (adjustSettings [(0, w.firstCell)] u).1.settings = u.settings then 0 else 1) < 256 := by
    split <;> split <;> decide
  rw [hcount, adjustSettings_count, countByte_small hsmall] at htaken
  refine ⟨?_, hrow⟩
  rw [htaken]
  refine congrArg _ (manageEnd_answered f 0 _ _ ?_ ?_ ?_)
  · exact haccounts.trans (by rw [honly])
  · exact hlines.trans (by rw [honly])
  · exact hpasses.trans (by rw [honly]; exact hw)

/-! ### The statement -/

theorem count_small (cl : Bool) {P : Prop} [Decidable P] :
    countByte ((if cl then 1 else 0) + if P then 0 else 1) = be 1 ((if cl then 1 else 0) + if P then 0 else 1) := by
  refine countByte_small ?_
  split <;> split <;> decide

/-- Settles O21: the fitting of each cell, the adjustments, and the write of one value in each table. -/
theorem tableWriteFitsValues : Obligations.TableWriteFitsValues := by
  refine ⟨fun s f bytes w r c hreq hlen hw hwin htb hr hc => ?_, fun s r c v _ => s.writeCell_media r c v,
    fun s r c v => ?_, fun s r v => ?_, fun s p c v hdown hretired => ?_, fun s p v hopen => ?_,
    fun s r c v hc => ?_, fun _ _ _ _ => rfl, fun s v => ?_, limitClamp_eq, raiseWakeLimit_eq, adjustSettings_eq,
    fun g hg => ?_, fun q hq s r v hr hopen => numberCells_hold q hq s r v hr hopen,
    fun q hq s r v hr => codeCells_hold q hq s r v hr, fun s v => settingsRow_station_group, fun s v hv => ?_,
    fun s f bytes w hreq hlen hw hlaw hwin => ?_⟩
  · subst hr hc
    cases hcell : s.writeCell w.table w.firstRow w.firstCell (beNat bytes) with
    | none => exact exec_tableWrite_skipped hreq hlen hw hwin hcell
    | some y => exact exec_tableWrite_plain hreq hlen hw hwin htb hcell
  · rw [s.writeCell_rate c v r.isLt, setIfInBounds_eq_set]
    rfl
  · have hflag : decide (v < 0 ∨ 50 < v) = decide (50 < v) := by simp
    have hput : putTier s.tier[r] 1 v = some ({ s.tier[r] with discount := clamp 0 50 v }, decide (50 < v)) := by
      rw [← hflag]
      exact fit_eq ..
    have hrow : s.tier[r.val]? = some s.tier[r] := Vector.getElem?_eq_getElem r.isLt
    simp only [State.writeCell, hrow, Option.bind_some, hput, Option.map_some, setIfInBounds_eq_set]
  · have hclosed : rosterOpen (s.line p) = false := by simp [rosterOpen, hdown, hretired]
    unfold State.writeCell
    dsimp only
    rw [dif_pos p.isLt]
    exact if_neg (by simpa using hclosed)
  · have hput : putRoster (s.rosterOf p) 2 v =
        some ({ s.rosterOf p with maxInFlight := clamp 1 16 v }, decide (v < 1 ∨ 16 < v)) := by
      show fit 1 16 v (fun n => { s.rosterOf p with maxInFlight := n }) = _
      rw [fit_eq]
    rw [s.writeCell_roster 2 v hopen, hput]
    rfl
  · have hput (a : Account) : putAccount a c v = none := by
      obtain ⟨k, rfl⟩ := Nat.exists_eq_add_of_le' hc
      rfl
    simp [State.writeCell, hput]
  · have hput : putSettings s.settings 7 v =
        some ({ s.settings with flushLimit := clamp 500 60000 v }, decide (v < 500 ∨ 60000 < v)) := by
      show fit 500 60000 v (fun n => { s.settings with flushLimit := n }) = _
      rw [fit_eq]
    simp [State.writeCell, hput]
  · rw [groupMembers_normalise hg]
    exact ⟨Nat.le_trans (dedup_sublist _).length_le (groupMembers_length_le g), dedup_nodup _, fun p => mem_dedup,
      dedup_sublist _, normaliseGroup_rest g⟩
  · obtain ⟨u, hwrite, hcells⟩ := (settingsRow_station (x := s.settings) hv).settings
    refine ⟨u, by simpa using hwrite, fun t i k hi hk => ?_⟩
    rw [hcells t i k hi hk, Nat.zero_max]
    by_cases ht : t = .settings
    · subst ht
      have hi0 : i = 0 := Nat.lt_one_iff.mp hi
      simp [hi0]
    · simp [ht]
  · refine ⟨fun hcell => exec_tableWrite_skipped hreq hlen hw hwin hcell, fun u cl hcell =>
      ⟨fun i htb hi => ?_, fun a htb ha => ?_, fun p htb hp => ?_, fun htb => ?_⟩⟩
    · have htaken := exec_tableWrite_taken hreq hlen hwin hcell htb rfl
      have hsmall : countByte ((if cl then 1 else 0) + 0) = be 1 (if cl then 1 else 0) := by cases cl <;> decide
      rw [htb] at hcell
      obtain ⟨hport, -⟩ := writeCell_calm hcell (by decide) (by decide)
      rw [htaken, endAdjust_group hi hcell hw, hsmall]
      exact congrArg _ (manageEnd_ended f 0 _ hport)
    · have htaken := exec_tableWrite_taken hreq hlen hwin hcell htb rfl
      rw [htb] at hcell
      have hport : u.settings.port = s.settings.port := by
        have hw := (writeCell_writes hcell).settings (by decide)
        rw [hw]
      rw [htaken, endAdjust_account s u _ ha, count_small]
      exact congrArg _ (manageEnd_ended f 0 _ hport)
    · have htaken := exec_tableWrite_taken hreq hlen hwin hcell htb rfl
      rw [htb] at hcell
      obtain ⟨-, haccounts, hlines, hpasses⟩ := writeCell_calm hcell (by decide) (by decide)
      rw [htaken, endAdjust_roster s u _ hp, count_small]
      exact congrArg _ (manageEnd_answered f 0 _ _ haccounts hlines (hpasses.trans hw))
    · obtain ⟨hexec, hrow⟩ := exec_tableWrite_settings hreq hlen hw hlaw hwin htb hcell
      rw [htb] at hcell
      have honly := writeCell_settings_only hcell
      rw [hrow]
      refine ⟨_, hexec, (endAdjust_settings_calm s u w.firstCell).1, by rw [hrow]; rfl, fun h1 h2 => ?_,
        fun hmark => ?_, by rw [hrow]; exact List.getLast?_concat⟩
      · rw [endAdjust_settings_other s u h1 h2, honly]
        exact ⟨rfl, rfl, rfl⟩
      · rw [endAdjust_settings_mark s u hmark]
        exact ⟨rfl, rfl, rfl⟩

end Sys2Proof.Machine
end

-- O23, O24: ADJUST LIMIT and CLOSE PERIOD (R129, R130).
section
namespace Sys2Proof.Machine

/-! ### A request whose change causes more -/

theorem manage_ended {s u : State} {f : ShopFrame} {args : List Byte} (h : Requested s f args)
    {sizeOk : List Byte → Bool} (jobOf : List Byte → Nat) {act : List Byte → State → Outcome3} {st : Status}
    {body : List Byte} (hs : sizeOk args = true) (hact : act args s = (u, st, body))
    (hp : u.settings.port = s.settings.port) :
    manage false sizeOk jobOf act f s = ended s u f (jobOf args) st body := by
  rw [manage_requested h sizeOk jobOf act hs, hact, manageEnd_ended f (jobOf args) (u, st, body) hp]

theorem ended_figures (s u : State) (f : ShopFrame) (job : Nat) (st : Status) (body : List Byte) (a : AccountNo) :
    sameFigures (u.account a) ((ended s u f job st body).account a) := (kept_settleEvent s u).figures a

theorem ended_outside (s u : State) (f : ShopFrame) (job : Nat) (st : Status) (body : List Byte) :
    sameOutside u (ended s u f job st body) := (follows_settleEvent s u).outside

theorem ended_lastReply (s u : State) (f : ShopFrame) (job : Nat) (st : Status) (body : List Byte) :
    lastReply (ended s u f job st body)
      (replyOf s.settings.port f job st (ended s u f job st body).free.length body) := List.getLast?_concat

theorem sameFigures_of_eq {a b c : Account} (h : b = a) (k : sameFigures b c) : sameFigures a c := h ▸ k

theorem sameOutside_modAccount (s : State) (a : AccountNo) (f : Account → Account) : sameOutside s (s.modAccount a f) :=
  (Follows.account s a f).outside

theorem sameOutside.trans {s t u : State} (h : sameOutside s t) (k : sameOutside t u) : sameOutside s u := by
  simp_all [sameOutside, sameTables]

/-- What the end of an event keeps of a change of one account. -/
theorem ended_modAccount_figures (s : State) (a : AccountNo) (g : Account → Account) (f : ShopFrame) (st : Status)
    (body : List Byte) :
    sameFigures (g (s.account a)) ((ended s (s.modAccount a g) f 0 st body).account a) ∧
      (∀ b, b ≠ a → sameFigures (s.account b) ((ended s (s.modAccount a g) f 0 st body).account b)) ∧
      sameOutside s (ended s (s.modAccount a g) f 0 st body) :=
  ⟨sameFigures_of_eq (s.account_modAccount_self a g) (ended_figures ..),
    fun _ hb => sameFigures_of_eq (s.account_modAccount_ne g hb) (ended_figures ..),
    (sameOutside_modAccount s a g).trans (ended_outside ..)⟩

/-! ### The account a request names -/

theorem accountField_of_eq {args : List Byte} {a : AccountNo} (h : a.val = field args 0 2) :
    accountField args = some a := by
  unfold accountField
  simp [← h]

theorem accountField_above {args : List Byte} (h : 255 < field args 0 2) : accountField args = none := by
  have hge : ¬ field args 0 2 < 256 := by omega
  unfold accountField
  simp [hge]

/-! ### ADJUST LIMIT -/

theorem saturate_eq (top v : Nat) : saturate top v = min top v := by
  unfold saturate
  split <;> omega

theorem adjustAccount_eq (delta : Int) (a : Account) :
    adjustAccount delta a = { a with limit := min (2 ^ 48 - 1) ((a.limit : Int) + delta).toNat } := by
  rw [adjustAccount, adjustedLimit, saturate_eq]
  rfl

/-- The limit that the move by a delta leaves. -/
def movedLimit (delta : Int) (a : Account) : Nat := min (2 ^ 48 - 1) ((a.limit : Int) + delta).toNat

/-- The limit that an adjust leaves, never below what is used (R129). -/
def fittedLimit (delta : Int) (a : Account) : Nat :=
  if a.limited = true then max (movedLimit delta a) (a.chargedCost + a.reservedCost) else movedLimit delta a

theorem limitClamp_adjust (delta : Int) (a : Account) :
    limitClamp (adjustAccount delta a) = { a with limit := fittedLimit delta a } := by
  rw [limitClamp_eq, adjustAccount_eq]
  rfl

theorem adjustBody_eq (delta : Int) (a : Account) :
    adjustBody (decide (limitClamp (adjustAccount delta a) ≠ adjustAccount delta a))
        (limitClamp (adjustAccount delta a)) =
      be 8 (fittedLimit delta a) ++ be 8 (a.chargedCost + a.reservedCost) ++
        be 8 (available { a with limit := fittedLimit delta a }) ++
          [if fittedLimit delta a = movedLimit delta a then 0#8 else 1#8] := by
  have hsame : limitClamp (adjustAccount delta a) = adjustAccount delta a ↔
      fittedLimit delta a = movedLimit delta a := by
    rw [limitClamp_adjust, adjustAccount_eq, Account.mk.injEq]
    simp [movedLimit]
  have hflag : flagByte (decide (limitClamp (adjustAccount delta a) ≠ adjustAccount delta a)) =
      if fittedLimit delta a = movedLimit delta a then 0#8 else 1#8 := by
    by_cases hfit : fittedLimit delta a = movedLimit delta a
    · simp [hsame, hfit, flagByte]
    · simp [hsame, hfit, flagByte]
  rw [adjustBody, hflag, limitClamp_adjust]

theorem adjustSized_of {args : List Byte} (hlen : args.length = 10)
    (hdelta : (signed64 (field args 2 8)).natAbs ≤ 2 ^ 48 - 1) : adjustSized args = true := by
  simp only [adjustSized, sized, hlen, decide_true, Bool.true_and, decide_eq_true_eq]
  exact hdelta

theorem adjustLimitAct_eq {args : List Byte} {a : AccountNo} (s : State) (h : a.val = field args 0 2) :
    adjustLimitAct args s =
      (s.modAccount a fun x => { x with limit := fittedLimit (signed64 (field args 2 8)) (s.account a) }, .ok,
        be 8 (fittedLimit (signed64 (field args 2 8)) (s.account a)) ++
          be 8 ((s.account a).chargedCost + (s.account a).reservedCost) ++
          be 8 (available
            { s.account a with limit := fittedLimit (signed64 (field args 2 8)) (s.account a) }) ++
          [if fittedLimit (signed64 (field args 2 8)) (s.account a) =
            movedLimit (signed64 (field args 2 8)) (s.account a) then 0#8 else 1#8]) := by
  unfold adjustLimitAct
  rw [accountField_of_eq h]
  show (_, _, adjustBody (decide (limitClamp _ ≠ _)) _) = _
  rw [adjustBody_eq, limitClamp_adjust]
  rfl

theorem adjustLimitAct_above {args : List Byte} (s : State) (h : 255 < field args 0 2) :
    adjustLimitAct args s = (s, .badRequest, []) := by
  unfold adjustLimitAct
  rw [accountField_above h]
  rfl

/-- Settles O23. -/
theorem adjustLimitMovesTheLimit : Obligations.AdjustLimitMovesTheLimit := by
  intro s f args hreq hlen hdelta
  have hsize := adjustSized_of hlen hdelta
  refine ⟨fun habove hw => congrArg _ (manage_unchanged hreq noJob hsize hw (adjustLimitAct_above s habove)),
    fun a ha => ?_⟩
  have hend := manage_ended hreq noJob hsize (adjustLimitAct_eq s ha) rfl
  obtain ⟨hself, hother, hout⟩ := ended_modAccount_figures s a
    (fun x => { x with limit := fittedLimit (signed64 (field args 2 8)) (s.account a) }) f .ok _
  have hexec := congrArg (Host.Outcome.next (φ := Fault) (ρ := Refusal)) hend
  exact ⟨_, hexec, hself, hother, hout, ended_lastReply .., hexec⟩

/-! ### CLOSE PERIOD -/

theorem State.closeAll_account (s : State) (a : AccountNo) : s.closeAll.account a = closeAccount (s.account a) := by
  simp [State.closeAll, State.account]

theorem State.closeAll_only (s : State) : s.closeAll = { s with accounts := s.closeAll.accounts } := rfl

theorem sameOutside_accounts (s : State) (v : Vector Account 256) : sameOutside s { s with accounts := v } :=
  ⟨rfl, rfl, rfl, rfl, rfl, ⟨rfl, rfl, rfl, rfl, rfl, rfl, rfl, rfl⟩, rfl, rfl, rfl, rfl, rfl, rfl, rfl, rfl, rfl⟩

theorem closePeriodAct_above {args : List Byte} (s : State) (h : 255 < field args 0 2) (hall : field args 0 2 ≠ 65535) :
    closePeriodAct args s = (s, .badRequest, []) := by
  unfold closePeriodAct
  rw [if_neg (show field args 0 2 ≠ allAccounts from hall), accountField_above h]
  rfl

theorem closePeriodAct_one {args : List Byte} {a : AccountNo} (s : State) (h : a.val = field args 0 2) :
    closePeriodAct args s =
      (s.modAccount a closeAccount, .ok, be 2 ((s.account a).period + 1).toNat) := by
  unfold closePeriodAct
  rw [if_neg (fun hall => by have := a.isLt; unfold allAccounts at hall; omega), accountField_of_eq h]
  rfl

theorem closePeriodAct_all {args : List Byte} (s : State) (h : field args 0 2 = 65535) :
    closePeriodAct args s = (s.closeAll, .ok, be 2 256) := by
  unfold closePeriodAct
  rw [if_pos (show field args 0 2 = allAccounts from h)]

theorem ended_closeAll_figures (s : State) (f : ShopFrame) (st : Status) (body : List Byte) :
    (∀ a, sameFigures (closeAccount (s.account a)) ((ended s s.closeAll f 0 st body).account a)) ∧
      sameOutside s (ended s s.closeAll f 0 st body) :=
  ⟨fun a => sameFigures_of_eq (s.closeAll_account a) (ended_figures ..),
    (sameOutside_accounts s s.closeAll.accounts).trans (ended_outside ..)⟩

/-- Settles O24. -/
theorem closePeriodZeroesCharges : Obligations.ClosePeriodZeroesCharges := by
  intro s f args hreq hlen
  have hsize : sized 2 args = true := decide_eq_true hlen
  refine ⟨fun habove hall hw => ?_, fun a ha => ?_, fun hall => ?_⟩
  · exact congrArg _ (manage_unchanged hreq noJob hsize hw (closePeriodAct_above s habove hall))
  · have hend := manage_ended hreq noJob hsize (closePeriodAct_one s ha) rfl
    obtain ⟨hself, hother, hout⟩ := ended_modAccount_figures s a closeAccount f .ok
      (be 2 ((s.account a).period + 1).toNat)
    have hexec := congrArg (Host.Outcome.next (φ := Fault) (ρ := Refusal)) hend
    exact ⟨_, hexec, hself, hother, hout, ended_lastReply .., hexec⟩
  · have hend := manage_ended hreq noJob hsize (closePeriodAct_all s hall) rfl
    obtain ⟨haccount, hout⟩ := ended_closeAll_figures s f .ok (be 2 256)
    have hexec := congrArg (Host.Outcome.next (φ := Fault) (ρ := Refusal)) hend
    exact ⟨_, hexec, haccount, hout, ended_lastReply .., s.closeAll, hexec, s.closeAll_only,
      s.closeAll_account⟩

end Sys2Proof.Machine
end

-- O25: the meter readout (R173 to R177).
section
namespace Sys2Proof.Machine

/-! ### A part of a snapshot -/

theorem State.sendPart_more (s : State) {n : Snapshot} {k : Nat} (h : k + 1 < partCount n.scope) :
    s.sendPart n k = ({ s with readout := some { n with next := k + 1 } }, .more, partBody n k) := by
  rw [State.sendPart, if_pos h]

theorem State.sendPart_last (s : State) {n : Snapshot} {k : Nat} (h : partCount n.scope ≤ k + 1) :
    s.sendPart n k = ({ s with readout := none }, .last, partBody n k) := by
  rw [State.sendPart, if_neg (Nat.not_lt.mpr h)]

theorem partRecords_accounts (s : State) (k : Fin 16) (n : Nat) :
    partRecords { scope := .accounts, records := s.snapRecords .accounts, next := n } k =
      (List.range 16).map fun i =>
        accountSnap (Fin.ofNat 256 (16 * k.val + i)) (s.account (Fin.ofNat 256 (16 * k.val + i))) := by
  refine List.ext_getElem? fun i => ?_
  have hk := k.isLt
  by_cases hi : i < 16
  · have hall : 16 * k.val + i < 256 := by omega
    simp [partRecords, State.snapRecords, allAccountNos, hi, hall]
  · refine (List.getElem?_eq_none ?_).trans (List.getElem?_eq_none ?_).symm
    · rw [partRecords, List.length_take]
      omega
    · rw [List.length_map, List.length_range]
      omega

/-! ### READ METERS START -/

theorem readMetersStartAct_above {args : List Byte} (s : State) (h : 1 < field args 0 1) :
    readMetersStartAct args s = (s, .badRequest, []) := by
  obtain ⟨n, hn⟩ : ∃ n, field args 0 1 = n + 2 := ⟨field args 0 1 - 2, by omega⟩
  simp [readMetersStartAct, hn, meterScopeOf, refuse]

/-- The snapshot of the accounts, its first part sent. -/
def State.accountReadout (s : State) : Snapshot :=
  { scope := .accounts, records := s.snapRecords .accounts, next := 1 }

theorem State.accountReadout_only (s : State) : { s.closeAll with readout := some s.accountReadout } =
    { s with readout := some s.accountReadout, accounts := s.closeAll.accounts } := by
  simp only [State.closeAll]

theorem State.account_readout (s : State) (r : Option Snapshot) (a : AccountNo) :
    ({ s with readout := r }).account a = s.account a := rfl

theorem State.accountReadout_closed (s : State) (a : AccountNo) :
    ({ s.closeAll with readout := some s.accountReadout }).account a =
      { s.account a with chargedCost := 0, chargedSides := 0, period := (s.account a).period + 1 } := by
  rw [State.account_readout, State.closeAll_account, closeAccount]

theorem readMetersStartAct_accounts {args : List Byte} (s : State) (h : field args 0 1 = 0) :
    readMetersStartAct args s =
      ({ (if field args 1 1 = 0 then s else s.closeAll) with readout := some s.accountReadout }, .more,
        partBody s.accountReadout 0) := by
  have hscope : meterScopeOf (field args 0 1) = some .accounts := by rw [h]; rfl
  by_cases hclose : field args 1 1 = 0
  · simp [readMetersStartAct, hscope, flagField, hclose]
    rfl
  · simp [readMetersStartAct, hscope, flagField, hclose]
    rfl

theorem readMetersStartAct_printers {args : List Byte} (s : State) (h : field args 0 1 = 1) :
    readMetersStartAct args s =
      ({ s with
        readout := none
        meters := if field args 1 1 = 0 then s.meters else Vector.replicate 16 Meter.zero }, .last,
      partBody { scope := .printers, records := s.snapRecords .printers, next := 0 } 0) := by
  have hscope : meterScopeOf (field args 0 1) = some .printers := by rw [h]; rfl
  by_cases hclose : field args 1 1 = 0
  · simp [readMetersStartAct, hscope, flagField, hclose]
    rfl
  · simp [readMetersStartAct, hscope, flagField, hclose]
    rfl

theorem exec_readMetersStart_closed {s : State} {f : ShopFrame} {args : List Byte} (hreq : Requested s f args)
    (hsize : sized 2 args = true) (hscope : field args 0 1 = 0) (hclose : field args 1 1 ≠ 0) :
    exec (.readMetersStart f) s = .next (ended s { s.closeAll with readout := some s.accountReadout } f 0 .more
      (partBody s.accountReadout 0)) := by
  have hact := readMetersStartAct_accounts s hscope
  rw [if_neg hclose] at hact
  exact congrArg _ (manage_ended hreq noJob hsize hact rfl)

theorem exec_readMetersStart_kept {s : State} {f : ShopFrame} {args : List Byte} (hreq : Requested s f args)
    (hsize : sized 2 args = true) (hscope : field args 0 1 = 0) (hclose : field args 1 1 = 0) (hw : NoPassWanted s) :
    exec (.readMetersStart f) s = .next (answered s { s with readout := some s.accountReadout } f 0 .more
      (partBody s.accountReadout 0)) := by
  have hact := readMetersStartAct_accounts s hscope
  rw [if_pos hclose] at hact
  exact congrArg _ (manage_calm hreq noJob hsize hact rfl (fun _ => Nat.le_refl _) hw (zeroMove_none fun _ => rfl))

/-! ### READ METERS NEXT -/

theorem manage_readMetersNext {s u : State} {f : ShopFrame} {st : Status} {body : List Byte}
    (hreq : Requested s f []) (hw : NoPassWanted s) (hact : readMetersNextAct [] s = (u, st, body))
    (hu : ∃ r, u = { s with readout := r }) :
    manage false (sized 0) noJob readMetersNextAct f s = answered s u f 0 st body := by
  obtain ⟨r, rfl⟩ := hu
  exact manage_calm hreq noJob rfl hact rfl (fun _ => Nat.le_refl _) hw (zeroMove_none fun _ => rfl)

theorem readMetersNextAct_some {s : State} {n : Snapshot} (args : List Byte) (h : s.readout = some n) :
    readMetersNextAct args s = s.sendPart n n.next := by
  unfold readMetersNextAct
  rw [h]

theorem readMetersNextAct_none {s : State} (args : List Byte) (h : s.readout = none) :
    readMetersNextAct args s = (s, .noReadout, []) := by
  unfold readMetersNextAct
  rw [h]
  rfl

/-- Settles O25. -/
theorem meterReadoutSendsParts : Obligations.MeterReadoutSendsParts := by
  refine ⟨fun s f args hreq hlen => ?_, fun s f hreq hw => ⟨fun hnone => ?_, fun n hsome => ⟨fun hmore => ?_,
    fun hlast => ?_⟩⟩, fun s k n => partRecords_accounts s k n⟩
  · have hsize : sized 2 args = true := decide_eq_true hlen
    refine ⟨fun habove hw => ?_, fun hscope => ⟨fun hclose hw => ?_, fun hclose => ?_⟩, fun hscope hw => ?_⟩
    · exact congrArg _ (manage_unchanged hreq noJob hsize hw (readMetersStartAct_above s habove))
    · exact exec_readMetersStart_kept hreq hsize hscope hclose hw
    · have hexec := exec_readMetersStart_closed hreq hsize hscope hclose
      refine ⟨_, hexec, ?_, fun a => ?_, ended_lastReply .., _, hexec, s.accountReadout_only,
        s.accountReadout_closed⟩
      · obtain ⟨-, -, -, hreadout, -⟩ := ended_outside s { s.closeAll with readout := some s.accountReadout } f 0 .more
          (partBody s.accountReadout 0)
        exact hreadout
      · exact sameFigures_of_eq (s.accountReadout_closed a) (ended_figures ..)
    · exact congrArg _ (manage_calm hreq noJob hsize (readMetersStartAct_printers s hscope) rfl
        (fun _ => Nat.le_refl _) hw (zeroMove_none fun _ => rfl))
  · exact congrArg _ (manage_unchanged hreq noJob rfl hw (readMetersNextAct_none [] hnone))
  · exact congrArg _ (manage_readMetersNext hreq hw
      ((readMetersNextAct_some [] hsome).trans (s.sendPart_more hmore)) ⟨_, rfl⟩)
  · exact congrArg _ (manage_readMetersNext hreq hw
      ((readMetersNextAct_some [] hsome).trans (s.sendPart_last hlast)) ⟨_, rfl⟩)

end Sys2Proof.Machine
end

-- What the operations on a job change: the layer of the job control obligations (O26 to O33).
section
namespace Sys2Proof.Machine

/-! ### Looking up a job -/

theorem State.job?_congr {s t : State} (h : t.jobs = s.jobs) (j : Nat) : t.job? j = s.job? j := by
  unfold State.job?
  rw [h]

theorem State.line_congr {s t : State} (h : t.lines = s.lines) (p : LineNo) : t.line p = s.line p := by
  unfold State.line
  rw [h]

theorem State.account_congr {s t : State} (h : t.accounts = s.accounts) (a : AccountNo) : t.account a = s.account a := by
  unfold State.account
  rw [h]

@[simp] theorem State.job?_modLine (s : State) (p : LineNo) (f : Line → Line) (j : Nat) :
    (s.modLine p f).job? j = s.job? j := rfl

@[simp] theorem State.job?_modAccount (s : State) (a : AccountNo) (f : Account → Account) (j : Nat) :
    (s.modAccount a f).job? j = s.job? j := rfl

@[simp] theorem State.job?_leaveWaiting (s : State) (j k : Nat) : (s.leaveWaiting k).job? j = s.job? j := rfl

@[simp] theorem State.line_modJob (s : State) (j : Nat) (f : Job → Job) (p : LineNo) :
    (s.modJob j f).line p = s.line p := rfl

@[simp] theorem State.line_modAccount (s : State) (a : AccountNo) (f : Account → Account) (p : LineNo) :
    (s.modAccount a f).line p = s.line p := rfl

@[simp] theorem State.line_leaveWaiting (s : State) (j : Nat) (p : LineNo) :
    (s.leaveWaiting j).line p = s.line p := rfl

@[simp] theorem State.account_modJob (s : State) (j : Nat) (f : Job → Job) (a : AccountNo) :
    (s.modJob j f).account a = s.account a := rfl

@[simp] theorem State.account_modLine (s : State) (p : LineNo) (f : Line → Line) (a : AccountNo) :
    (s.modLine p f).account a = s.account a := rfl

@[simp] theorem State.account_leaveWaiting (s : State) (j : Nat) (a : AccountNo) :
    (s.leaveWaiting j).account a = s.account a := rfl

/-- A change of every job record, the number kept. -/
theorem State.job?_map {s t : State} (f : Job → Job) (hf : ∀ x, (f x).number = x.number)
    (h : t.jobs = s.jobs.map f) (j : Nat) : t.job? j = (s.job? j).map f := by
  unfold State.job?
  rw [h, List.find?_map]
  congr 2
  funext x
  simp [hf]

theorem State.job?_modJob (s : State) (j k : Nat) (f : Job → Job) (hf : ∀ x, (f x).number = x.number) :
    (s.modJob j f).job? k = if k = j then (s.job? k).map f else s.job? k := by
  split
  · rename_i hk
    subst hk
    cases hx : s.job? k with
    | none =>
      have hlookup := State.job?_map (s := s) (t := s.modJob k f) (fun x => if x.number = k then f x else x)
        (fun x => by split <;> simp [hf]) rfl k
      rw [hlookup, hx, Option.map_none, Option.map_none]
    | some x => rw [s.job_modJob_self k f x hx hf, Option.map_some]
  · rename_i hk
    exact s.job_modJob_ne f hk hf

theorem State.job?_removeJob (s : State) (j k : Nat) : (s.removeJob j).job? k = if k = j then none else s.job? k := by
  unfold State.removeJob State.job?
  split
  · rename_i hk
    subst hk
    simp
  · rename_i hk
    rw [List.find?_filter]
    congr 1
    funext x
    by_cases hx : x.number = k
    · simp [hx, hk]
    · simp [hx]

theorem State.job?_mem {s : State} {j : Nat} {x : Job} (h : s.job? j = some x) : x ∈ s.jobs :=
  List.mem_of_find?_eq_some h

/-! ### The alert relay and the spool low flag -/

/-- The state with what the alert relay and the spool low flag have of another. -/
def State.signalsOf (s t : State) : State :=
  { s with
    spoolLow := t.spoolLow, alerts := t.alerts, cleared := t.cleared, alertCtr := t.alertCtr, shopOut := t.shopOut }

@[simp] theorem State.signalsOf_jobs (s t : State) : (s.signalsOf t).jobs = s.jobs := rfl

@[simp] theorem State.signalsOf_lines (s t : State) : (s.signalsOf t).lines = s.lines := rfl

@[simp] theorem State.signalsOf_accounts (s t : State) : (s.signalsOf t).accounts = s.accounts := rfl

@[simp] theorem State.signalsOf_meters (s t : State) : (s.signalsOf t).meters = s.meters := rfl

@[simp] theorem State.signalsOf_waiting (s t : State) : (s.signalsOf t).waiting = s.waiting := rfl

@[simp] theorem State.signalsOf_passesWanted (s t : State) : (s.signalsOf t).passesWanted = s.passesWanted := rfl

@[simp] theorem State.signalsOf_stores (s t : State) : (s.signalsOf t).stores = s.stores := rfl

@[simp] theorem State.signalsOf_free (s t : State) : (s.signalsOf t).free = s.free := rfl

@[simp] theorem State.signalsOf_pool (s t : State) : (s.signalsOf t).pool = s.pool := rfl

@[simp] theorem State.signalsOf_quarantine (s t : State) : (s.signalsOf t).quarantine = s.quarantine := rfl

@[simp] theorem State.signalsOf_settings (s t : State) : (s.signalsOf t).settings = s.settings := rfl

@[simp] theorem State.signalsOf_job? (s t : State) (j : Nat) : (s.signalsOf t).job? j = s.job? j := rfl

@[simp] theorem State.signalsOf_line (s t : State) (p : LineNo) : (s.signalsOf t).line p = s.line p := rfl

@[simp] theorem State.signalsOf_account (s t : State) (a : AccountNo) : (s.signalsOf t).account a = s.account a := rfl

theorem State.openAlert_signals (s : State) (k : AlertKind) (subj : Subject) (d : Detail) :
    s.openAlert k subj d = s.signalsOf (s.openAlert k subj d) := by
  rw [State.openAlert_only]
  rfl

theorem State.clearAlert_signals (s : State) (k : AlertKind) (subj : Subject) :
    s.clearAlert k subj = s.signalsOf (s.clearAlert k subj) := by
  rw [State.clearAlert_only]
  rfl

/-- The state with blocks added at the free list's tail. -/
def State.addFree (s : State) (bs : List Block) : State := { s with free := s.free ++ bs }

theorem State.returnBlocks_signals (s : State) (bs : List Block) :
    s.returnBlocks bs = (s.addFree bs).signalsOf (s.returnBlocks bs) := by
  cases bs with
  | nil => simp [State.returnBlocks, State.addFree, State.signalsOf]
  | cons b bs =>
    show State.evalSpoolLow _ = _
    rw [State.evalSpoolLow_only]
    rfl

/-! ### The quota list -/

theorem State.modAccount_same (s : State) (a : AccountNo) (f : Account → Account)
    (h : f (s.account a) = s.account a) : s.modAccount a f = s := by
  rw [State.modAccount, h]
  simp [State.account]

theorem State.leaveQuota_signals (s : State) (a : AccountNo) (j : Nat) :
    s.leaveQuota a j =
      (s.modAccount a fun x => { x with quotaHeld := without j x.quotaHeld }).signalsOf (s.leaveQuota a j) := by
  by_cases hj : j ∈ (s.account a).quotaHeld
  · unfold State.leaveQuota
    rw [if_pos hj]
    dsimp only
    split
    · exact State.clearAlert_signals ..
    · rfl
  · have hlist : without j (s.account a).quotaHeld = (s.account a).quotaHeld :=
      List.filter_eq_self.mpr fun k hk => decide_eq_true fun hkj => hj (hkj ▸ hk)
    have hsame : (s.modAccount a fun x => { x with quotaHeld := without j x.quotaHeld }) = s := by
      refine s.modAccount_same a _ ?_
      rw [hlist]
    rw [hsame]
    simp only [State.leaveQuota, if_neg hj]
    rfl

section
variable (s : State) (a : AccountNo) (j : Nat)

@[simp] theorem State.leaveQuota_jobs : (s.leaveQuota a j).jobs = s.jobs := by rw [State.leaveQuota_signals]; rfl

@[simp] theorem State.leaveQuota_job? (k : Nat) : (s.leaveQuota a j).job? k = s.job? k :=
  State.job?_congr (s.leaveQuota_jobs a j) k

@[simp] theorem State.leaveQuota_lines : (s.leaveQuota a j).lines = s.lines := by rw [State.leaveQuota_signals]; rfl

@[simp] theorem State.leaveQuota_line (p : LineNo) : (s.leaveQuota a j).line p = s.line p :=
  State.line_congr (s.leaveQuota_lines a j) p

@[simp] theorem State.leaveQuota_waiting : (s.leaveQuota a j).waiting = s.waiting := by
  rw [State.leaveQuota_signals]; rfl

@[simp] theorem State.leaveQuota_passesWanted : (s.leaveQuota a j).passesWanted = s.passesWanted := by
  rw [State.leaveQuota_signals]; rfl

@[simp] theorem State.leaveQuota_stores : (s.leaveQuota a j).stores = s.stores := by
  rw [State.leaveQuota_signals]; rfl

@[simp] theorem State.leaveQuota_meters : (s.leaveQuota a j).meters = s.meters := by
  rw [State.leaveQuota_signals]; rfl

@[simp] theorem State.leaveQuota_free : (s.leaveQuota a j).free = s.free := by rw [State.leaveQuota_signals]; rfl

@[simp] theorem State.leaveQuota_pool : (s.leaveQuota a j).pool = s.pool := by rw [State.leaveQuota_signals]; rfl

theorem State.leaveQuota_account (b : AccountNo) : (s.leaveQuota a j).account b =
    if b = a then { s.account b with quotaHeld := without j (s.account b).quotaHeld } else s.account b := by
  rw [State.leaveQuota_signals, State.signalsOf_account]
  split
  · rename_i h
    rw [h, State.account_modAccount_self]
  · rename_i h
    exact s.account_modAccount_ne _ h

end

/-! ### The queue of a line -/

section
variable (s : State) (p : LineNo) (j : Nat)

@[simp] theorem afterChoice_number (queue : List Nat) (c : Option Nat) (x : Job) :
    (afterChoice queue c x).number = x.number := by
  unfold afterChoice
  split
  · rfl
  · split <;> rfl

theorem afterChoice_run_only (queue : List Nat) (c : Option Nat) (x : Job) :
    afterChoice queue c x = { x with run := (afterChoice queue c x).run } := by
  unfold afterChoice
  split
  · rfl
  · split <;> rfl

theorem State.rechoose_job? (k : Nat) :
    (s.rechoose p).job? k = (s.job? k).map (afterChoice (s.line p).queue (s.feedingChoice p)) :=
  State.job?_map _ (afterChoice_number _ _) rfl k

theorem State.rechoose_line_self : (s.rechoose p).line p = { s.line p with feeding := s.feedingChoice p } :=
  State.line_modLine_self _ p _

theorem State.rechoose_line_ne {q : LineNo} (h : q ≠ p) : (s.rechoose p).line q = s.line q :=
  State.line_modLine_ne _ _ h

theorem State.rechoose_line_keeps {α : Type} (figureOf : Line → α)
    (hf : ∀ (l : Line) (c : Option Nat), figureOf { l with feeding := c } = figureOf l) (q : LineNo) :
    figureOf ((s.rechoose p).line q) = figureOf (s.line q) := by
  by_cases hq : q = p
  · subst hq
    rw [State.rechoose_line_self, hf]
  · rw [State.rechoose_line_ne s p hq]

@[simp] theorem State.rechoose_queue (q : LineNo) : ((s.rechoose p).line q).queue = (s.line q).queue :=
  s.rechoose_line_keeps p Line.queue (fun _ _ => rfl) q

@[simp] theorem State.rechoose_inflight (q : LineNo) : ((s.rechoose p).line q).inflight = (s.line q).inflight :=
  s.rechoose_line_keeps p Line.inflight (fun _ _ => rfl) q

@[simp] theorem State.rechoose_accounts : (s.rechoose p).accounts = s.accounts := rfl

@[simp] theorem State.rechoose_account (a : AccountNo) : (s.rechoose p).account a = s.account a := rfl

@[simp] theorem State.rechoose_waiting : (s.rechoose p).waiting = s.waiting := rfl

@[simp] theorem State.rechoose_stores : (s.rechoose p).stores = s.stores := rfl

@[simp] theorem State.rechoose_meters : (s.rechoose p).meters = s.meters := rfl

@[simp] theorem State.rechoose_free : (s.rechoose p).free = s.free := rfl

@[simp] theorem State.rechoose_pool : (s.rechoose p).pool = s.pool := rfl

/-- The job that the choice takes is one that can be fed. -/
theorem State.feedingChoice_feedable {s : State} {p : LineNo} {k : Nat} (h : s.feedingChoice p = some k) :
    k ∈ (s.line p).queue ∧ ∃ x, s.job? k = some x ∧ isFeedable x.run = true := by
  have hrun := List.find?_some h
  refine ⟨List.mem_of_find?_eq_some h, ?_⟩
  simp only [State.runIs] at hrun
  cases hx : s.job? k with
  | none => simp [hx] at hrun
  | some x => exact ⟨x, rfl, by simpa [hx] using hrun⟩

theorem State.runIs_some {s : State} {j : Nat} {x : Job} (h : s.job? j = some x) (P : RunState → Bool) :
    s.runIs j P = P x.run := by
  simp [State.runIs, h]

/-- A job that cannot be fed keeps its record when a line chooses. -/
theorem afterChoice_unfed {s : State} {p : LineNo} {j : Nat} {x : Job} (h : s.job? j = some x)
    (hrun : isFeedable x.run = false) : afterChoice (s.line p).queue (s.feedingChoice p) x = x := by
  have hchoice : s.feedingChoice p ≠ some x.number := by
    intro hc
    obtain ⟨-, y, hy, hfed⟩ := State.feedingChoice_feedable hc
    rw [job_number h, h] at hy
    rw [← Option.some.inj hy, hrun] at hfed
    exact absurd hfed Bool.false_ne_true
  have hfeeding : ¬(x.number ∈ (s.line p).queue ∧ x.run = .feeding) := by
    rintro ⟨-, hx⟩
    rw [hx] at hrun
    exact absurd hrun Bool.noConfusion
  rw [afterChoice, if_neg hchoice, if_neg hfeeding]

theorem State.rechoose_job?_unfed {s : State} {j : Nat} {x : Job} (p : LineNo) (h : s.job? j = some x)
    (hrun : isFeedable x.run = false) : (s.rechoose p).job? j = some x := by
  rw [State.rechoose_job?, h, Option.map_some, afterChoice_unfed h hrun]

/-- A job outside the queue keeps its record. -/
theorem State.rechoose_job?_outside {s : State} {j : Nat} (p : LineNo) (h : j ∉ (s.line p).queue) :
    (s.rechoose p).job? j = s.job? j := by
  rw [State.rechoose_job?]
  cases hx : s.job? j with
  | none => rfl
  | some x =>
    have hnumber := job_number hx
    have hchoice : s.feedingChoice p ≠ some x.number := fun hc =>
      h (hnumber ▸ (State.feedingChoice_feedable hc).1)
    rw [Option.map_some, afterChoice, if_neg hchoice, if_neg fun hq => h (hnumber ▸ hq.1)]

end

/-! ### The entries of a job -/

theorem State.entriesOn_congr {s t : State} {p : LineNo} (h : (t.line p).inflight = (s.line p).inflight) (j : Nat) :
    t.entriesOn p j = s.entriesOn p j := by
  unfold State.entriesOn
  rw [h]

theorem State.entryLine_congr {s t : State} (h : ∀ p, (t.line p).inflight = (s.line p).inflight) (j : Nat) :
    t.entryLine j = s.entryLine j := by
  unfold State.entryLine
  congr 1
  funext p
  rw [State.entriesOn_congr (h p)]

theorem State.hasEntries_congr {s t : State} (h : ∀ p, (t.line p).inflight = (s.line p).inflight) (j : Nat) :
    t.hasEntries j = s.hasEntries j := by
  unfold State.hasEntries
  rw [State.entryLine_congr h]

theorem State.storing_congr {s t : State} (h : t.stores = s.stores) (j : Nat) : t.storing j = s.storing j := by
  unfold State.storing
  rw [h]

end Sys2Proof.Machine
end

-- O26 to O29, O32: job control by run state (R35 to R38), and the job that becomes LEAVING (R48, R34).
section
namespace Sys2Proof.Machine

/-! ### The unbinding of a job -/

/-- The line with a job out of its queue. -/
def withoutJob (j : Nat) (l : Line) : Line := { l with queue := without j l.queue }

/-- The record of a job without a binding. -/
def unboundJob (x : Job) : Job := { x with bound := none }

/-- The job out of the queue, its binding gone (R34). -/
def State.unbound (s : State) (p : LineNo) (j : Nat) : State := (s.modLine p (withoutJob j)).modJob j unboundJob

theorem State.unbound_job? {s : State} {p : LineNo} {j : Nat} {x : Job} (h : s.job? j = some x) :
    (s.unbound p j).job? j = some (unboundJob x) :=
  State.job_modJob_self (s.modLine p (withoutJob j)) j unboundJob x h fun _ => rfl

theorem State.unbind_held {s : State} {p : LineNo} {j : Nat} {x : Job} (h : s.job? j = some x)
    (hrun : x.run = .leaving) (ht : x.leaveTarget = some .held) :
    s.unbind p j = (s.unbound p j).modJob j fun y => { y with run := .held, leaveTarget := none } := by
  unfold State.unbind
  rw [h]
  exact if_pos ⟨hrun, ht⟩

theorem State.unbind_exclude {s : State} {p : LineNo} {j : Nat} {x : Job} (h : s.job? j = some x)
    (hrun : x.run = .leaving) (ht : x.leaveTarget = some .waitingExclude) :
    s.unbind p j = ((s.unbound p j).modJob j fun y => { y with excluded := some p }).enterWaiting j := by
  unfold State.unbind
  rw [h]
  refine (if_neg ?_).trans (if_pos ⟨hrun, ht⟩)
  rw [ht]
  exact fun hheld => absurd hheld.2 (by decide)

theorem State.unbind_waiting {s : State} {p : LineNo} {j : Nat} {x : Job} (h : s.job? j = some x)
    (hheld : ¬(x.run = .leaving ∧ x.leaveTarget = some .held))
    (hexclude : ¬(x.run = .leaving ∧ x.leaveTarget = some .waitingExclude)) :
    s.unbind p j = (s.unbound p j).enterWaiting j := by
  unfold State.unbind
  rw [h]
  exact (if_neg hheld).trans (if_neg hexclude)

/-! ### The waiting list -/

theorem splitRule_number (x : Job) : (splitRule x).number = x.number := by
  unfold splitRule
  split <;> rfl

/-- The record of a job that enters the waiting list (R26, R39). -/
def waitingJob (x : Job) : Job := splitRule { x with run := .waiting, leaveTarget := none, holdReason := none }

theorem waitingJob_number (x : Job) : (waitingJob x).number = x.number := splitRule_number _

theorem State.enterWaiting_job? (s : State) (j k : Nat) :
    (s.enterWaiting j).job? k = if k = j then (s.job? k).map waitingJob else s.job? k :=
  s.job?_modJob j k waitingJob waitingJob_number

theorem mem_insertWaiting (prio : Nat → Nat) (j q k : Nat) (l : List Nat) :
    k ∈ insertWaiting prio j q l ↔ k = j ∨ k ∈ l := by
  induction l with
  | nil => simp [insertWaiting]
  | cons m l ih =>
    unfold insertWaiting
    split
    · simp only [List.mem_cons, ih, or_left_comm]
    · simp only [List.mem_cons]

theorem State.mem_enterWaiting (s : State) (j k : Nat) : k ∈ (s.enterWaiting j).waiting ↔ k = j ∨ k ∈ s.waiting :=
  mem_insertWaiting ..

@[simp] theorem State.enterWaiting_lines (s : State) (j : Nat) : (s.enterWaiting j).lines = s.lines := rfl

@[simp] theorem State.enterWaiting_line (s : State) (j : Nat) (p : LineNo) :
    (s.enterWaiting j).line p = s.line p := rfl

theorem not_mem_without (j : Nat) (l : List Nat) : j ∉ without j l := by simp [without]

theorem not_mem_withoutJob (j : Nat) (l : Line) : j ∉ (withoutJob j l).queue := not_mem_without j l.queue

theorem State.unbound_line_self (s : State) (p : LineNo) (j : Nat) :
    (s.unbound p j).line p = withoutJob j (s.line p) := s.line_modLine_self p (withoutJob j)

theorem State.unbound_line_ne (s : State) {p q : LineNo} (j : Nat) (h : q ≠ p) :
    (s.unbound p j).line q = s.line q := s.line_modLine_ne (withoutJob j) h

/-- The lines after an unbinding are those without the job in the queue. -/
theorem State.unbind_line {s : State} {p : LineNo} {j : Nat} {x : Job} (h : s.job? j = some x) (q : LineNo) :
    (s.unbind p j).line q = (s.unbound p j).line q := by
  by_cases hheld : x.run = .leaving ∧ x.leaveTarget = some .held
  · rw [State.unbind_held h hheld.1 hheld.2]
    rfl
  · by_cases hexclude : x.run = .leaving ∧ x.leaveTarget = some .waitingExclude
    · rw [State.unbind_exclude h hexclude.1 hexclude.2]
      rfl
    · rw [State.unbind_waiting h hheld hexclude]
      rfl

/-! ### A job that becomes LEAVING -/

/-- The record of a job that has become LEAVING. -/
def leavingJob (t : LeaveTarget) (r : Option HoldReason) (x : Job) : Job :=
  { x with run := .leaving, leaveTarget := some t, holdReason := r }

/-- The job LEAVING, and its printer's choice made anew. -/
def State.markLeaving (s : State) (x : Job) (j : Nat) (t : LeaveTarget) (r : Option HoldReason) : State :=
  match x.bound with
  | some p => (s.modJob j (leavingJob t r)).rechoose p
  | none => s.modJob j (leavingJob t r)

section
variable {s : State} {j : Nat} {x : Job} (t : LeaveTarget) (r : Option HoldReason)

theorem State.startLeaving_eq (h : s.job? j = some x) : s.startLeaving j t r = (s.markLeaving x j t r).endLeaving j := by
  unfold State.startLeaving
  rw [h]
  rfl

theorem State.leaving_job? (h : s.job? j = some x) :
    (s.modJob j (leavingJob t r)).job? j = some (leavingJob t r x) := by
  exact s.job_modJob_self j (leavingJob t r) x h fun _ => rfl

theorem State.markLeaving_job? (h : s.job? j = some x) : (s.markLeaving x j t r).job? j = some (leavingJob t r x) := by
  unfold State.markLeaving
  split
  · exact State.rechoose_job?_unfed _ (State.leaving_job? t r h) rfl
  · exact State.leaving_job? t r h

theorem State.markLeaving_inflight (s : State) (x : Job) (j : Nat) (p : LineNo) :
    ((s.markLeaving x j t r).line p).inflight = (s.line p).inflight := by
  unfold State.markLeaving
  split
  · exact State.rechoose_inflight ..
  · rfl

theorem State.markLeaving_passesWanted (s : State) (x : Job) (j : Nat) :
    (s.markLeaving x j t r).passesWanted = s.passesWanted := by
  unfold State.markLeaving
  split <;> rfl

theorem State.endLeaving_entries (h : s.hasEntries j = true) : s.endLeaving j = s := by
  unfold State.endLeaving
  split
  · rfl
  · rw [h, Bool.not_true, Bool.and_false]
    rfl

theorem State.endLeaving_atEnd (h : s.job? j = some x) (hrun : x.run = .leaving) (he : s.hasEntries j = false)
    (hend : atEnd x x.confirm = true) : s.endLeaving j = s.complete j := by
  simp [State.endLeaving, h, hrun, he, hend]

theorem State.endLeaving_bound {p : LineNo} (h : s.job? j = some x) (hrun : x.run = .leaving)
    (he : s.hasEntries j = false) (hend : atEnd x x.confirm = false) (hb : x.bound = some p) :
    s.endLeaving j = (s.unbind p j).rechoose p := by
  simp [State.endLeaving, h, hrun, he, hend, hb]

theorem State.endLeaving_unbound (h : s.job? j = some x) (hrun : x.run = .leaving)
    (hend : atEnd x x.confirm = false) (hb : x.bound = none) :
    s.endLeaving j = s := by
  unfold State.endLeaving
  simp [h, hrun, hend, hb]

theorem State.startLeaving_entries (h : s.job? j = some x) (he : s.hasEntries j = true) :
    s.startLeaving j t r = s.markLeaving x j t r := by
  rw [State.startLeaving_eq t r h, State.endLeaving_entries]
  rw [State.hasEntries_congr (State.markLeaving_inflight t r s x j), he]

theorem State.startLeaving_atEnd (h : s.job? j = some x) (he : s.hasEntries j = false)
    (hend : atEnd x x.confirm = true) : s.startLeaving j t r = (s.markLeaving x j t r).complete j := by
  rw [State.startLeaving_eq t r h]
  refine State.endLeaving_atEnd (State.markLeaving_job? t r h) rfl ?_ hend
  rw [State.hasEntries_congr (State.markLeaving_inflight t r s x j), he]

theorem State.startLeaving_bound {p : LineNo} (h : s.job? j = some x) (he : s.hasEntries j = false)
    (hend : atEnd x x.confirm = false) (hb : x.bound = some p) :
    s.startLeaving j t r = ((s.markLeaving x j t r).unbind p j).rechoose p := by
  rw [State.startLeaving_eq t r h]
  refine State.endLeaving_bound (State.markLeaving_job? t r h) rfl ?_ hend hb
  rw [State.hasEntries_congr (State.markLeaving_inflight t r s x j), he]

theorem State.startLeaving_unbound (h : s.job? j = some x) (hend : atEnd x x.confirm = false)
    (hb : x.bound = none) : s.startLeaving j t r = s.markLeaving x j t r := by
  rw [State.startLeaving_eq t r h]
  exact State.endLeaving_unbound (State.markLeaving_job? t r h) rfl hend hb

end

/-- Outside the queue after the unbinding, and kept as it stands there by the printer's choice. -/
theorem State.leave_job? {s : State} {p : LineNo} {j : Nat} {x : Job} (h : s.job? j = some x) :
    j ∉ (((s.unbind p j).rechoose p).line p).queue ∧
      ((s.unbind p j).rechoose p).job? j = (s.unbind p j).job? j := by
  have hout : j ∉ ((s.unbind p j).line p).queue := by
    rw [State.unbind_line h, State.unbound_line_self]
    exact not_mem_withoutJob j _
  exact ⟨by rwa [State.rechoose_queue], State.rechoose_job?_outside p hout⟩

/-- Settles O32: with entries the job stays where it is, without it goes to its target. -/
theorem leavingEndsWithItsEntries : Obligations.LeavingEndsWithItsEntries := by
  intro s j x t r h
  have hmark := State.markLeaving_job? t r h
  refine ⟨fun he => ?_, fun p hb he hend => ?_⟩
  · rw [State.startLeaving_entries t r h he, hmark]
    rfl
  · rw [State.startLeaving_bound t r h he hend hb]
    obtain ⟨hqueue, hjob⟩ := State.leave_job? (p := p) hmark
    have hunbound := State.unbound_job? (p := p) hmark
    refine ⟨hqueue, ?_, ?_, ?_⟩ <;> rintro rfl
    · rw [hjob, State.unbind_held hmark rfl rfl]
      exact State.job_modJob_self _ j (fun y => { y with run := .held, leaveTarget := none }) _ hunbound fun _ => rfl
    · rw [hjob, State.unbind_waiting hmark (fun hc => by cases hc.2) (fun hc => by cases hc.2), State.rechoose_waiting,
        State.mem_enterWaiting, State.enterWaiting_job?, if_pos rfl, hunbound]
      exact ⟨.inl rfl, rfl⟩
    · have hexcluded := State.job_modJob_self _ j (fun y => { y with excluded := some p }) _ hunbound fun _ => rfl
      rw [hjob, State.unbind_exclude hmark rfl rfl, State.rechoose_waiting,
        State.mem_enterWaiting, State.enterWaiting_job?, if_pos rfl, hexcluded]
      exact ⟨.inl rfl, rfl⟩

end Sys2Proof.Machine
end

-- The end of a job and the return of its storage.
section
namespace Sys2Proof.Machine

/-! ### Leaving the queue -/

section
variable {s : State} {j : Nat} {x : Job} {p : LineNo}

theorem State.unqueue_bound (h : s.job? j = some x) (hb : x.bound = some p) :
    s.unqueue j = (s.unbound p j).rechoose p := by
  unfold State.unqueue
  rw [h]
  dsimp only
  rw [hb]
  rfl

theorem State.unqueue_unbound (h : s.job? j = some x) (hb : x.bound = none) : s.unqueue j = s := by
  unfold State.unqueue
  rw [h]
  dsimp only
  rw [hb]

theorem State.unqueue_none (h : s.job? j = none) : s.unqueue j = s := by
  unfold State.unqueue
  rw [h]

/-- A job outside every queue, its record without a binding. -/
theorem State.unqueue_job? (h : s.job? j = some x) : (s.unqueue j).job? j = some (unboundJob x) := by
  cases hb : x.bound with
  | none =>
    rw [State.unqueue_unbound h hb, h]
    unfold unboundJob
    rw [← hb]
  | some p =>
    have hout : j ∉ ((s.unbound p j).line p).queue := by
      rw [State.unbound_line_self]
      exact not_mem_withoutJob j _
    rw [State.unqueue_bound h hb, State.rechoose_job?_outside p hout, State.unbound_job? h]

end

section
variable (s : State) (j : Nat)

/-- What leaves the queue is the one line and the job table. -/
theorem State.unqueue_only : s.unqueue j = { s with jobs := (s.unqueue j).jobs, lines := (s.unqueue j).lines } := by
  cases h : s.job? j with
  | none => rw [State.unqueue_none h]
  | some x =>
    cases hb : x.bound with
    | none => rw [State.unqueue_unbound h hb]
    | some p =>
      rw [State.unqueue_bound h hb]
      rfl

theorem State.unqueue_line_keeps {α : Type} (figureOf : Line → α)
    (hf : ∀ (l : Line) (c : Option Nat) (k : Nat), figureOf { withoutJob k l with feeding := c } = figureOf l)
    (q : LineNo) : figureOf ((s.unqueue j).line q) = figureOf (s.line q) := by
  cases h : s.job? j with
  | none => rw [State.unqueue_none h]
  | some x =>
    cases hb : x.bound with
    | none => rw [State.unqueue_unbound h hb]
    | some p =>
      rw [State.unqueue_bound h hb]
      by_cases hq : q = p
      · subst hq
        rw [State.rechoose_line_self, State.unbound_line_self, hf]
      · rw [State.rechoose_line_ne _ p hq, State.unbound_line_ne s j hq]

@[simp] theorem State.unqueue_inflight (q : LineNo) : ((s.unqueue j).line q).inflight = (s.line q).inflight :=
  s.unqueue_line_keeps j Line.inflight (fun _ _ _ => rfl) q

@[simp] theorem State.unqueue_accounts : (s.unqueue j).accounts = s.accounts := by rw [State.unqueue_only]

@[simp] theorem State.unqueue_waiting : (s.unqueue j).waiting = s.waiting := by rw [State.unqueue_only]

@[simp] theorem State.unqueue_passesWanted : (s.unqueue j).passesWanted = s.passesWanted := by
  rw [State.unqueue_only]

@[simp] theorem State.unqueue_stores : (s.unqueue j).stores = s.stores := by rw [State.unqueue_only]

@[simp] theorem State.unqueue_meters : (s.unqueue j).meters = s.meters := by rw [State.unqueue_only]

@[simp] theorem State.unqueue_free : (s.unqueue j).free = s.free := by rw [State.unqueue_only]

@[simp] theorem State.unqueue_pool : (s.unqueue j).pool = s.pool := by rw [State.unqueue_only]

end

/-! ### The return of storage -/

section
variable (s : State) (j : Nat)

/-- The state with sheet records and blocks given back and the job's sheets changed. -/
def State.giveBack (n : Nat) (bs : List Block) (f : Job → Job) : State :=
  (({ s with pool := s.pool + n }).modJob j f).addFree bs

/-- A release of storage: records and blocks go back, and the alert relay may speak. -/
theorem State.release_signals (n : Nat) (bs : List Block) (f : Job → Job) :
    (({ s with pool := s.pool + n }).modJob j f).returnBlocks bs =
      (s.giveBack j n bs f).signalsOf ((({ s with pool := s.pool + n }).modJob j f).returnBlocks bs) :=
  State.returnBlocks_signals ..

/-- The record of a job with the sheets that a release of its storage keeps. -/
def releasedJob (storing : Bool) (x : Job) : Job := { x with sheets := keptSheets storing x }

theorem State.releaseStorage_signals {s : State} {j : Nat} {x : Job} (h : s.job? j = some x) :
    s.releaseStorage j = (s.giveBack j (releasedSheets (s.storing j) x).length
      ((releasedSheets (s.storing j) x).flatMap fun (g : Sheet) => g.chain)
      (releasedJob (s.storing j))).signalsOf (s.releaseStorage j) := by
  unfold State.releaseStorage
  rw [h]
  exact State.release_signals ..

theorem State.releaseStorage_none {s : State} {j : Nat} (h : s.job? j = none) : s.releaseStorage j = s := by
  unfold State.releaseStorage
  rw [h]

/-- What a release of storage leaves as it is. -/
theorem State.releaseStorage_only : s.releaseStorage j =
    ({ s with
      jobs := (s.releaseStorage j).jobs, pool := (s.releaseStorage j).pool, free := (s.releaseStorage j).free
      : State }).signalsOf (s.releaseStorage j) := by
  cases h : s.job? j with
  | none =>
    rw [State.releaseStorage_none h]
    rfl
  | some x =>
    rw [State.releaseStorage_signals h]
    rfl

@[simp] theorem State.releaseStorage_lines : (s.releaseStorage j).lines = s.lines := by
  rw [State.releaseStorage_only]
  rfl

@[simp] theorem State.releaseStorage_accounts : (s.releaseStorage j).accounts = s.accounts := by
  rw [State.releaseStorage_only]
  rfl

@[simp] theorem State.releaseStorage_waiting : (s.releaseStorage j).waiting = s.waiting := by
  rw [State.releaseStorage_only]
  rfl

@[simp] theorem State.releaseStorage_passesWanted : (s.releaseStorage j).passesWanted = s.passesWanted := by
  rw [State.releaseStorage_only]
  rfl

@[simp] theorem State.releaseStorage_stores : (s.releaseStorage j).stores = s.stores := by
  rw [State.releaseStorage_only]
  rfl

@[simp] theorem State.releaseStorage_meters : (s.releaseStorage j).meters = s.meters := by
  rw [State.releaseStorage_only]
  rfl

@[simp] theorem State.releaseStorage_quarantine : (s.releaseStorage j).quarantine = s.quarantine := by
  rw [State.releaseStorage_only]
  rfl

theorem State.releaseStorage_job? (k : Nat) : (s.releaseStorage j).job? k =
    if k = j then (s.job? k).map (releasedJob (s.storing j)) else s.job? k := by
  cases h : s.job? j with
  | none =>
    rw [State.releaseStorage_none h]
    split
    · rename_i hk
      rw [hk, h]
      rfl
    · rfl
  | some x =>
    rw [State.releaseStorage_signals h]
    exact ({ s with pool := _ } : State).job?_modJob j k (releasedJob (s.storing j)) fun _ => rfl

/-- The state of a purge before its release: no store of the job under way. -/
def State.dropStores : State := { s with stores := s.stores.filter fun t => decide (t.job ≠ j) }

theorem State.purge_eq : s.purge j = ((s.dropStores j).releaseStorage j).removeJob j := rfl

theorem State.dropStores_storing : (s.dropStores j).storing j = false := by
  simp [State.dropStores, State.storing]

@[simp] theorem State.purge_lines : (s.purge j).lines = s.lines := by
  rw [State.purge_eq, State.removeJob_lines, State.releaseStorage_lines]
  rfl

@[simp] theorem State.purge_accounts : (s.purge j).accounts = s.accounts := by
  rw [State.purge_eq, State.removeJob_accounts, State.releaseStorage_accounts]
  rfl

@[simp] theorem State.purge_waiting : (s.purge j).waiting = s.waiting := by
  rw [State.purge_eq, State.removeJob_waiting, State.releaseStorage_waiting]
  rfl

@[simp] theorem State.purge_passesWanted : (s.purge j).passesWanted = s.passesWanted := by
  rw [State.purge_eq, State.removeJob_passesWanted, State.releaseStorage_passesWanted]
  rfl

@[simp] theorem State.purge_meters : (s.purge j).meters = s.meters := by
  rw [State.purge_eq, State.removeJob_meters, State.releaseStorage_meters]
  rfl

@[simp] theorem State.purge_quarantine : (s.purge j).quarantine = s.quarantine := by
  rw [State.purge_eq, State.removeJob_quarantine, State.releaseStorage_quarantine]
  rfl

theorem State.purge_stores : (s.purge j).stores = s.stores.filter fun t => decide (t.job ≠ j) := by
  rw [State.purge_eq, State.removeJob_stores, State.releaseStorage_stores]
  rfl

theorem State.purge_job? (k : Nat) : (s.purge j).job? k = if k = j then none else s.job? k := by
  rw [State.purge_eq, State.job?_removeJob]
  split
  · rfl
  · rename_i hk
    rw [State.releaseStorage_job?, if_neg hk]
    rfl

theorem State.purge_free {s : State} {j : Nat} {x : Job} (h : s.job? j = some x) :
    (s.purge j).free = s.free ++ x.sheets.flatMap fun (g : Sheet) => g.chain := by
  rw [State.purge_eq, State.removeJob_free, State.releaseStorage_signals (s := s.dropStores j) h, State.dropStores_storing]
  rfl

theorem State.purge_pool {s : State} {j : Nat} {x : Job} (h : s.job? j = some x) :
    (s.purge j).pool = s.pool + x.sheets.length := by
  rw [State.purge_eq, State.removeJob_pool, State.releaseStorage_signals (s := s.dropStores j) h, State.dropStores_storing]
  rfl

end

/-! ### The completion of a job -/

/-- The record of a completed job (R55). -/
def doneJob (x : Job) : Job :=
  { x with run := .done, leaveTarget := none, holdReason := none, excluded := none, binding := 0 }

/-- The completion but for the record that is not retained. -/
def State.finished (s : State) (x : Job) (j : Nat) : State :=
  (((s.unqueue j).leaveWaiting j).modJob j doneJob).leaveQuota x.account j

section
variable {s : State} {j : Nat} {x : Job}

theorem State.complete_retained (h : s.job? j = some x) (hr : x.retain = true) : s.complete j = s.finished x j := by
  unfold State.complete
  rw [h]
  exact if_pos hr

theorem State.complete_purged (h : s.job? j = some x) (hr : x.retain = false) :
    s.complete j = (s.finished x j).purge j := by
  unfold State.complete
  rw [h]
  exact if_neg (by rw [hr]; exact Bool.false_ne_true)

theorem State.finished_job? (h : s.job? j = some x) : (s.finished x j).job? j = some (doneJob (unboundJob x)) := by
  rw [State.finished, State.leaveQuota_job?]
  refine State.job_modJob_self _ j doneJob _ ?_ fun _ => rfl
  rw [State.job?_leaveWaiting, State.unqueue_job? h]

theorem State.complete_passesWanted (s : State) (j : Nat) : (s.complete j).passesWanted = s.passesWanted := by
  cases h : s.job? j with
  | none =>
    unfold State.complete
    rw [h]
  | some x =>
    have hfinished : (s.finished x j).passesWanted = s.passesWanted := by
      simp [State.finished]
    cases hr : x.retain with
    | true => rw [State.complete_retained h hr, hfinished]
    | false => rw [State.complete_purged h hr, State.purge_passesWanted, hfinished]

end

end Sys2Proof.Machine
end

-- O26 to O29: job control by run state (R35 to R38).
section
namespace Sys2Proof.Machine

/-! ### A request whose change causes nothing further -/

theorem available_sameFigures {a b : Account} (h : sameFigures a b) : available b = available a := by
  have hfigures (c : Account) : available c = available { c with quotaHeld := [] } := rfl
  rw [hfigures b, hfigures a, h]

theorem Follows.settings {s t : State} (h : Follows s t) : t.settings = s.settings := by
  obtain ⟨-, -, -, -, -, ⟨-, -, -, -, -, -, -, hsettings⟩, -⟩ := h.outside
  exact hsettings

theorem manage_steady {s u : State} {f : ShopFrame} {args : List Byte} (h : Requested s f args)
    {sizeOk : List Byte → Bool} (jobOf : List Byte → Nat) {act : List Byte → State → Outcome3} {st : Status}
    {body : List Byte} (hs : sizeOk args = true) (hact : act args s = (u, st, body)) (hfollows : Follows s u)
    (hsteady : Steady s u) (hw : NoPassWanted u) :
    manage false sizeOk jobOf act f s = answered s u f (jobOf args) st body :=
  manage_calm h jobOf hs hact (congrArg Settings.port hfollows.settings)
    (fun a => Nat.le_of_eq (available_sameFigures (hsteady.figures a))) hw
    (zeroMove_none fun p => (hsteady.lines p).2)

theorem onJob_some {act : State → Job → State × Status} {args : List Byte} {s : State} {x : Job}
    (h : s.job? (argJob args) = some x) : onJob act args s = ((act s x).1, (act s x).2, []) := by
  unfold onJob
  rw [h]

theorem onJob_none {act : State → Job → State × Status} {args : List Byte} {s : State}
    (h : s.job? (argJob args) = none) : onJob act args s = (s, .unknownJob, []) := by
  unfold onJob
  rw [h]
  rfl

theorem moveJobAct_group {args : List Byte} {g : Fin 8} (s : State) (h : g.val = field args 2 1) :
    moveJobAct args s = onJob (moveAct g) args s := by
  unfold moveJobAct
  simp [← h]

theorem moveJobAct_above {args : List Byte} (s : State) (h : 7 < field args 2 1) :
    moveJobAct args s = (s, .badRequest, []) := by
  have hge : ¬field args 2 1 < 8 := by omega
  unfold moveJobAct
  simp [hge, refuse]

/-- Settles O26. -/
theorem jobControlOfNoJobIsRefused : Obligations.JobControlOfNoJobIsRefused := by
  intro s f args hreq hw
  refine ⟨fun c hc hlen hnone hgroup => ?_, fun hlen habove => ?_⟩
  · simp only [jobControls, List.mem_cons, List.not_mem_nil, or_false] at hc
    obtain rfl | rfl | rfl | rfl | rfl | rfl := hc
    · exact congrArg _ (manage_unchanged hreq argJob (decide_eq_true hlen) hw (onJob_none hnone))
    · exact congrArg _ (manage_unchanged hreq argJob (decide_eq_true hlen) hw (onJob_none hnone))
    · exact congrArg _ (manage_unchanged hreq argJob (decide_eq_true hlen) hw (onJob_none hnone))
    · exact congrArg _ (manage_unchanged hreq argJob (decide_eq_true hlen) hw (onJob_none hnone))
    · exact congrArg _ (manage_unchanged hreq argJob (decide_eq_true hlen) hw
        (act := fun args => onJob (reprintAct (field args 2 2)) args) (onJob_none hnone))
    · have hmove := (moveJobAct_group (g := ⟨field args 2 1, Nat.lt_succ_of_le (hgroup rfl)⟩) s rfl).trans
        (onJob_none hnone)
      exact congrArg _ (manage_unchanged hreq argJob (decide_eq_true hlen) hw hmove)
  · exact congrArg _ (manage_unchanged hreq argJob (decide_eq_true hlen) hw (moveJobAct_above s habove))

end Sys2Proof.Machine
end

-- O27 to O29: HOLD, RELEASE and MOVE of a job by its run state (R36 to R38).
section
namespace Sys2Proof.Machine

/-! ### A job control request -/

section
variable {s : State} {f : ShopFrame} {args : List Byte} {x : Job}

/-- A request about a job whose change causes nothing further. -/
theorem manage_onJob_steady (hreq : Requested s f args) {sizeOk : List Byte → Bool} (hsize : sizeOk args = true)
    (hx : s.job? (argJob args) = some x) (act : State → Job → State × Status) {u : State} {st : Status}
    (hact : act s x = (u, st)) (hfollows : Follows s u) (hsteady : Steady s u) (hw : NoPassWanted u) :
    manage false sizeOk argJob (onJob act) f s = answered s u f x.number st [] := by
  have honJob : onJob act args s = (u, st, []) := by rw [onJob_some hx, hact]
  rw [manage_steady hreq argJob hsize honJob hfollows hsteady hw, job_number hx]

/-- A request about a job whose change may cause more. -/
theorem manage_onJob_ended (hreq : Requested s f args) {sizeOk : List Byte → Bool} (hsize : sizeOk args = true)
    (hx : s.job? (argJob args) = some x) (act : State → Job → State × Status) {u : State} {st : Status}
    (hact : act s x = (u, st)) (hfollows : Follows s u) :
    manage false sizeOk argJob (onJob act) f s = ended s u f x.number st [] := by
  have honJob : onJob act args s = (u, st, []) := by rw [onJob_some hx, hact]
  rw [manage_ended hreq argJob hsize honJob (congrArg Settings.port hfollows.settings), job_number hx]

theorem manage_onJob_refused (hreq : Requested s f args) {sizeOk : List Byte → Bool} (hsize : sizeOk args = true)
    (hx : s.job? (argJob args) = some x) (act : State → Job → State × Status) {st : Status}
    (hact : act s x = (s, st)) (hw : NoPassWanted s) :
    manage false sizeOk argJob (onJob act) f s = answered s s f x.number st [] :=
  manage_onJob_steady hreq hsize hx act hact (.refl s) (.refl s) hw

/-- MOVE JOB judges its group first. -/
theorem manage_moveJob {g : Fin 8} (hreq : Requested s f args) (hlen : args.length = 3)
    (hg : g.val = field args 2 1) :
    manage false (sized 3) argJob moveJobAct f s = manage false (sized 3) argJob (onJob (moveAct g)) f s := by
  rw [manage_requested hreq (sized 3) argJob moveJobAct (decide_eq_true hlen),
    manage_requested hreq (sized 3) argJob (onJob (moveAct g)) (decide_eq_true hlen), moveJobAct_group s hg]

end

/-! ### HOLD JOB -/

theorem State.rechoose_passes (s : State) (p : LineNo) : (s.rechoose p).passesWanted = s.passesWanted := rfl

/-- A job that leaves toward HELD asks for no binding pass. -/
theorem State.startLeaving_held_passes (s : State) (j : Nat) (r : Option HoldReason) :
    (s.startLeaving j .held r).passesWanted = s.passesWanted := by
  cases h : s.job? j with
  | none =>
    unfold State.startLeaving
    rw [h]
  | some x =>
    have hmark := State.markLeaving_passesWanted .held r s x j
    cases he : s.hasEntries j with
    | true => rw [State.startLeaving_entries .held r h he, hmark]
    | false =>
      cases hend : atEnd x x.confirm with
      | true => rw [State.startLeaving_atEnd .held r h he hend, State.complete_passesWanted, hmark]
      | false =>
        cases hb : x.bound with
        | none => rw [State.startLeaving_unbound .held r h hend hb, hmark]
        | some p =>
          rw [State.startLeaving_bound .held r h he hend hb, State.rechoose_passes,
            State.unbind_held (State.markLeaving_job? .held r h) rfl rfl]
          exact hmark

section
variable {s : State} {x : Job}

theorem holdAct_new (h : x.run = .new) : holdAct s x = (s.holdWaiting x.number, .ok) := by simp only [holdAct, h]

theorem holdAct_waiting (h : x.run = .waiting) : holdAct s x = (s.holdWaiting x.number, .ok) := by
  simp only [holdAct, h]

theorem holdAct_bound (h : x.run = .queued ∨ x.run = .feeding ∨ x.run = .draining) :
    holdAct s x = (s.startLeaving x.number .held (some .operator), .ok) := by
  obtain h | h | h := h <;> simp only [holdAct, h]

theorem holdAct_leaving (h : x.run = .leaving) (ht : x.leaveTarget ≠ some .held) : holdAct s x =
    (s.modJob x.number fun y => { y with leaveTarget := some .held, holdReason := some .operator }, .ok) := by
  simp only [holdAct, h, if_neg ht]

theorem holdAct_held (h : x.run = .held ∨ (x.run = .leaving ∧ x.leaveTarget = some .held)) :
    holdAct s x = (if x.holdReason = some .quota then s.holdOperator x else s, .ok) := by
  obtain h | ⟨h, ht⟩ := h
  · simp only [holdAct, h]
  · simp only [holdAct, h, if_pos ht]

theorem holdAct_ended (h : x.run = .done ∨ x.run = .failed ∨ x.run = .cancelled) :
    holdAct s x = (s, .badState) := by
  obtain h | h | h := h <;> simp only [holdAct, h]

end

theorem steady_holdWaiting (s : State) (j : Nat) : Steady s (s.holdWaiting j) := .same rfl rfl rfl

theorem steady_holdOperator (s : State) (x : Job) : Steady s (s.holdOperator x) :=
  (Steady.modJob s _ _).trans (steady_leaveQuota _ _ _)

theorem State.holdOperator_passes (s : State) (x : Job) : (s.holdOperator x).passesWanted = s.passesWanted :=
  State.leaveQuota_passesWanted _ _ _

/-- Settles O27. -/
theorem holdJobByRunState : Obligations.HoldJobByRunState := by
  intro s f args x hreq hlen hw hx
  have hsize : sized 2 args = true := decide_eq_true hlen
  have hfollows := follows_holdAct s x
  have hsteady {u : State} {st : Status} (hact : holdAct s x = (u, st)) (hu : Steady s u)
      (hpasses : u.passesWanted = s.passesWanted) :
      exec (.holdJob f) s = .next (answered s u f x.number st []) := by
    rw [hact] at hfollows
    exact congrArg _ (manage_onJob_steady hreq hsize hx holdAct hact hfollows hu (hpasses.trans hw))
  refine ⟨fun h => ?_, fun h => ?_, fun h ht => ?_, fun h => ⟨fun hr => ?_, fun hr => ?_⟩, fun h => ?_⟩
  · obtain h | h := h
    · exact hsteady (holdAct_new h) (steady_holdWaiting s _) rfl
    · exact hsteady (holdAct_waiting h) (steady_holdWaiting s _) rfl
  · exact hsteady (holdAct_bound h) (steady_startLeaving s _ _ _) (s.startLeaving_held_passes _ _)
  · exact hsteady (holdAct_leaving h ht) (.modJob s _ _) rfl
  · exact hsteady ((holdAct_held h).trans (congrArg (·, Status.ok) (if_pos hr))) (steady_holdOperator s x) (s.holdOperator_passes x)
  · exact hsteady ((holdAct_held h).trans (congrArg (·, Status.ok) (if_neg hr))) (.refl s) rfl
  · exact hsteady (holdAct_ended h) (.refl s) rfl

/-! ### RELEASE JOB -/

section
variable {s : State} {x : Job}

theorem releaseAct_held (h : x.run = .held) (hcount : 1 ≤ completeCount x) :
    releaseAct s x = ((s.leaveQuota x.account x.number).enterWaiting x.number, .ok) := by
  simp only [releaseAct, h, if_neg (Nat.ne_of_gt hcount)]

theorem releaseAct_held_empty (h : x.run = .held) (hcount : completeCount x = 0) : releaseAct s x =
    ((s.leaveQuota x.account x.number).modJob x.number fun y => { y with run := .new, holdReason := none }, .ok) := by
  simp only [releaseAct, h, if_pos hcount]

theorem releaseAct_leaving (h : x.run = .leaving) (ht : x.leaveTarget = some .held) : releaseAct s x =
    ((s.leaveQuota x.account x.number).modJob x.number fun y =>
      { y with leaveTarget := some .waiting, holdReason := none }, .ok) := by
  simp only [releaseAct, h, if_pos ht]

theorem releaseAct_refused (h : x.run ≠ .held) (ht : ¬(x.run = .leaving ∧ x.leaveTarget = some .held)) :
    releaseAct s x = (s, .badState) := by
  unfold releaseAct
  cases hrun : x.run with
  | held => exact absurd hrun h
  | leaving => exact if_neg fun hheld => ht ⟨hrun, hheld⟩
  | new | waiting | queued | feeding | draining | done | failed | cancelled => rfl

end

/-- Settles O28. -/
theorem releaseJobByRunState : Obligations.ReleaseJobByRunState := by
  intro s f args x hreq hlen hw hx
  have hsize : sized 2 args = true := decide_eq_true hlen
  have hfollows := follows_releaseAct s x
  have hquota := steady_leaveQuota s x.account x.number
  have hpasses : (s.leaveQuota x.account x.number).passesWanted = 0 := (s.leaveQuota_passesWanted _ _).trans hw
  refine ⟨fun h hcount => ?_, fun h hcount => ?_, fun h ht => ?_, fun h ht => ?_⟩
  · have hact := releaseAct_held (s := s) h hcount
    rw [hact] at hfollows
    exact congrArg _ (manage_onJob_ended hreq hsize hx releaseAct hact hfollows)
  · have hact := releaseAct_held_empty (s := s) h hcount
    rw [hact] at hfollows
    exact congrArg _ (manage_onJob_steady hreq hsize hx releaseAct hact hfollows (hquota.thenJob _ _) hpasses)
  · have hact := releaseAct_leaving (s := s) h ht
    rw [hact] at hfollows
    exact congrArg _ (manage_onJob_steady hreq hsize hx releaseAct hact hfollows (hquota.thenJob _ _) hpasses)
  · exact congrArg _ (manage_onJob_refused hreq hsize hx releaseAct (releaseAct_refused h ht) hw)

/-! ### MOVE JOB -/

section
variable {s : State} {x : Job} {g : Fin 8}

theorem moveAct_kept (h : x.run = .new ∨ x.run = .held ∨ (x.run = .leaving ∧ x.leaveTarget = some .held)) :
    moveAct g s x = (s.setGroup x.number g, .ok) := by
  obtain h | h | ⟨h, ht⟩ := h
  · simp only [moveAct, h]
  · simp only [moveAct, h]
  · simp only [moveAct, h, if_pos ht]

theorem moveAct_waiting (h : x.run = .waiting) : moveAct g s x =
    (((s.setGroup x.number g).modJob x.number fun y => { y with excluded := none }).wantPass, .ok) := by
  simp only [moveAct, h]

theorem moveAct_bound (h : x.run = .queued ∨ x.run = .feeding ∨ x.run = .draining) :
    moveAct g s x = ((s.setGroup x.number g).startLeaving x.number .waiting none, .ok) := by
  obtain h | h | h := h <;> simp only [moveAct, h]

theorem moveAct_leaving (h : x.run = .leaving) (ht : x.leaveTarget ≠ some .held) : moveAct g s x =
    ((s.setGroup x.number g).modJob x.number fun y => { y with leaveTarget := some .waiting }, .ok) := by
  simp only [moveAct, h, if_neg ht]

theorem moveAct_ended (h : x.run = .done ∨ x.run = .failed ∨ x.run = .cancelled) :
    moveAct g s x = (s, .badState) := by
  obtain h | h | h := h <;> simp only [moveAct, h]

end

/-- Settles O29. -/
theorem moveJobByRunState : Obligations.MoveJobByRunState := by
  intro s f args x g hreq hlen hw hx hg
  have hsize : sized 3 args = true := decide_eq_true hlen
  have hmove := manage_moveJob hreq hlen hg
  have hgroup : Steady s (s.setGroup x.number g) := .modJob s _ _
  have hsteady {u : State} {st : Status} (hact : moveAct g s x = (u, st)) (hu : Steady s u)
      (hpasses : u.passesWanted = s.passesWanted) : exec (.moveJob f) s = .next (answered s u f x.number st []) := by
    have hfollows := follows_moveAct g s x
    rw [hact] at hfollows
    exact congrArg _ (hmove.trans
      (manage_onJob_steady hreq hsize hx (moveAct g) hact hfollows hu (hpasses.trans hw)))
  have hended {u : State} {st : Status} (hact : moveAct g s x = (u, st)) :
      exec (.moveJob f) s = .next (ended s u f x.number st []) := by
    have hfollows := follows_moveAct g s x
    rw [hact] at hfollows
    exact congrArg _ (hmove.trans (manage_onJob_ended hreq hsize hx (moveAct g) hact hfollows))
  refine ⟨fun h => ?_, fun h => ?_, fun h => ?_, fun h ht => ?_, fun h => ?_⟩
  · exact hsteady (moveAct_kept h) hgroup rfl
  · exact hended (moveAct_waiting h)
  · exact hended (moveAct_bound h)
  · exact hsteady (moveAct_leaving h ht) (hgroup.thenJob _ _) rfl
  · exact hsteady (moveAct_ended h) (.refl s) rfl

end Sys2Proof.Machine
end

-- O30: REPRINT JOB and PURGE JOB (R41, R42).
section
namespace Sys2Proof.Machine

section
variable {s : State} {x : Job}

/-! ### REPRINT JOB -/

theorem manage_reprintJob {f : ShopFrame} {args : List Byte} (hreq : Requested s f args) (hlen : args.length = 4) :
    manage false (sized 4) argJob (fun args => onJob (reprintAct (field args 2 2)) args) f s =
      manage false (sized 4) argJob (onJob (reprintAct (field args 2 2))) f s := by
  rw [manage_requested hreq (sized 4) argJob (fun args => onJob (reprintAct (field args 2 2)) args)
      (decide_eq_true hlen),
    manage_requested hreq (sized 4) argJob (onJob (reprintAct (field args 2 2))) (decide_eq_true hlen)]

theorem reprintAct_done (n : Nat) (h : x.run = .done ∧ x.retain = true ∧ 1 ≤ completeCount x) :
    reprintAct n s x = ((s.modJob x.number (reprinted n)).enterWaiting x.number, .ok) := if_pos h

theorem reprintAct_refused (n : Nat) (h : ¬(x.run = .done ∧ x.retain = true ∧ 1 ≤ completeCount x)) :
    reprintAct n s x = (s, .badState) := if_neg h

theorem reprinted_eq (n : Nat) : reprinted n = fun y =>
    { y with copies := max 1 (min 255 n), dispatch := ⟨0, 0⟩, confirm := ⟨0, 0⟩, noProgress := 0, binding := 0 } := by
  funext y
  rw [reprinted, clamp_eq _ (by decide)]

/-! ### PURGE JOB -/

/-- The run states of a job that has ended. -/
def EndedRun (x : Job) : Prop := x.run = .done ∨ x.run = .failed ∨ x.run = .cancelled

theorem jobLive_false_iff : jobLive x = false ↔ EndedRun x := by
  simp only [jobLive, EndedRun, Bool.not_eq_false', Bool.or_eq_true, decide_eq_true_eq, or_assoc]

theorem purgeAct_live (h : ¬EndedRun x) : purgeAct s x = (s, .badState) := by
  have hlive : jobLive x = true := by
    rw [← Bool.not_eq_false, jobLive_false_iff]
    exact h
  simp [purgeAct, hlive]

theorem purgeAct_busy (h : EndedRun x) (he : s.hasEntries x.number = true) : purgeAct s x = (s, .busy) := by
  simp [purgeAct, jobLive_false_iff.mpr h, he]

theorem purgeAct_storing (h : EndedRun x) (he : s.hasEntries x.number = false) (hs : s.storing x.number = true) :
    purgeAct s x = (s.markPurge x.number, .ok) := by
  simp [purgeAct, jobLive_false_iff.mpr h, he, hs]

theorem purgeAct_freed (h : EndedRun x) (he : s.hasEntries x.number = false) (hs : s.storing x.number = false) :
    purgeAct s x = (s.purge x.number, .ok) := by
  simp [purgeAct, jobLive_false_iff.mpr h, he, hs]

/-- Without a store under way a purge leaves the stores. -/
theorem State.purge_stores_idle {j : Nat} (hs : s.storing j = false) : (s.purge j).stores = s.stores := by
  rw [State.purge_stores, List.filter_eq_self]
  intro t ht
  exact decide_eq_true fun hj => by
    have hany := List.any_eq_false.mp hs t ht
    simp [hj] at hany

end

/-- Settles O30. -/
theorem endedJobsReprintAndPurge : Obligations.EndedJobsReprintAndPurge := by
  intro s f args x hreq hw hx
  have hxj : s.job? x.number = some x := by rwa [job_number hx]
  refine ⟨fun hlen hrun hretain hcount => ?_, fun hlen hnot => ?_, fun hlen hlive => ?_, fun hlen hended he => ?_,
    fun hlen hended he hs => ?_, fun hlen hended he hs => ?_⟩
  · have hact := reprintAct_done (s := s) (field args 2 2) ⟨hrun, hretain, hcount⟩
    have hfollows := follows_reprintAct (field args 2 2) s x
    rw [hact] at hfollows
    rw [← reprinted_eq (field args 2 2)]
    exact congrArg _ ((manage_reprintJob hreq hlen).trans
      (manage_onJob_ended hreq (decide_eq_true hlen) hx _ hact hfollows))
  · exact congrArg _ ((manage_reprintJob hreq hlen).trans
      (manage_onJob_refused hreq (decide_eq_true hlen) hx _ (reprintAct_refused _ hnot) hw))
  · exact congrArg _ (manage_onJob_refused hreq (decide_eq_true hlen) hx purgeAct (purgeAct_live hlive) hw)
  · exact congrArg _ (manage_onJob_refused hreq (decide_eq_true hlen) hx purgeAct (purgeAct_busy hended he) hw)
  · have honJob : onJob purgeAct args s = (s.markPurge x.number, .ok, []) := by
      rw [onJob_some hx, purgeAct_storing hended he hs]
    have hanswer := manage_calm hreq argJob (sizeOk := sized 2) (decide_eq_true hlen) honJob rfl
      (fun _ => Nat.le_refl _) hw (zeroMove_none fun _ => rfl)
    rw [← job_number hx] at hanswer
    exact congrArg _ hanswer
  · have hfollows := follows_purge s x.number
    have hanswer := manage_onJob_steady hreq (sizeOk := sized 2) (decide_eq_true hlen) hx purgeAct
      (purgeAct_freed hended he hs) hfollows (steady_purge s x.number) ((s.purge_passesWanted x.number).trans hw)
    refine ⟨s.purge x.number, congrArg _ hanswer, ?_, fun k hk => ?_, State.purge_pool hxj, State.purge_free hxj,
      s.purge_quarantine _, s.purge_lines _, s.purge_accounts _, s.purge_meters _, s.purge_waiting _,
      State.purge_stores_idle hs, hfollows.outside⟩
    · rw [State.purge_job?, if_pos rfl]
    · rw [State.purge_job?, if_neg hk]

end Sys2Proof.Machine
end

-- The end of a job by a cancel or a failure, and the request of a flush.
section
namespace Sys2Proof.Machine

/-! ### The lines after a job has left its queue -/

theorem State.unqueue_line {s : State} {j : Nat} {x : Job} (h : s.job? j = some x) (q : LineNo) :
    (s.unqueue j).line q = if x.bound = some q then
      { withoutJob j (s.line q) with feeding := (s.unbound q j).feedingChoice q } else s.line q := by
  cases hb : x.bound with
  | none => rw [State.unqueue_unbound h hb, if_neg (by simp)]
  | some p =>
    rw [State.unqueue_bound h hb]
    by_cases hq : q = p
    · subst hq
      rw [if_pos rfl, State.rechoose_line_self, State.unbound_line_self]
    · rw [if_neg fun hp => hq (Option.some.inj hp).symm, State.rechoose_line_ne _ p hq, State.unbound_line_ne s j hq]

theorem State.feedingChoice_unbound (s : State) (p : LineNo) (j : Nat) : (s.unbound p j).feedingChoice p ≠ some j := by
  intro hc
  have hqueue := (State.feedingChoice_feedable hc).1
  rw [State.unbound_line_self] at hqueue
  exact not_mem_withoutJob j _ hqueue

/-! ### The discard of an open sheet -/

/-- The record of a job without its last sheet. -/
def dropSheet (x : Job) : Job := { x with sheets := x.sheets.dropLast }

section
variable {s : State} {j : Nat} {x : Job}

theorem State.discardOpen_open {g : Sheet} (h : s.job? j = some x) (ho : openSheet x = some g) :
    s.discardOpen j = (s.giveBack j 1 g.chain dropSheet).signalsOf (s.discardOpen j) := by
  unfold State.discardOpen
  rw [h]
  dsimp only
  rw [ho]
  exact State.release_signals ..

theorem State.discardOpen_closed (h : s.job? j = some x) (ho : openSheet x = none) : s.discardOpen j = s := by
  unfold State.discardOpen
  rw [h]
  dsimp only
  rw [ho]

theorem State.discardOpen_none (h : s.job? j = none) : s.discardOpen j = s := by
  unfold State.discardOpen
  rw [h]

theorem State.discardOpen_job? (h : s.job? j = some x) : (s.discardOpen j).job? j =
    some { x with sheets := if (openSheet x).isSome = true then x.sheets.dropLast else x.sheets } := by
  cases ho : openSheet x with
  | none =>
    rw [State.discardOpen_closed h ho, h]
    rfl
  | some g =>
    rw [State.discardOpen_open h ho]
    exact ({ s with pool := s.pool + 1 } : State).job_modJob_self j dropSheet x h fun _ => rfl

theorem State.discardOpen_free (h : s.job? j = some x) : (s.discardOpen j).free =
    s.free ++ (match openSheet x with
      | some g => g.chain
      | none => []) := by
  cases ho : openSheet x with
  | none =>
    rw [State.discardOpen_closed h ho]
    exact (List.append_nil _).symm
  | some g =>
    rw [State.discardOpen_open h ho]
    rfl

theorem State.discardOpen_pool (h : s.job? j = some x) : (s.discardOpen j).pool =
    s.pool + if (openSheet x).isSome = true then 1 else 0 := by
  cases ho : openSheet x with
  | none =>
    rw [State.discardOpen_closed h ho]
    rfl
  | some g =>
    rw [State.discardOpen_open h ho]
    rfl

end

section
variable (s : State) (j : Nat)

/-- What a discard leaves as it is. -/
theorem State.discardOpen_only : s.discardOpen j =
    ({ s with
      jobs := (s.discardOpen j).jobs, pool := (s.discardOpen j).pool, free := (s.discardOpen j).free
      : State }).signalsOf (s.discardOpen j) := by
  cases h : s.job? j with
  | none =>
    rw [State.discardOpen_none h]
    rfl
  | some x =>
    cases ho : openSheet x with
    | none =>
      rw [State.discardOpen_closed h ho]
      rfl
    | some g =>
      rw [State.discardOpen_open h ho]
      rfl

theorem State.discardOpen_job?_ne {k : Nat} (hk : k ≠ j) : (s.discardOpen j).job? k = s.job? k := by
  cases h : s.job? j with
  | none => rw [State.discardOpen_none h]
  | some x =>
    cases ho : openSheet x with
    | none => rw [State.discardOpen_closed h ho]
    | some g =>
      rw [State.discardOpen_open h ho]
      exact ({ s with pool := s.pool + 1 } : State).job_modJob_ne dropSheet hk fun _ => rfl

/-- What a discard that a store may keep back leaves as it is. -/
theorem State.discardUnlessStoring_only : s.discardOpenUnlessStoring j =
    ({ s with
      jobs := (s.discardOpenUnlessStoring j).jobs, pool := (s.discardOpenUnlessStoring j).pool
      free := (s.discardOpenUnlessStoring j).free : State }).signalsOf (s.discardOpenUnlessStoring j) := by
  unfold State.discardOpenUnlessStoring
  split
  · rfl
  · exact s.discardOpen_only j

end

/-! ### A killed job -/

/-- The record of a job ended by a cancel or a failure (R39, R57). -/
def killedJob (run : RunState) (x : Job) : Job :=
  { x with run := run, leaveTarget := none, holdReason := none, excluded := none }

/-- The job out of every list. -/
def State.killed (s : State) (x : Job) (j : Nat) (run : RunState) : State :=
  (((s.modJob j (killedJob run)).leaveWaiting j).unqueue j).leaveQuota x.account j

section
variable {s : State} {j : Nat} {x : Job} (run : RunState)

theorem State.kill_eq (h : s.job? j = some x) : s.kill j run = (s.killed x j run).discardOpenUnlessStoring j := by
  unfold State.kill
  rw [h]
  rfl

theorem State.kill_none (h : s.job? j = none) : s.kill j run = s := by
  unfold State.kill
  rw [h]

theorem State.killing_job? (h : s.job? j = some x) :
    ((s.modJob j (killedJob run)).leaveWaiting j).job? j = some (killedJob run x) :=
  s.job_modJob_self j (killedJob run) x h fun _ => rfl

theorem State.killed_job? (h : s.job? j = some x) :
    (s.killed x j run).job? j = some (unboundJob (killedJob run x)) := by
  rw [State.killed, State.leaveQuota_job?, State.unqueue_job? (State.killing_job? run h)]

theorem State.killed_line (h : s.job? j = some x) (q : LineNo) : (s.killed x j run).line q =
    if x.bound = some q then
      { withoutJob j (s.line q) with
        feeding := (((s.modJob j (killedJob run)).leaveWaiting j).unbound q j).feedingChoice q }
    else s.line q := by
  rw [State.killed, State.leaveQuota_line, State.unqueue_line (State.killing_job? run h)]
  rfl

@[simp] theorem State.killed_waiting (s : State) (x : Job) (j : Nat) :
    (s.killed x j run).waiting = without j s.waiting := by simp [State.killed]

@[simp] theorem State.killed_stores (s : State) (x : Job) (j : Nat) : (s.killed x j run).stores = s.stores := by
  simp [State.killed]

@[simp] theorem State.killed_meters (s : State) (x : Job) (j : Nat) : (s.killed x j run).meters = s.meters := by
  simp [State.killed]

@[simp] theorem State.killed_free (s : State) (x : Job) (j : Nat) : (s.killed x j run).free = s.free := by
  simp [State.killed]

@[simp] theorem State.killed_pool (s : State) (x : Job) (j : Nat) : (s.killed x j run).pool = s.pool := by
  simp [State.killed]

@[simp] theorem State.killed_passesWanted (s : State) (x : Job) (j : Nat) :
    (s.killed x j run).passesWanted = s.passesWanted := by simp [State.killed]

@[simp] theorem State.killed_inflight (s : State) (x : Job) (j : Nat) (q : LineNo) :
    ((s.killed x j run).line q).inflight = (s.line q).inflight := by simp [State.killed]

theorem State.killed_account (s : State) (x : Job) (j : Nat) (a : AccountNo) : (s.killed x j run).account a =
    if a = x.account then { s.account a with quotaHeld := without j (s.account a).quotaHeld } else s.account a := by
  rw [State.killed, State.leaveQuota_account, State.account_congr (State.unqueue_accounts _ j) a]
  rfl

theorem State.killed_storing (s : State) (x : Job) (j : Nat) : (s.killed x j run).storing j = s.storing j :=
  State.storing_congr (s.killed_stores run x j) j

/-- The sheets a killed job keeps: a store under way keeps the open one for its end (R11). -/
def killedSheets (storing : Bool) (x : Job) : List Sheet :=
  if (openSheet x).isSome = true ∧ storing = false then x.sheets.dropLast else x.sheets

/-- The blocks of the open sheet that the kill discards. -/
def discardedBlocks (storing : Bool) (x : Job) : List Block :=
  match openSheet x with
  | some g => if storing = true then [] else g.chain
  | none => []

theorem State.kill_job? (h : s.job? j = some x) : (s.kill j run).job? j =
    some { unboundJob (killedJob run x) with sheets := killedSheets (s.storing j) x } := by
  have hkilled := State.killed_job? run h
  rw [State.kill_eq run h, State.discardOpenUnlessStoring, State.killed_storing]
  cases hs : s.storing j with
  | true =>
    rw [if_pos rfl, hkilled, killedSheets, if_neg fun hc => Bool.noConfusion hc.2]
    rfl
  | false =>
    rw [if_neg Bool.false_ne_true, State.discardOpen_job? hkilled, killedSheets]
    simp only [and_true]
    rfl

theorem State.kill_free (h : s.job? j = some x) : (s.kill j run).free = s.free ++ discardedBlocks (s.storing j) x := by
  have hkilled := State.killed_job? run h
  have hopen : openSheet (unboundJob (killedJob run x)) = openSheet x := rfl
  rw [State.kill_eq run h, State.discardOpenUnlessStoring, State.killed_storing]
  cases hs : s.storing j with
  | true =>
    rw [if_pos rfl, State.killed_free, discardedBlocks]
    cases openSheet x <;> exact (List.append_nil _).symm
  | false =>
    rw [if_neg Bool.false_ne_true, State.discardOpen_free hkilled, hopen, State.killed_free, discardedBlocks]
    cases openSheet x <;> rfl

theorem State.kill_pool (h : s.job? j = some x) :
    (s.kill j run).pool + (killedSheets (s.storing j) x).length = s.pool + x.sheets.length := by
  have hkilled := State.killed_job? run h
  have hopen : openSheet (unboundJob (killedJob run x)) = openSheet x := rfl
  rw [State.kill_eq run h, State.discardOpenUnlessStoring, State.killed_storing]
  cases hs : s.storing j with
  | true => rw [if_pos rfl, State.killed_pool, killedSheets, if_neg fun hc => Bool.noConfusion hc.2]
  | false =>
    rw [if_neg Bool.false_ne_true, State.discardOpen_pool hkilled, hopen, State.killed_pool, killedSheets]
    cases ho : openSheet x with
    | none => simp
    | some g =>
      have hlen := congrArg List.length (openSheet_some ho)
      simp only [List.length_append, List.length_dropLast, List.length_singleton] at hlen
      simp only [Option.isSome_some, and_self, if_true, List.length_dropLast]
      omega

/-- What a kill leaves as it is. -/
theorem State.kill_only (h : s.job? j = some x) : s.kill j run =
    ({ s.killed x j run with
      jobs := (s.kill j run).jobs, pool := (s.kill j run).pool, free := (s.kill j run).free
      : State }).signalsOf (s.kill j run) := by
  rw [State.kill_eq run h]
  exact (s.killed x j run).discardUnlessStoring_only j

theorem State.kill_line (h : s.job? j = some x) (q : LineNo) : (s.kill j run).line q = (s.killed x j run).line q := by
  rw [State.kill_only run h]
  rfl

theorem State.kill_account (h : s.job? j = some x) (a : AccountNo) :
    (s.kill j run).account a = (s.killed x j run).account a := by
  rw [State.kill_only run h]
  rfl

theorem State.kill_waiting (h : s.job? j = some x) : (s.kill j run).waiting = without j s.waiting := by
  rw [State.kill_only run h]
  exact s.killed_waiting run x j

theorem State.kill_job?_ne (h : s.job? j = some x) {k : Nat} (hk : k ≠ j) :
    (s.kill j run).job? k = (s.killed x j run).job? k := by
  rw [State.kill_eq run h, State.discardOpenUnlessStoring]
  split
  · rfl
  · exact State.discardOpen_job?_ne _ j hk

end

section
variable (s : State) (j : Nat) (run : RunState)

@[simp] theorem State.kill_stores : (s.kill j run).stores = s.stores := by
  cases h : s.job? j with
  | none => rw [State.kill_none run h]
  | some x =>
    rw [State.kill_only run h]
    exact s.killed_stores run x j

@[simp] theorem State.kill_meters : (s.kill j run).meters = s.meters := by
  cases h : s.job? j with
  | none => rw [State.kill_none run h]
  | some x =>
    rw [State.kill_only run h]
    exact s.killed_meters run x j

@[simp] theorem State.kill_passesWanted : (s.kill j run).passesWanted = s.passesWanted := by
  cases h : s.job? j with
  | none => rw [State.kill_none run h]
  | some x =>
    rw [State.kill_only run h]
    exact s.killed_passesWanted run x j

@[simp] theorem State.kill_inflight (q : LineNo) : ((s.kill j run).line q).inflight = (s.line q).inflight := by
  cases h : s.job? j with
  | none => rw [State.kill_none run h]
  | some x => rw [State.kill_line run h, State.killed_inflight]

theorem State.kill_entryLine (k : Nat) : (s.kill j run).entryLine k = s.entryLine k :=
  State.entryLine_congr (s.kill_inflight j run) k

end

theorem steady_discardOpen (s : State) (j : Nat) : Steady s (s.discardOpen j) := by
  rw [State.discardOpen_only]
  exact .same rfl rfl rfl

theorem steady_kill (s : State) (j : Nat) (run : RunState) : Steady s (s.kill j run) := by
  cases h : s.job? j with
  | none =>
    rw [State.kill_none run h]
    exact .refl s
  | some x =>
    have hkilled : Steady s (s.killed x j run) :=
      ((Steady.modJob s j _).trans (steady_leaveWaiting _ j)).trans
        ((steady_unqueue _ j).trans (steady_leaveQuota _ _ j))
    rw [State.kill_only run h]
    exact hkilled.trans (.same rfl rfl rfl)

/-! ### The request of a flush (R92) -/

/-- A line on which a flush can be asked for. -/
def Flushable (l : Line) : Prop := l.state ≠ .down ∧ l.state ≠ .standby ∧ l.state ≠ .retired

section
variable (s : State) (p : LineNo) (u : Purpose)

theorem State.requestFlush_only : s.requestFlush p u = { s with lines := (s.requestFlush p u).lines } := by
  unfold State.requestFlush
  split
  · rfl
  · split <;> rfl

theorem State.requestFlush_line_ne {q : LineNo} (hq : q ≠ p) : (s.requestFlush p u).line q = s.line q := by
  unfold State.requestFlush
  split
  · rfl
  · split <;> exact s.line_modLine_ne _ hq

theorem State.requestFlush_start {s : State} {p : LineNo} (h : Flushable (s.line p))
    (hf : flushPending (s.line p).flush = false) :
    s.requestFlush p u = s.modLine p (flushStartLine s.settings u) := by
  obtain ⟨hdown, hstandby, hretired⟩ := h
  simp [State.requestFlush, hdown, hstandby, hretired, hf]

theorem State.requestFlush_join {s : State} {p : LineNo} (h : Flushable (s.line p))
    (hf : flushPending (s.line p).flush = true) : s.requestFlush p u = s.modLine p (flushJoinLine u) := by
  obtain ⟨hdown, hstandby, hretired⟩ := h
  simp [State.requestFlush, hdown, hstandby, hretired, hf]

theorem State.requestFlush_off {s : State} {p : LineNo} (h : ¬Flushable (s.line p)) : s.requestFlush p u = s := by
  unfold State.requestFlush
  refine if_pos ?_
  by_cases hdown : (s.line p).state = .down
  · exact .inl hdown
  · by_cases hstandby : (s.line p).state = .standby
    · exact .inr (.inl hstandby)
    · exact .inr (.inr (Decidable.byContradiction fun hretired => h ⟨hdown, hstandby, hretired⟩))

/-- A figure that a flush does not speak of. -/
theorem State.requestFlush_line_keeps {α : Type} (figureOf : Line → α)
    (hstart : ∀ l, figureOf (flushStartLine s.settings u l) = figureOf l)
    (hjoin : ∀ l, figureOf (flushJoinLine u l) = figureOf l) (q : LineNo) :
    figureOf ((s.requestFlush p u).line q) = figureOf (s.line q) := by
  unfold State.requestFlush
  split
  · rfl
  · split
    · exact s.line_modLine_keeps figureOf p _ hjoin q
    · exact s.line_modLine_keeps figureOf p _ hstart q

@[simp] theorem State.requestFlush_jobs : (s.requestFlush p u).jobs = s.jobs := by rw [State.requestFlush_only]

@[simp] theorem State.requestFlush_job? (j : Nat) : (s.requestFlush p u).job? j = s.job? j :=
  State.job?_congr (s.requestFlush_jobs p u) j

@[simp] theorem State.requestFlush_accounts : (s.requestFlush p u).accounts = s.accounts := by
  rw [State.requestFlush_only]

@[simp] theorem State.requestFlush_account (a : AccountNo) : (s.requestFlush p u).account a = s.account a :=
  State.account_congr (s.requestFlush_accounts p u) a

@[simp] theorem State.requestFlush_waiting : (s.requestFlush p u).waiting = s.waiting := by
  rw [State.requestFlush_only]

@[simp] theorem State.requestFlush_passesWanted : (s.requestFlush p u).passesWanted = s.passesWanted := by
  rw [State.requestFlush_only]

@[simp] theorem State.requestFlush_stores : (s.requestFlush p u).stores = s.stores := by rw [State.requestFlush_only]

@[simp] theorem State.requestFlush_meters : (s.requestFlush p u).meters = s.meters := by rw [State.requestFlush_only]

@[simp] theorem State.requestFlush_free : (s.requestFlush p u).free = s.free := by rw [State.requestFlush_only]

@[simp] theorem State.requestFlush_pool : (s.requestFlush p u).pool = s.pool := by rw [State.requestFlush_only]

@[simp] theorem State.requestFlush_queue (q : LineNo) : ((s.requestFlush p u).line q).queue = (s.line q).queue :=
  s.requestFlush_line_keeps p u Line.queue (fun _ => rfl) (fun _ => rfl) q

@[simp] theorem State.requestFlush_feeding (q : LineNo) :
    ((s.requestFlush p u).line q).feeding = (s.line q).feeding :=
  s.requestFlush_line_keeps p u Line.feeding (fun _ => rfl) (fun _ => rfl) q

end

end Sys2Proof.Machine
end

-- O31: CANCEL JOB and JOB CANCEL (R39, R40).
section
namespace Sys2Proof.Machine

/-! ### The cancel of a live job -/

section
variable {s : State} {j : Nat}

theorem State.hasEntries_some {p : LineNo} (h : s.entryLine j = some p) : s.hasEntries j = true := by
  rw [State.hasEntries, h]
  rfl

theorem State.entryLine_none (h : s.hasEntries j = false) : s.entryLine j = none := by
  rwa [State.hasEntries, Option.isSome_eq_false_iff, Option.isNone_iff_eq_none] at h

theorem State.entryLine_some (h : s.hasEntries j = true) : ∃ p, s.entryLine j = some p :=
  Option.isSome_iff_exists.mp h

theorem State.cancelLive_flush {p : LineNo} (h : s.entryLine j = some p) :
    s.cancelLive j = (s.kill j .cancelled).requestFlush p .cancel := by
  unfold State.cancelLive
  dsimp only
  rw [State.kill_entryLine, h]

theorem State.cancelLive_release (h : s.entryLine j = none) :
    s.cancelLive j = (s.kill j .cancelled).releaseStorage j := by
  unfold State.cancelLive
  dsimp only
  rw [State.kill_entryLine, h]

/-- A figure of a line that neither the queue nor a flush speaks of. -/
theorem State.cancelLive_cases (P : State → Prop) (s : State) (j : Nat)
    (hflush : ∀ p, s.entryLine j = some p → P ((s.kill j .cancelled).requestFlush p .cancel))
    (hrelease : s.entryLine j = none → P ((s.kill j .cancelled).releaseStorage j)) : P (s.cancelLive j) := by
  cases h : s.entryLine j with
  | none =>
    rw [State.cancelLive_release h]
    exact hrelease h
  | some p =>
    rw [State.cancelLive_flush h]
    exact hflush p h

theorem steady_cancelLive (s : State) (j : Nat) : Steady s (s.cancelLive j) :=
  State.cancelLive_cases (Steady s) s j (fun p _ => (steady_kill s j _).trans (steady_requestFlush _ p _))
    fun _ => (steady_kill s j _).trans (steady_releaseStorage _ j)

theorem State.cancelLive_passesWanted (s : State) (j : Nat) : (s.cancelLive j).passesWanted = s.passesWanted :=
  State.cancelLive_cases (fun t => t.passesWanted = s.passesWanted) s j (fun p _ => by simp) fun _ => by simp

theorem State.cancelLive_waiting {x : Job} (h : s.job? j = some x) : (s.cancelLive j).waiting = without j s.waiting :=
  State.cancelLive_cases (fun t => t.waiting = without j s.waiting) s j
    (fun p _ => by rw [State.requestFlush_waiting, State.kill_waiting _ h])
    fun _ => by rw [State.releaseStorage_waiting, State.kill_waiting _ h]

theorem State.cancelLive_meters (s : State) (j : Nat) : (s.cancelLive j).meters = s.meters :=
  State.cancelLive_cases (fun t => t.meters = s.meters) s j (fun p _ => by simp) fun _ => by simp

theorem State.cancelLive_stores (s : State) (j : Nat) : (s.cancelLive j).stores = s.stores :=
  State.cancelLive_cases (fun t => t.stores = s.stores) s j (fun p _ => by simp) fun _ => by simp

theorem State.cancelLive_account {x : Job} (h : s.job? j = some x) (a : AccountNo) :
    (s.cancelLive j).account a =
      if a = x.account then { s.account a with quotaHeld := without j (s.account a).quotaHeld } else s.account a := by
  rw [← State.killed_account .cancelled s x j a, ← State.kill_account .cancelled h a]
  exact State.cancelLive_cases (fun t => t.account a = (s.kill j .cancelled).account a) s j
    (fun p _ => State.requestFlush_account ..) fun _ => State.account_congr (State.releaseStorage_accounts ..) a

/-- The lines of a cancelled job: out of its queue, and its entries under a flush. -/
theorem State.cancelLive_line {x : Job} (h : s.job? j = some x) (q : LineNo) :
    (s.cancelLive j).line q = if s.entryLine j = some q then
      ((s.kill j .cancelled).requestFlush q .cancel).line q else (s.killed x j .cancelled).line q := by
  rw [← State.kill_line .cancelled h q]
  cases he : s.entryLine j with
  | none =>
    rw [State.cancelLive_release he, if_neg (by simp)]
    exact State.line_congr (State.releaseStorage_lines ..) q
  | some p =>
    rw [State.cancelLive_flush he]
    by_cases hq : q = p
    · subst hq
      rw [if_pos rfl]
    · rw [if_neg fun hp => hq (Option.some.inj hp).symm, State.requestFlush_line_ne _ p _ hq]

/-- The record of a cancelled job before the release of its storage. -/
def cancelledJob (storing : Bool) (x : Job) : Job :=
  { unboundJob (killedJob .cancelled x) with sheets := killedSheets storing x }

theorem State.cancelLive_job?_flush {x : Job} (h : s.job? j = some x) (he : s.hasEntries j = true) :
    (s.cancelLive j).job? j = some (cancelledJob (s.storing j) x) := by
  obtain ⟨p, hp⟩ := State.entryLine_some he
  rw [State.cancelLive_flush hp, State.requestFlush_job?, State.kill_job? _ h]
  rfl

theorem State.cancelLive_free_flush {x : Job} (h : s.job? j = some x) (he : s.hasEntries j = true) :
    (s.cancelLive j).free = s.free ++ discardedBlocks (s.storing j) x := by
  obtain ⟨p, hp⟩ := State.entryLine_some he
  rw [State.cancelLive_flush hp, State.requestFlush_free, State.kill_free _ h]

theorem State.cancelLive_pool_flush {x : Job} (h : s.job? j = some x) (he : s.hasEntries j = true) :
    (s.cancelLive j).pool + (killedSheets (s.storing j) x).length = s.pool + x.sheets.length := by
  obtain ⟨p, hp⟩ := State.entryLine_some he
  rw [State.cancelLive_flush hp, State.requestFlush_pool, State.kill_pool _ h]

theorem State.kill_storing (s : State) (j : Nat) (run : RunState) : (s.kill j run).storing j = s.storing j :=
  State.storing_congr (s.kill_stores j run) j

theorem State.cancelLive_job?_release {x : Job} (h : s.job? j = some x) (he : s.hasEntries j = false) :
    (s.cancelLive j).job? j =
      some { cancelledJob (s.storing j) x with sheets := keptSheets (s.storing j) (cancelledJob (s.storing j) x) } := by
  rw [State.cancelLive_release (State.entryLine_none he), State.releaseStorage_job?, if_pos rfl, State.kill_job? _ h,
    State.kill_storing]
  rfl

theorem State.cancelLive_free_release {x : Job} (h : s.job? j = some x) (he : s.hasEntries j = false) :
    (s.cancelLive j).free = s.free ++ discardedBlocks (s.storing j) x ++
      (releasedSheets (s.storing j) (cancelledJob (s.storing j) x)).flatMap fun (g : Sheet) => g.chain := by
  rw [State.cancelLive_release (State.entryLine_none he), State.releaseStorage_signals (State.kill_job? _ h),
    State.kill_storing, ← State.kill_free .cancelled h]
  rfl

theorem State.cancelLive_pool_release {x : Job} (h : s.job? j = some x) (he : s.hasEntries j = false) :
    (s.cancelLive j).pool + (keptSheets (s.storing j) (cancelledJob (s.storing j) x)).length =
      s.pool + x.sheets.length := by
  have hpool := State.kill_pool .cancelled h
  have hsheets := (released_kept (s.storing j) (cancelledJob (s.storing j) x)).length_eq
  rw [List.length_append] at hsheets
  have hrelease : (s.cancelLive j).pool =
      (s.kill j .cancelled).pool + (releasedSheets (s.storing j) (cancelledJob (s.storing j) x)).length := by
    rw [State.cancelLive_release (State.entryLine_none he), State.releaseStorage_signals (State.kill_job? _ h),
      State.kill_storing]
    rfl
  have hkilled : (cancelledJob (s.storing j) x).sheets.length = (killedSheets (s.storing j) x).length := rfl
  omega

/-! #### The printer of the entries -/

theorem flushStartLine_cancel (t : Settings) (l : Line) :
    (flushStartLine t .cancel l).flush = ⟨false, true, false, false, false, false⟩ ∧
      (flushStartLine t .cancel l).inflight = l.inflight.map (fun e => { e with flushing := true }) ∧
      (flushStartLine t .cancel l).fifo = [] ∧ (flushStartLine t .cancel l).control = l.control ++ [.cancelSheets] ∧
      (flushStartLine t .cancel l).flushLimit = timerStart t.flushLimit := ⟨rfl, rfl, rfl, rfl, rfl⟩

theorem State.kill_settings (s : State) (j : Nat) (run : RunState) : (s.kill j run).settings = s.settings :=
  (follows_kill s j run).settings

/-- What the kill leaves of a line beside its queue. -/
theorem State.kill_line_keeps {α : Type} (figureOf : Line → α) (s : State) (j : Nat) (run : RunState)
    (hf : ∀ (l : Line) (c : Option Nat) (k : Nat), figureOf { withoutJob k l with feeding := c } = figureOf l)
    (q : LineNo) : figureOf ((s.kill j run).line q) = figureOf (s.line q) := by
  cases h : s.job? j with
  | none => rw [State.kill_none run h]
  | some x =>
    rw [State.kill_line run h, State.killed_line run h]
    split
    · exact hf _ _ _
    · rfl

theorem State.kill_flushable {run : RunState} {p : LineNo} (h : Flushable (s.line p)) :
    Flushable ((s.kill j run).line p) := by
  unfold Flushable
  rw [State.kill_line_keeps Line.state s j run (fun _ _ _ => rfl) p]
  exact h

/-- The line of the entries when the kill starts a flush. -/
theorem State.kill_flush_start {run : RunState} {p : LineNo} (u : Purpose) (h : Flushable (s.line p))
    (hf : flushPending (s.line p).flush = false) :
    ((s.kill j run).requestFlush p u).line p = flushStartLine s.settings u ((s.kill j run).line p) := by
  have hflush := State.kill_line_keeps Line.flush s j run (fun _ _ _ => rfl) p
  rw [State.requestFlush_start u (State.kill_flushable h) (by rw [hflush, hf]), State.line_modLine_self,
    State.kill_settings]

/-- The line of the entries when the kill joins a flush. -/
theorem State.kill_flush_join {run : RunState} {p : LineNo} (u : Purpose) (h : Flushable (s.line p))
    (hf : flushPending (s.line p).flush = true) :
    ((s.kill j run).requestFlush p u).line p = flushJoinLine u ((s.kill j run).line p) := by
  have hflush := State.kill_line_keeps Line.flush s j run (fun _ _ _ => rfl) p
  rw [State.requestFlush_join u (State.kill_flushable h) (by rw [hflush, hf]), State.line_modLine_self]

end

/-! ### JOB CANCEL -/

theorem cancel_cancelled {s : State} {x : Job} (h : x.run = .cancelled) : s.cancel x = (s, .ok) := if_pos h

theorem cancel_ended {s : State} {x : Job} (h : x.run = .done ∨ x.run = .failed) : s.cancel x = (s, .badState) := by
  have hnot : x.run ≠ .cancelled := by
    obtain h | h := h <;> rw [h] <;> decide
  exact (if_neg hnot).trans (if_pos h)

theorem cancel_live {s : State} {x : Job} (h : jobLive x = true) : s.cancel x = (s.cancelLive x.number, .ok) := by
  have hended : ¬EndedRun x := by
    rw [← jobLive_false_iff, h]
    exact Bool.noConfusion
  unfold EndedRun at hended
  rw [not_or, not_or] at hended
  obtain ⟨hdone, hfailed, hcancelled⟩ := hended
  exact (if_neg hcancelled).trans (if_neg (not_or.mpr ⟨hdone, hfailed⟩))

/-- The answer of a job frame whose change causes nothing further. -/
theorem State.doJobFrame_steady {s u : State} {k : JobFrame} {f : ShopFrame} {st : Status} {body : List Byte}
    (h : s.jobFrame k f = (u, some (st, body))) (hsteady : Steady s u) (hw : NoPassWanted u) :
    s.doJobFrame k f = u.refreshIdle.answerJob s.settings.port f st body := by
  have hcalm : settleEvent s u = u.refreshIdle :=
    settleEvent_calm (fun a => Nat.le_of_eq (available_sameFigures (hsteady.figures a))) hw
      (zeroMove_none fun p => (hsteady.lines p).2)
  unfold State.doJobFrame
  rw [h]
  exact congrArg (fun t : State => t.answerJob s.settings.port f st body) hcalm

theorem State.mustWait_cancel {s : State} {j : Nat} : s.mustWait .jobCancel j = false ↔
    ∀ h ∈ s.held, heldIsFrame h = true → heldJob h ≠ j := by
  simp [State.mustWait]

theorem State.queued_congr {s t : State} (hs : t.stores = s.stores) (hh : t.held = s.held) (j : Nat) :
    t.queued j = s.queued j := by
  unfold State.queued
  rw [State.storing_congr hs, hh]

/-- A JOB CANCEL that is taken, its reply behind the store when one is under way (R11, R183). -/
theorem exec_jobCancel {s u : State} {f : ShopFrame} {st : Status} (h : JobFrameTaken s f [])
    (hheld : ∀ h ∈ s.held, heldIsFrame h = true → heldJob h ≠ f.job.toNat)
    (hframe : s.jobCancelFrame f = (u, some (st, []))) (hsteady : Steady s u) (hw : NoPassWanted u)
    (hstores : u.stores = s.stores) (hkept : u.held = s.held) :
    exec (.jobCancel f) s = .next (if s.queued f.job.toNat = true then
      { u.refreshIdle with held := s.held ++ [.answer f st []] } else answered s u f f.job.toNat st []) := by
  have hdo := State.doJobFrame_steady (k := .jobCancel) hframe hsteady hw
  have hqueued : u.refreshIdle.queued f.job.toNat = s.queued f.job.toNat := State.queued_congr hstores hkept _
  have hexec := congrArg (Host.Outcome.next (φ := Fault) (ρ := Refusal))
    ((takeJobFrame_taken .jobCancel h rfl (State.mustWait_cancel.mpr hheld)).trans hdo)
  refine hexec.trans ?_
  unfold State.answerJob
  rw [hqueued]
  split
  · rw [← hkept]
    rfl
  · rfl

theorem JobFrameTaken.form {s : State} {f : ShopFrame} {body : List Byte} (h : JobFrameTaken s f body)
    {sizeOk : Nat → Bool} (hs : sizeOk body.length = true) : s.jobFormRefusal sizeOk f = none := by
  obtain ⟨-, hv, hl, hr, hlive⟩ := h
  have hlen : body.length ≤ f.rest.length := by
    have := congrArg List.length hr
    simp only [List.length_take] at this
    omega
  simp [State.jobFormRefusal, headerOk, hv, hl, hlive, hs, hlen]

theorem takeJobFrame_waits {s : State} {f : ShopFrame} {body : List Byte} (k : JobFrame) (h : JobFrameTaken s f body)
    (hs : bodyFits k body.length = true) (hq : s.mustWait k f.job.toNat = true) :
    takeJobFrame k f s = { s with held := s.held ++ [.frame k f] } := by
  have hform := h.form hs
  obtain ⟨ha, -⟩ := h
  simp only [takeJobFrame, ha, hform, hq]
  rfl

theorem exec_jobCancel_waits {s : State} {f : ShopFrame} (h : JobFrameTaken s f [])
    (hheld : ∃ h ∈ s.held, heldIsFrame h = true ∧ heldJob h = f.job.toNat) :
    exec (.jobCancel f) s = .next { s with held := s.held ++ [.frame .jobCancel f] } := by
  have hwait : s.mustWait .jobCancel f.job.toNat = true := by
    obtain ⟨x, hx, hframe, hjob⟩ := hheld
    exact List.any_eq_true.mpr ⟨x, hx, by simp [hframe, hjob]⟩
  exact congrArg _ (takeJobFrame_waits .jobCancel h rfl hwait)

/-! ### The statement -/

/-- The effect of the cancel of a live job, but for its storage. -/
theorem State.cancelLive_effect {s : State} {x : Job} (h : s.job? x.number = some x) :
    (∀ k, k ∈ (s.cancelLive x.number).waiting ↔ k ∈ s.waiting ∧ k ≠ x.number) ∧
      (∀ p, x.bound = some p → ((s.cancelLive x.number).line p).queue = without x.number (s.line p).queue ∧
        ((s.cancelLive x.number).line p).feeding ≠ some x.number) ∧
      (∀ p, x.bound ≠ some p → s.entryLine x.number ≠ some p → (s.cancelLive x.number).line p = s.line p) ∧
      ∀ a, sameFigures (s.account a) ((s.cancelLive x.number).account a) ∧
        ((s.cancelLive x.number).account a).quotaHeld =
          if a = x.account then without x.number (s.account a).quotaHeld else (s.account a).quotaHeld := by
  refine ⟨fun k => ?_, fun p hb => ?_, fun p hb he => ?_, fun a => ?_⟩
  · rw [State.cancelLive_waiting h]
    simp [without]
  · have hline := State.killed_line .cancelled h p
    rw [if_pos hb] at hline
    rw [State.cancelLive_line h]
    split
    · rw [State.requestFlush_queue, State.requestFlush_feeding, State.kill_line _ h, hline]
      exact ⟨rfl, State.feedingChoice_unbound _ p _⟩
    · rw [hline]
      exact ⟨rfl, State.feedingChoice_unbound _ p _⟩
  · rw [State.cancelLive_line h, if_neg he, State.killed_line _ h, if_neg hb]
  · rw [State.cancelLive_account h]
    split
    · exact ⟨rfl, rfl⟩
    · exact ⟨rfl, rfl⟩

/-- The flush that the entries of a cancelled job take. -/
theorem State.cancelLive_flush_line {s : State} {j : Nat} {p : LineNo} (he : s.entryLine j = some p)
    (hp : Flushable (s.line p)) :
    (flushPending (s.line p).flush = false →
      ((s.cancelLive j).line p).flush = ⟨false, true, false, false, false, false⟩ ∧
        ((s.cancelLive j).line p).inflight = (s.line p).inflight.map (fun e => { e with flushing := true }) ∧
        ((s.cancelLive j).line p).fifo = [] ∧
        ((s.cancelLive j).line p).control = (s.line p).control ++ [.cancelSheets] ∧
        ((s.cancelLive j).line p).flushLimit = timerStart s.settings.flushLimit) ∧
      (flushPending (s.line p).flush = true →
        ((s.cancelLive j).line p).flush = { (s.line p).flush with cancel := true } ∧
          ((s.cancelLive j).line p).inflight = (s.line p).inflight ∧
          ((s.cancelLive j).line p).fifo = (s.line p).fifo ∧
          ((s.cancelLive j).line p).control = (s.line p).control ∧
          ((s.cancelLive j).line p).flushLimit = (s.line p).flushLimit) := by
  have hkeeps {α : Type} (figureOf : Line → α)
      (hf : ∀ (l : Line) (c : Option Nat) (k : Nat), figureOf { withoutJob k l with feeding := c } = figureOf l) :=
    State.kill_line_keeps figureOf s j .cancelled hf p
  have hflush := hkeeps Line.flush fun _ _ _ => rfl
  have hinflight := hkeeps Line.inflight fun _ _ _ => rfl
  have hfifo := hkeeps Line.fifo fun _ _ _ => rfl
  have hcontrol := hkeeps Line.control fun _ _ _ => rfl
  have hlimit := hkeeps Line.flushLimit fun _ _ _ => rfl
  rw [State.cancelLive_flush he]
  refine ⟨fun hf => ?_, fun hf => ?_⟩
  · rw [State.kill_flush_start .cancel hp hf, ← hinflight, ← hcontrol]
    exact flushStartLine_cancel ..
  · rw [State.kill_flush_join .cancel hp hf, ← hflush, ← hinflight, ← hfifo, ← hcontrol, ← hlimit]
    exact ⟨rfl, rfl, rfl, rfl, rfl⟩

/-- A store under way keeps the open sheet of its job for its end. -/
theorem keptSheets_cancelled (storing : Bool) (x : Job) :
    keptSheets storing (cancelledJob storing x) = keptSheets storing x := by
  cases storing with
  | false => rfl
  | true =>
    have hsheets : (cancelledJob true x).sheets = x.sheets := if_neg fun hc => Bool.noConfusion hc.2
    unfold keptSheets
    rw [hsheets]

theorem releasedSheets_cancelled (storing : Bool) (x : Job) : releasedSheets storing (cancelledJob storing x) =
    if storing = true then x.sheets.filter (fun g => decide (g.state = .complete)) else killedSheets storing x := by
  cases storing with
  | false => rfl
  | true =>
    have hsheets : (cancelledJob true x).sheets = x.sheets := if_neg fun hc => Bool.noConfusion hc.2
    unfold releasedSheets
    rw [hsheets]
    rfl

theorem jobCancelFrame_permitted {s u : State} {f : ShopFrame} {x : Job} {st : Status}
    (hx : s.job? f.job.toNat = some x) (hpermit : f.src = x.source ∨ s.isManager f.src = true)
    (hcancel : s.cancel x = (u, st)) : s.jobCancelFrame f = (u, some (st, [])) := by
  have hallowed : ¬(decide (f.src ≠ x.source) && !s.isManager f.src) = true := by
    obtain hsrc | hmanager := hpermit
    · simp [hsrc]
    · simp [hmanager]
  unfold State.jobCancelFrame
  rw [hx]
  refine (if_neg hallowed).trans ?_
  rw [hcancel]

theorem Follows.held {s t : State} (h : Follows s t) : t.held = s.held := by
  obtain ⟨-, -, -, -, -, -, -, -, -, -, -, -, -, hheld, -⟩ := h.outside
  exact hheld

/-- Settles O31: the request, the job frame, and what the cancel of a live job does. -/
theorem cancelJobEndsALiveJob : Obligations.CancelJobEndsALiveJob := by
  refine ⟨fun s f args x hreq hlen hw hx => ⟨fun hrun => ?_, fun hrun => ?_, fun hlive => ?_⟩,
    fun s f h hw => ⟨fun hheld => exec_jobCancel_waits h hheld, fun hheld => ⟨fun hnone => ?_, fun x hx =>
      ⟨fun hsrc hmanager => ?_, fun hallowed => ⟨fun hrun => ?_, fun hrun => ?_, fun hlive => ?_⟩⟩⟩⟩,
    fun s x h => ?_⟩
  · exact congrArg _ (manage_onJob_refused hreq (decide_eq_true hlen) hx State.cancel (cancel_cancelled hrun) hw)
  · exact congrArg _ (manage_onJob_refused hreq (decide_eq_true hlen) hx State.cancel (cancel_ended hrun) hw)
  · exact congrArg _ (manage_onJob_steady hreq (decide_eq_true hlen) hx State.cancel (cancel_live hlive)
      (follows_cancelLive s _) (steady_cancelLive s _) ((State.cancelLive_passesWanted s _).trans hw))
  · have hframe : s.jobCancelFrame f = (s, some (.unknownJob, [])) := by
      unfold State.jobCancelFrame
      rw [hnone]
    exact exec_jobCancel h hheld hframe (.refl s) hw rfl rfl
  · have hframe : s.jobCancelFrame f = (s, some (.notPermitted, [])) := by
      unfold State.jobCancelFrame
      rw [hx]
      exact if_pos (by simp [hsrc, hmanager])
    exact exec_jobCancel h hheld hframe (.refl s) hw rfl rfl
  · exact exec_jobCancel h hheld (jobCancelFrame_permitted hx hallowed (cancel_cancelled hrun)) (.refl s) hw rfl rfl
  · exact exec_jobCancel h hheld (jobCancelFrame_permitted hx hallowed (cancel_ended hrun)) (.refl s) hw rfl rfl
  · have hcancel := cancel_live (s := s) hlive
    rw [job_number hx] at hcancel
    exact exec_jobCancel h hheld (jobCancelFrame_permitted hx hallowed hcancel) (steady_cancelLive s _)
      ((State.cancelLive_passesWanted s _).trans hw) (State.cancelLive_stores s _) (follows_cancelLive s _).held
  · obtain ⟨hwaiting, hqueue, hline, haccount⟩ := State.cancelLive_effect h
    refine ⟨fun he => ⟨?_, ?_, ?_⟩, fun he => ⟨State.cancelLive_job?_flush h he, State.cancelLive_free_flush h he,
      State.cancelLive_pool_flush h he⟩, fun p he hdown hstandby hretired =>
      State.cancelLive_flush_line he ⟨hdown, hstandby, hretired⟩, hwaiting, hqueue, hline, haccount,
      State.cancelLive_meters s _, State.cancelLive_stores s _, (follows_cancelLive s _).outside⟩
    · have hjob := State.cancelLive_job?_release h he
      rwa [keptSheets_cancelled] at hjob
    · have hfree := State.cancelLive_free_release h he
      rwa [releasedSheets_cancelled] at hfree
    · have hpool := State.cancelLive_pool_release h he
      rwa [keptSheets_cancelled] at hpool

end Sys2Proof.Machine
end

-- O33: the places of a job, the choice of a printer and the binding pass (R26 to R33).
section
namespace Sys2Proof.Machine

/-! ### The places in the lists (R26, R33) -/

theorem insertWaiting_place (prio : Nat → Nat) (j q : Nat) (l : List Nat) :
    ∃ a b, l = a ++ b ∧ insertWaiting prio j q l = a ++ j :: b ∧ (∀ k ∈ a, q ≤ prio k) ∧
      ∀ k, b.head? = some k → prio k < q := by
  induction l with
  | nil => exact ⟨[], [], rfl, rfl, by simp, by simp⟩
  | cons m l ih =>
    obtain ⟨a, b, hl, hins, ha, hb⟩ := ih
    by_cases hm : q ≤ prio m
    · refine ⟨m :: a, b, by rw [hl]; rfl, ?_, ?_, hb⟩
      · rw [insertWaiting, if_pos hm, hins]
        rfl
      · exact List.forall_mem_cons.mpr ⟨hm, ha⟩
    · refine ⟨[], m :: l, rfl, ?_, by simp, fun k hk => ?_⟩
      · rw [insertWaiting, if_neg hm]
        rfl
      · rw [← Option.some.inj hk]
        exact Nat.not_le.mp hm

theorem insertAfterLast_place {α : Type} (P : α → Bool) (j : α) (l : List α) :
    ∃ a b, l = a ++ b ∧ insertAfterLast P j l = a ++ j :: b ∧ (∀ k, a.getLast? = some k → P k = true) ∧
      ∀ k ∈ b, P k = false := by
  induction l with
  | nil => exact ⟨[], [], rfl, rfl, by simp, by simp⟩
  | cons m l ih =>
    obtain ⟨a, b, hl, hins, ha, hb⟩ := ih
    by_cases hany : (m :: l).any P = true
    · refine ⟨m :: a, b, by rw [hl]; rfl, ?_, fun k hk => ?_, hb⟩
      · rw [insertAfterLast, if_pos hany, hins]
        rfl
      · cases a with
        | nil =>
          have hm : m = k := by simpa using hk
          rw [hl, List.nil_append, List.any_cons, Bool.or_eq_true] at hany
          obtain hp | hp := hany
          · rwa [← hm]
          · obtain ⟨y, hy, hpy⟩ := List.any_eq_true.mp hp
            rw [hb y hy] at hpy
            exact absurd hpy Bool.false_ne_true
        | cons n a => exact ha k (by simpa [List.getLast?_cons_cons] using hk)
    · refine ⟨[], m :: l, rfl, ?_, by simp, fun k hk => ?_⟩
      · rw [insertAfterLast, if_neg hany]
        rfl
      · exact Bool.not_eq_true _ ▸ fun hp => hany (List.any_eq_true.mpr ⟨k, hk, hp⟩)

theorem insertAfterLast_congr {α : Type} {P Q : α → Bool} (j : α) {l : List α} (h : ∀ k ∈ l, P k = Q k) :
    insertAfterLast P j l = insertAfterLast Q j l := by
  induction l with
  | nil => rfl
  | cons m l ih =>
    have hany : (m :: l).any P = (m :: l).any Q := by
      rw [Bool.eq_iff_iff, List.any_eq_true, List.any_eq_true]
      exact exists_congr fun k => and_congr_right fun hk => by rw [h k hk]
    rw [insertAfterLast, insertAfterLast, hany, ih fun k hk => h k (List.mem_cons_of_mem m hk)]

/-- A job whose place in a queue is behind another's of its priority (R33). -/
theorem State.goesBehind_iff (s : State) (q k : Nat) : s.goesBehind q k = true ↔ ∃ y, s.job? k = some y ∧
    (y.run = .feeding ∨ y.run = .draining ∨ y.run = .leaving ∨ (y.run = .queued ∧ q ≤ y.priority)) := by
  unfold State.goesBehind
  cases s.job? k with
  | none => simp
  | some x => simp [or_assoc]

/-! ### The choice of a printer (R28, R30, R31) -/

theorem eq_zero_and_not_iff (a b : BitVec 16) :
    a &&& ~~~b = 0#16 ↔ ∀ i : Fin 16, a.getLsbD i = true → b.getLsbD i = true := by
  constructor
  · intro h i ha
    have hbit := congrArg (fun v : BitVec 16 => v.getLsbD i) h
    simpa [ha] using hbit
  · intro h
    refine BitVec.eq_of_getLsbD_eq fun i hi => ?_
    have hbit := h ⟨i, hi⟩
    simp only [BitVec.getLsbD_and, BitVec.getLsbD_not, BitVec.getLsbD_zero, hi, decide_true, Bool.true_and]
    cases ha : a.getLsbD i with
    | false => rfl
    | true => simp [hbit ha]

theorem State.eligible_iff (s : State) (x : Job) (p : LineNo) : s.eligible x p = true ↔
    (((s.line p).state = .ready ∨ (s.line p).state = .waking ∨ (s.line p).state = .standby) ∧
      x.excluded ≠ some p ∧
      ∀ i : Fin 16, x.mediaSet.getLsbD i = true → (s.rosterOf p).mediaMask.getLsbD i = true) := by
  unfold State.eligible
  simp only [Bool.and_eq_true, Bool.or_eq_true, decide_eq_true_eq, eq_zero_and_not_iff]
  rw [or_assoc, and_assoc]
  exact and_congr_right fun _ => and_comm

/-- The step of the EARLIEST choice: the first printer of least estimate. -/
def leastEstimate (cost : LineNo → Nat) (best : Option LineNo) (p : LineNo) : Option LineNo :=
  match best with
  | none => some p
  | some b => if cost p < cost b then some p else some b

/-- The first element of least cost of a list, from a best one before it. -/
theorem foldl_leastEstimate (cost : LineNo → Nat) (l : List LineNo) (b : LineNo) :
    ∃ p, l.foldl (leastEstimate cost) (some b) = some p ∧ cost p ≤ cost b ∧ (∀ q ∈ l, cost p ≤ cost q) ∧
      (p = b ∨ ∃ a c, l = a ++ p :: c ∧ cost p < cost b ∧ ∀ q ∈ a, cost p < cost q) := by
  induction l generalizing b with
  | nil => exact ⟨b, rfl, Nat.le_refl _, by simp, .inl rfl⟩
  | cons m l ih =>
    by_cases hm : cost m < cost b
    · obtain ⟨p, hp, hpm, hall, hplace⟩ := ih m
      have hpb : cost p < cost b := Nat.lt_of_le_of_lt hpm hm
      refine ⟨p, ?_, Nat.le_of_lt hpb, List.forall_mem_cons.mpr ⟨hpm, hall⟩, .inr ?_⟩
      · rw [List.foldl_cons, leastEstimate, if_pos hm, hp]
      · obtain rfl | ⟨a, c, hl, hlt, ha⟩ := hplace
        · exact ⟨[], l, rfl, hpb, by simp⟩
        · exact ⟨m :: a, c, by rw [hl]; rfl, hpb, List.forall_mem_cons.mpr ⟨hlt, ha⟩⟩
    · obtain ⟨p, hp, hpb, hall, hplace⟩ := ih b
      have hpm : cost p ≤ cost m := Nat.le_trans hpb (Nat.not_lt.mp hm)
      refine ⟨p, ?_, hpb, List.forall_mem_cons.mpr ⟨hpm, hall⟩, ?_⟩
      · rw [List.foldl_cons, leastEstimate, if_neg hm, hp]
      · obtain rfl | ⟨a, c, hl, hlt, ha⟩ := hplace
        · exact .inl rfl
        · exact .inr ⟨m :: a, c, by rw [hl]; rfl, hlt, List.forall_mem_cons.mpr
            ⟨Nat.lt_of_lt_of_le hlt (Nat.not_lt.mp hm), ha⟩⟩

theorem foldl_leastEstimate_none (cost : LineNo → Nat) (l : List LineNo) :
    (l.foldl (leastEstimate cost) none = none ↔ l = []) ∧
      ∀ p, l.foldl (leastEstimate cost) none = some p →
        ∃ a c, l = a ++ p :: c ∧ (∀ q ∈ a, cost p < cost q) ∧ ∀ q ∈ c, cost p ≤ cost q := by
  cases l with
  | nil => simp
  | cons m l =>
    obtain ⟨p, hp, -, hall, hplace⟩ := foldl_leastEstimate cost l m
    have hfold : (m :: l).foldl (leastEstimate cost) none = some p := hp
    rw [hfold]
    refine ⟨by simp, fun r hr => ?_⟩
    obtain rfl := Option.some.inj hr
    obtain rfl | ⟨a, c, hl, hlt, ha⟩ := hplace
    · exact ⟨[], l, rfl, by simp, hall⟩
    · refine ⟨m :: a, c, by rw [hl]; rfl, List.forall_mem_cons.mpr ⟨hlt, ha⟩, fun q hq => hall q ?_⟩
      rw [hl]
      exact List.mem_append_right _ (List.mem_cons_of_mem _ hq)

section
variable (s : State) (x : Job)

/-- The printers a job may take, in their order. -/
def State.members : List LineNo := groupMembers s.group[x.group]

/-- Where the SPREAD walk of a job begins. -/
def spreadStart (x : Job) (n : Nat) : Nat := (x.number / 2 ^ x.spreadShift) % n

theorem State.choosePrinter_spread (h : x.policy = .spread) : s.choosePrinter x =
    ((s.members x).drop (spreadStart x (s.members x).length) ++
      (s.members x).take (spreadStart x (s.members x).length)).find? (s.eligible x) := by
  unfold State.choosePrinter
  rw [h]
  rfl

theorem State.choosePrinter_earliest (h : x.policy = .earliest) :
    s.choosePrinter x = ((s.members x).filter (s.eligible x)).foldl (leastEstimate s.estimate) none := by
  unfold State.choosePrinter
  rw [h]
  rfl

theorem mem_rotated {α : Type} (l : List α) (n : Nat) (a : α) : a ∈ l.drop n ++ l.take n ↔ a ∈ l := by
  rw [List.mem_append, or_comm, ← List.mem_append, List.take_append_drop]

theorem State.choosePrinter_spec :
    (∀ p, s.choosePrinter x = some p → p ∈ s.members x ∧ s.eligible x p = true) ∧
      (s.choosePrinter x = none ↔ ∀ p ∈ s.members x, s.eligible x p = false) := by
  cases h : x.policy with
  | spread =>
    rw [s.choosePrinter_spread x h]
    refine ⟨fun p hp => ⟨(mem_rotated ..).mp (List.mem_of_find?_eq_some hp), List.find?_some hp⟩, ?_⟩
    simp only [List.find?_eq_none, mem_rotated, Bool.not_eq_true]
  | earliest =>
    rw [s.choosePrinter_earliest x h]
    obtain ⟨hnone, hsome⟩ := foldl_leastEstimate_none s.estimate ((s.members x).filter (s.eligible x))
    refine ⟨fun p hp => ?_, ?_⟩
    · obtain ⟨a, c, hl, -, -⟩ := hsome p hp
      have hmem : p ∈ (s.members x).filter (s.eligible x) := by
        rw [hl]
        exact List.mem_append_right _ List.mem_cons_self
      exact List.mem_filter.mp hmem
    · rw [hnone, List.filter_eq_nil_iff]
      simp only [Bool.not_eq_true]

end

/-- A split of the kept elements of a list splits the list. -/
theorem filter_eq_append_cons {α : Type} {P : α → Bool} {l a c : List α} {p : α} (h : l.filter P = a ++ p :: c) :
    ∃ a' c', l = a' ++ p :: c' ∧ a'.filter P = a ∧ c'.filter P = c := by
  obtain ⟨l1, l2, hl, hl1, hl2⟩ := List.filter_eq_append_iff.mp h
  obtain ⟨m1, m2, hm, hm1, -, hm2⟩ := List.filter_eq_cons_iff.mp hl2
  refine ⟨l1 ++ m1, m2, by rw [hl, hm, List.append_assoc], ?_, hm2⟩
  rw [List.filter_append, hl1, List.filter_eq_nil_iff.mpr hm1, List.append_nil]

/-- The EARLIEST choice is the first eligible member of least finish estimate. -/
theorem State.choosePrinter_least {s : State} {x : Job} {p : LineNo} (hpolicy : x.policy = .earliest)
    (hp : s.choosePrinter x = some p) : ∃ a b, s.members x = a ++ p :: b ∧
      (∀ q ∈ a, s.eligible x q = true → s.estimate p < s.estimate q) ∧
      ∀ q ∈ b, s.eligible x q = true → s.estimate p ≤ s.estimate q := by
  rw [s.choosePrinter_earliest x hpolicy] at hp
  obtain ⟨a, c, hl, ha, hc⟩ := (foldl_leastEstimate_none _ _).2 p hp
  obtain ⟨a', c', hmembers, ha', hc'⟩ := filter_eq_append_cons hl
  refine ⟨a', c', hmembers, fun q hq he => ha q ?_, fun q hq he => hc q ?_⟩
  · rw [← ha']
    exact List.mem_filter.mpr ⟨hq, he⟩
  · rw [← hc']
    exact List.mem_filter.mpr ⟨hq, he⟩

theorem getElem?_rotated {α : Type} (l : List α) {start i : Nat} (hs : start < l.length) (hi : i < l.length) :
    (l.drop start ++ l.take start)[i]? = l[(start + i) % l.length]? := by
  by_cases h : start + i < l.length
  · rw [List.getElem?_append_left (by simp; omega), List.getElem?_drop, Nat.mod_eq_of_lt h]
  · have hmod : (start + i) % l.length = i - (l.length - start) := by
      rw [Nat.mod_eq_sub_mod (Nat.not_lt.mp h), Nat.mod_eq_of_lt (by omega)]
      omega
    rw [List.getElem?_append_right (by simp; omega), List.length_drop, List.getElem?_take_of_lt (by omega), hmod]

/-- The SPREAD choice is the first eligible member on the walk. -/
theorem State.choosePrinter_walk {s : State} {x : Job} {k : Nat} {p : LineNo} (hpolicy : x.policy = .spread)
    (hk : k < (s.members x).length)
    (hp : (s.members x)[(x.number / 2 ^ x.spreadShift + k) % (s.members x).length]? = some p)
    (he : s.eligible x p = true)
    (hbefore : ∀ i q, i < k →
      (s.members x)[(x.number / 2 ^ x.spreadShift + i) % (s.members x).length]? = some q → s.eligible x q = false) :
    s.choosePrinter x = some p := by
  have hwalk (i : Nat) (hi : i < (s.members x).length) :
      ((s.members x).drop (spreadStart x (s.members x).length) ++
        (s.members x).take (spreadStart x (s.members x).length))[i]? =
      (s.members x)[(x.number / 2 ^ x.spreadShift + i) % (s.members x).length]? := by
    have hstart : spreadStart x (s.members x).length < (s.members x).length :=
      Nat.mod_lt _ (Nat.lt_of_le_of_lt (Nat.zero_le k) hk)
    rw [getElem?_rotated _ hstart hi, spreadStart, Nat.mod_add_mod]
  rw [s.choosePrinter_spread x hpolicy, List.find?_eq_some_iff_getElem]
  rw [← hwalk k hk, List.getElem?_eq_some_iff] at hp
  obtain ⟨hlt, hget⟩ := hp
  refine ⟨he, k, hlt, hget, fun i hi => ?_⟩
  have hi' : i < (s.members x).length := Nat.lt_trans hi hk
  have hnot := hbefore i _ hi ((hwalk i hi').symm.trans (List.getElem?_eq_getElem (Nat.lt_trans hi hlt)))
  simp [hnot]

/-- The finish estimate (R107, R108). -/
theorem State.estimate_eq (s : State) (p : LineNo) : s.estimate p =
    min (2 ^ 32 - 1) (min (2 ^ 32 - 1) (((s.line p).queue.map fun j =>
      (s.job? j).elim 0 fun x => x.copies * completeCount x - x.binding).sum * (s.line p).pace) + s.warmTime p) := by
  have hterms : s.backlog p = ((s.line p).queue.map fun j =>
      (s.job? j).elim 0 fun x => x.copies * completeCount x - x.binding).sum := by
    unfold State.backlog
    congr 2
    funext j
    cases s.job? j <;> rfl
  rw [State.estimate, saturate_eq, saturate_eq, hterms]
  rfl

/-! ### The binding of a job (R32, R33) -/

/-- The record of a job that has been bound to a printer. -/
def boundJob (p : LineNo) (x : Job) : Job := { x with bound := some p, run := .queued, binding := 0, excluded := none }

/-- The line with a job at its place in the queue. -/
def joinedLine (behind : Nat → Bool) (j : Nat) (l : Line) : Line :=
  { l with queue := insertAfterLast behind j (without j l.queue), standbyPending := false }

theorem State.placeInQueue_job? {s : State} {j : Nat} {x : Job} (q : Nat) (p : LineNo) (h : s.job? j = some x) :
    (s.placeInQueue j q p).job? j = some (boundJob p x) :=
  s.job_modJob_self j (boundJob p) x h fun _ => rfl

theorem State.placeInQueue_job?_ne (s : State) {j k : Nat} (q : Nat) (p : LineNo) (h : k ≠ j) :
    (s.placeInQueue j q p).job? k = s.job? k := s.job_modJob_ne (boundJob p) h fun _ => rfl

/-- The place of a job in the queue is judged among the other jobs. -/
theorem State.placeInQueue_line_self (s : State) (j q : Nat) (p : LineNo) :
    (s.placeInQueue j q p).line p = joinedLine (s.goesBehind q) j (s.line p) := by
  have hplace : (s.placeInQueue j q p).line p =
      joinedLine (((s.modJob j (boundJob p)).leaveWaiting j).goesBehind q) j (s.line p) := State.line_modLine_self _ p _
  have hbehind : ∀ k ∈ without j (s.line p).queue,
      ((s.modJob j (boundJob p)).leaveWaiting j).goesBehind q k = s.goesBehind q k := by
    intro k hk
    have hkj : k ≠ j := of_decide_eq_true (List.mem_filter.mp hk).2
    have hjob : ((s.modJob j (boundJob p)).leaveWaiting j).job? k = s.job? k :=
      s.job_modJob_ne (boundJob p) hkj fun _ => rfl
    unfold State.goesBehind
    rw [hjob]
  rw [hplace]
  unfold joinedLine
  rw [insertAfterLast_congr j hbehind]

theorem State.placeInQueue_line_ne (s : State) {p r : LineNo} (j q : Nat) (h : r ≠ p) :
    (s.placeInQueue j q p).line r = s.line r := by
  unfold State.placeInQueue
  rw [State.line_modLine_ne _ _ h]
  rfl

/-- A STANDBY printer that gets a job is woken. -/
def State.wokenFor (s : State) (j q : Nat) (p : LineNo) : State :=
  if (s.line p).state = .standby then (s.placeInQueue j q p).enterWaking p true else s.placeInQueue j q p

theorem State.bind_woken (s : State) (j q : Nat) (p : LineNo) : s.bind j q p = (s.wokenFor j q p).rechoose p :=
  s.bind_eq j q p

section
variable (s : State) (p : LineNo) (wake : Bool)

@[simp] theorem State.enterBlocked_jobs (o : BlockOrigin) : (s.enterBlocked p o).jobs = s.jobs := by
  simp [State.enterBlocked]

@[simp] theorem State.enterWaking_jobs : (s.enterWaking p wake).jobs = s.jobs := by
  obtain h | h := s.enterWaking_cases p wake <;> simp [h, State.startWaking]

@[simp] theorem State.enterWaking_job? (j : Nat) : (s.enterWaking p wake).job? j = s.job? j :=
  State.job?_congr (s.enterWaking_jobs p wake) j

@[simp] theorem State.enterWaking_accounts : (s.enterWaking p wake).accounts = s.accounts := by
  obtain h | h := s.enterWaking_cases p wake <;> simp [h, State.startWaking, State.enterBlocked]

@[simp] theorem State.enterWaking_waiting : (s.enterWaking p wake).waiting = s.waiting := by
  obtain h | h := s.enterWaking_cases p wake <;> simp [h, State.startWaking, State.enterBlocked]

theorem State.enterWaking_queue : ((s.enterWaking p wake).line p).queue = (s.line p).queue :=
  s.line_enterWaking_figure Line.queue p wake fun _ _ _ => rfl

theorem State.enterWaking_standbyPending (h : (s.line p).standbyPending = false) :
    ((s.enterWaking p wake).line p).standbyPending = false := by
  obtain hcase | hcase := s.enterWaking_cases p wake
  · rw [hcase, State.line_startWaking_self]
    exact h
  · rw [hcase, State.line_enterBlocked_self]
    rfl

theorem State.enterWaking_control : ((s.enterWaking p true).line p).control = (s.line p).control ++ [.wake] :=
  s.line_enterWaking_figure Line.control p true fun _ _ _ => rfl

theorem State.enterWaking_open (h : blockingPresent (s.line p).conditions = false) :
    ((s.enterWaking p wake).line p).state = .waking ∧
      ((s.enterWaking p wake).line p).settle = timerStart (s.rosterOf p).settle ∧
      ((s.enterWaking p wake).line p).wakeLimit = timerStart (s.rosterOf p).wakeLimit := by
  rw [State.enterWaking_clear wake h, State.line_startWaking_self]
  exact ⟨rfl, rfl, rfl⟩

theorem State.enterWaking_shut (h : blockingPresent (s.line p).conditions = true) :
    ((s.enterWaking p wake).line p).state = .blocked := by
  rw [State.enterWaking_blocking wake h, State.line_enterBlocked_self]
  rfl

end

section
variable (s : State) (j q : Nat) (p : LineNo)

theorem State.wokenFor_job? (k : Nat) : (s.wokenFor j q p).job? k = (s.placeInQueue j q p).job? k := by
  unfold State.wokenFor
  split
  · exact State.enterWaking_job? ..
  · rfl

theorem State.wokenFor_queue :
    ((s.wokenFor j q p).line p).queue = insertAfterLast (s.goesBehind q) j (without j (s.line p).queue) := by
  have hplace := congrArg Line.queue (s.placeInQueue_line_self j q p)
  unfold State.wokenFor
  split
  · rw [State.enterWaking_queue, hplace]
    rfl
  · exact hplace

theorem State.wokenFor_standbyPending : ((s.wokenFor j q p).line p).standbyPending = false := by
  have hplace := congrArg Line.standbyPending (s.placeInQueue_line_self j q p)
  unfold State.wokenFor
  split
  · exact State.enterWaking_standbyPending _ p true hplace
  · exact hplace

theorem State.wokenFor_line_ne {r : LineNo} (h : r ≠ p) : (s.wokenFor j q p).line r = s.line r := by
  unfold State.wokenFor
  split
  · rw [State.line_enterWaking_ne _ true h, State.placeInQueue_line_ne s j q h]
  · exact State.placeInQueue_line_ne s j q h

theorem State.wokenFor_waiting : (s.wokenFor j q p).waiting = without j s.waiting := by
  unfold State.wokenFor
  split
  · exact State.enterWaking_waiting ..
  · rfl

theorem State.wokenFor_accounts : (s.wokenFor j q p).accounts = s.accounts := by
  unfold State.wokenFor
  split
  · exact State.enterWaking_accounts ..
  · rfl

theorem mem_insertAfterLast (P : Nat → Bool) (j : Nat) (l : List Nat) : j ∈ insertAfterLast P j l := by
  obtain ⟨a, b, -, hins, -⟩ := insertAfterLast_place P j l
  rw [hins]
  exact List.mem_append_right _ List.mem_cons_self

/-- The record of a job that has just been bound. -/
theorem State.bind_job {s : State} {j : Nat} {x : Job} (q : Nat) (p : LineNo) (h : s.job? j = some x) :
    ∃ y, (s.bind j q p).job? j = some y ∧ y.bound = some p ∧ y.binding = 0 ∧ y.excluded = none ∧
      (y.run = .queued ∨ y.run = .feeding) ∧ (y.run = .feeding ↔ ((s.bind j q p).line p).feeding = some j) := by
  have hplaced : (s.wokenFor j q p).job? j = some (boundJob p x) := by
    rw [State.wokenFor_job?, State.placeInQueue_job? q p h]
  have hnumber : (boundJob p x).number = j := job_number hplaced
  rw [State.bind_woken, State.rechoose_job?, hplaced, State.rechoose_line_self]
  refine ⟨_, rfl, ?_⟩
  unfold afterChoice
  rw [hnumber]
  split
  · rename_i hc
    exact ⟨rfl, rfl, rfl, .inr rfl, iff_of_true rfl hc⟩
  · rename_i hc
    rw [if_neg fun hf => RunState.noConfusion hf.2]
    exact ⟨rfl, rfl, rfl, .inl rfl, iff_of_false (fun hf => RunState.noConfusion hf) hc⟩

/-- What a binding does to the lists and to the printers. -/
theorem State.bind_lists :
    ((s.bind j q p).line p).queue = insertAfterLast (s.goesBehind q) j (without j (s.line p).queue) ∧
      (s.bind j q p).waiting = without j s.waiting ∧ (∀ r, r ≠ p → (s.bind j q p).line r = s.line r) ∧
      (s.bind j q p).accounts = s.accounts ∧ ((s.bind j q p).line p).standbyPending = false := by
  rw [State.bind_woken]
  refine ⟨?_, ?_, fun r hr => ?_, ?_, ?_⟩
  · rw [State.rechoose_queue, State.wokenFor_queue]
  · exact s.wokenFor_waiting j q p
  · rw [State.rechoose_line_ne _ p hr, s.wokenFor_line_ne j q p hr]
  · exact s.wokenFor_accounts j q p
  · rw [State.rechoose_line_keeps _ p Line.standbyPending (fun _ _ => rfl), s.wokenFor_standbyPending]

theorem State.bind_awake (h : (s.line p).state ≠ .standby) :
    ((s.bind j q p).line p).state = (s.line p).state ∧ ((s.bind j q p).line p).control = (s.line p).control ∧
      (s.bind j q p).passesWanted = s.passesWanted := by
  have hline := s.placeInQueue_line_self j q p
  rw [State.bind_woken, State.wokenFor, if_neg h, State.rechoose_line_keeps _ p Line.state (fun _ _ => rfl),
    State.rechoose_line_keeps _ p Line.control (fun _ _ => rfl), hline]
  exact ⟨rfl, rfl, rfl⟩

theorem State.bind_standby (h : (s.line p).state = .standby) :
    ((s.bind j q p).line p).control = (s.line p).control ++ [.wake] ∧
      (s.bind j q p).passesWanted = s.passesWanted + 1 ∧
      (blockingPresent (s.line p).conditions = false → ((s.bind j q p).line p).state = .waking ∧
        ((s.bind j q p).line p).settle = timerStart (s.rosterOf p).settle ∧
        ((s.bind j q p).line p).wakeLimit = timerStart (s.rosterOf p).wakeLimit) ∧
      (blockingPresent (s.line p).conditions = true → ((s.bind j q p).line p).state = .blocked) := by
  have hline := s.placeInQueue_line_self j q p
  have hconditions := congrArg Line.conditions hline
  have hcontrol := congrArg Line.control hline
  have hkeeps {α : Type} (figureOf : Line → α)
      (hf : ∀ (l : Line) (c : Option Nat), figureOf { l with feeding := c } = figureOf l) :=
    State.rechoose_line_keeps ((s.placeInQueue j q p).enterWaking p true) p figureOf hf p
  rw [State.bind_woken, State.wokenFor, if_pos h, hkeeps Line.control fun _ _ => rfl,
    hkeeps Line.state fun _ _ => rfl, hkeeps Line.settle fun _ _ => rfl, hkeeps Line.wakeLimit fun _ _ => rfl,
    State.enterWaking_control, hcontrol, State.rechoose_passes, State.enterWaking_passesWanted]
  refine ⟨rfl, rfl, fun hopen => State.enterWaking_open _ p true (hconditions ▸ hopen), fun hshut =>
    State.enterWaking_shut _ p true (hconditions ▸ hshut)⟩

end

/-! ### The binding pass (R29) -/

section
variable {s : State} {j : Nat} {x : Job}

theorem State.judge_none (h : s.job? j = none) : s.judge j = s := by
  unfold State.judge
  rw [h]

theorem State.judge_bind {p : LineNo} (h : s.job? j = some x) (hp : s.choosePrinter x = some p) :
    s.judge j = s.bind j x.priority p := by
  unfold State.judge
  rw [h]
  dsimp only
  rw [hp]

/-- The record of a job that a pass has left in the waiting list. -/
def judgedJob (x : Job) : Job := { x with excluded := none }

theorem State.judge_left (h : s.job? j = some x) (hp : s.choosePrinter x = none) :
    s.judge j = s.modJob j judgedJob := by
  unfold State.judge
  rw [h]
  dsimp only
  rw [hp]
  rfl

end

/-- The jobs of the waiting list judged in its order. -/
def State.judged (s : State) : State := s.waiting.foldl State.judge { s with passesWanted := 0 }

theorem State.pass_eq (s : State) : s.pass =
    { s.waiting.foldl State.judge { s with passesWanted := 0 } with
      passesWanted := s.passesWanted +
        if (s.waiting.foldl State.judge { s with passesWanted := 0 }).passesWanted = 0 then 0 else 1 } := by
  have hmin (n : Nat) : min n 1 = if n = 0 then 0 else 1 := by split <;> omega
  show { s.judged with passesWanted := s.passesWanted + min s.judged.passesWanted 1 } = _
  rw [hmin]
  rfl

/-! ### The loop at the end of an event -/

/-- The lines are tried in ascending order. -/
theorem find?_allLines {P : LineNo → Bool} {p : LineNo} (h : P p = true) (hbefore : ∀ q, q < p → P q = false) :
    allLines.find? P = some p := by
  have hget (q : LineNo) : allLines[q.val]? = some q := by
    revert q
    decide
  have hplace := List.getElem?_eq_some_iff.mp (hget p)
  obtain ⟨hlt, hp⟩ := hplace
  rw [List.find?_eq_some_iff_getElem]
  refine ⟨h, p.val, hlt, hp, fun i hi => ?_⟩
  have hline := hget ⟨i, Nat.lt_trans hi p.isLt⟩
  rw [List.getElem?_eq_getElem (Nat.lt_trans hi hlt)] at hline
  rw [Option.some.inj hline, hbefore _ hi]
  rfl

/-- The lines whose move delay of 0 the event has started (R152). -/
def MoveStarted (before s : State) (p : LineNo) : Prop :=
  timerDue (s.line p).moveDelay = true ∧ timerDue (before.line p).moveDelay = false ∧ (s.line p).state = .blocked

theorem zeroMove_first {before s : State} {p : LineNo} (h : MoveStarted before s p)
    (hbefore : ∀ q, q < p → ¬MoveStarted before s q) : zeroMove before s = some p := by
  refine find?_allLines ?_ fun q hq => ?_
  · obtain ⟨hdue, hold, hstate⟩ := h
    simp [hdue, hold, hstate]
  · have hnot := hbefore q hq
    rw [← Bool.not_eq_true]
    intro hstart
    simp only [Bool.and_eq_true, Bool.not_eq_true', decide_eq_true_eq] at hstart
    exact hnot ⟨hstart.1.1, hstart.1.2, hstart.2⟩

theorem zeroMove_nowhere {before s : State} (h : ∀ p, ¬MoveStarted before s p) : zeroMove before s = none := by
  cases hz : zeroMove before s with
  | none => rfl
  | some p =>
    obtain ⟨hstate, hdue, hold⟩ := zeroMove_some hz
    exact absurd ⟨hdue, hold, hstate⟩ (h p)

theorem settleLoop_pass {before s : State} (n : Nat) (h : s.passesWanted ≠ 0) :
    settleLoop before (n + 1) s = settleLoop before n (State.passes s.passesWanted { s with passesWanted := 0 }) :=
  if_pos h

theorem settleLoop_move {before s : State} {p : LineNo} (n : Nat) (h : s.passesWanted = 0)
    (hz : zeroMove before s = some p) : settleLoop before (n + 1) s = settleLoop before n (s.moveOff p) := by
  refine (if_neg (not_not_intro h)).trans ?_
  rw [hz]

theorem settleLoop_end {before s : State} (n : Nat) (h : s.passesWanted = 0) (hz : zeroMove before s = none) :
    settleLoop before n s = s := by
  cases n with
  | zero => rfl
  | succ n =>
    refine (if_neg (not_not_intro h)).trans ?_
    rw [hz]

/-- Settles O33. -/
theorem bindingChoiceAndPlaces : Obligations.BindingChoiceAndPlaces := by
  refine ⟨insertWaiting_place, fun P j l => insertAfterLast_place P j l, fun s j q p x h => ?_, fun s x => ?_,
    fun s x p => s.eligible_iff x p, fun s x k p => State.choosePrinter_walk, fun s x p => State.choosePrinter_least,
    fun s p => ?_, fun s j q p x h => ?_, State.pass_eq, fun s j => ⟨State.judge_none, fun x h =>
      ⟨fun p hp => State.judge_bind h hp, fun hp => ⟨State.judge_left h hp, ?_, ?_⟩⟩⟩, fun _ _ => ⟨rfl, rfl⟩, rfl,
    fun before s n => ⟨settleLoop_pass n, fun p hw hdue hbefore => settleLoop_move n hw (zeroMove_first hdue hbefore),
      fun hw hnone => settleLoop_end n hw (zeroMove_nowhere hnone)⟩⟩
  · obtain ⟨hqueue, hwaiting, -, -, hpending⟩ := s.bind_lists j q p
    refine ⟨State.bind_job q p h, ?_, ?_, hpending⟩
    · rw [hqueue]
      exact mem_insertAfterLast ..
    · rw [hwaiting]
      exact not_mem_without j _
  · obtain ⟨hsome, hnone⟩ := s.choosePrinter_spec x
    refine ⟨fun p hp => ?_, hnone⟩
    obtain ⟨hmem, he⟩ := hsome p hp
    obtain ⟨hstate, hexcluded, hmask⟩ := (s.eligible_iff x p).mp he
    refine ⟨hmem, hexcluded, hstate, hmask, fun hpolicy q hq heq => ?_⟩
    obtain ⟨a, b, hl, ha, hb⟩ := State.choosePrinter_least hpolicy hp
    have hplace : q ∈ a ++ p :: b := by
      rw [← hl]
      exact hq
    obtain hqa | hqp := List.mem_append.mp hplace
    · exact Nat.le_of_lt (ha q hqa heq)
    · obtain rfl | hqb := List.mem_cons.mp hqp
      · exact Nat.le_refl _
      · exact hb q hqb heq
  · rw [s.estimate_eq p, State.warmTime]
    cases (s.line p).state <;> rfl
  · obtain ⟨hqueue, hwaiting, hlines, haccounts, -⟩ := s.bind_lists j q p
    exact ⟨fun k => s.goesBehind_iff q k, hqueue, hwaiting, hlines, haccounts, s.bind_awake j q p, s.bind_standby j q p⟩
  · rw [State.judge_left h hp]
    exact s.job_modJob_self j judgedJob x h fun _ => rfl
  · rw [State.judge_left h hp]
    rfl

end Sys2Proof.Machine
end

-- What a line loses when it goes out of service: its queue, its conditions and its stall.
section
namespace Sys2Proof.Machine

/-! ### Changes of one line record, one after the other -/

theorem State.modLine_modLine (s : State) (p : LineNo) (f g : Line → Line) :
    (s.modLine p f).modLine p g = s.modLine p fun l => g (f l) := by
  unfold State.modLine State.line
  simp

theorem State.modLine_same (s : State) (p : LineNo) (f : Line → Line) (h : f (s.line p) = s.line p) :
    s.modLine p f = s := by
  rw [State.modLine, h]
  simp [State.line]

theorem State.modLine_congr (s : State) (p : LineNo) {f g : Line → Line} (h : f (s.line p) = g (s.line p)) :
    s.modLine p f = s.modLine p g := by
  rw [State.modLine, State.modLine, h]

theorem State.modLine_signals (s t : State) (p : LineNo) (f : Line → Line) :
    (s.signalsOf t).modLine p f = (s.modLine p f).signalsOf t := rfl

theorem State.modJob_signals (s t : State) (j : Nat) (f : Job → Job) :
    (s.signalsOf t).modJob j f = (s.modJob j f).signalsOf t := rfl

/-! ### The conditions -/

theorem setCondition_same {c : Conditions} {k : Condition} (h : hasCondition c k = false) :
    setCondition c k false = c := by
  cases k <;> (simp only [hasCondition] at h; simp only [setCondition, ← h])

/-- The line without one of its conditions. -/
def withoutCondition (k : Condition) (l : Line) : Line := { l with conditions := setCondition l.conditions k false }

theorem State.dropCondition_signals (s : State) (p : LineNo) (k : Condition) :
    s.dropCondition p k = (s.modLine p (withoutCondition k)).signalsOf (s.dropCondition p k) := by
  unfold State.dropCondition
  split
  · exact State.clearAlert_signals ..
  · rename_i h
    have hsame : withoutCondition k (s.line p) = s.line p := by
      unfold withoutCondition
      rw [setCondition_same (Bool.eq_false_iff.mpr h)]
    rw [s.modLine_same p _ hsame]
    rfl

/-- The line without conditions and without a jam tag. -/
def emptiedLine (l : Line) : Line := { l with conditions := ⟨false, false, false, false⟩, jamTag := none }

/-- A state with another's alert relay is one with its own. -/
theorem State.signals_self {s u t : State} (h : s = u.signalsOf t) : s = u.signalsOf s := by
  subst h
  rfl

theorem State.dropCondition_after {s u t : State} (p : LineNo) (k : Condition) (h : u = s.signalsOf t) :
    ∃ v, u.dropCondition p k = (s.modLine p (withoutCondition k)).signalsOf v := by
  refine ⟨u.dropCondition p k, (u.dropCondition_signals p k).trans ?_⟩
  rw [h]
  rfl

theorem State.emptyConditions_signals (s : State) (p : LineNo) :
    s.emptyConditions p = (s.modLine p emptiedLine).signalsOf (s.emptyConditions p) := by
  obtain ⟨_, h1⟩ : ∃ t, s.dropCondition p .jam = (s.modLine p (withoutCondition .jam)).signalsOf t :=
    ⟨_, s.dropCondition_signals p .jam⟩
  obtain ⟨_, h2⟩ := State.dropCondition_after p .doorOpen h1
  obtain ⟨_, h3⟩ := State.dropCondition_after p .mediaOut h2
  obtain ⟨v, h4⟩ := State.dropCondition_after p .supplyLow h3
  have hlines : ((((s.modLine p (withoutCondition .jam)).modLine p (withoutCondition .doorOpen)).modLine p
      (withoutCondition .mediaOut)).modLine p (withoutCondition .supplyLow)).modLine p
        (fun l => { l with jamTag := none }) = s.modLine p emptiedLine := by
    simp only [State.modLine_modLine, withoutCondition, setCondition]
    rfl
  refine State.signals_self (t := v) ?_
  rw [← hlines, State.emptyConditions, h4]
  rfl

/-! ### The unbinding of a whole queue -/

/-- The record of a job that its printer has given up (R34). -/
def unboundRecord (p : LineNo) (x : Job) : Job :=
  if x.run = .leaving ∧ x.leaveTarget = some .held then { unboundJob x with run := .held, leaveTarget := none }
  else if x.run = .leaving ∧ x.leaveTarget = some .waitingExclude then
    waitingJob { unboundJob x with excluded := some p }
  else waitingJob (unboundJob x)

section
variable (s : State) (p : LineNo) (j : Nat)

theorem unboundRecord_number (x : Job) : (unboundRecord p x).number = x.number := by
  unfold unboundRecord
  split
  · rfl
  · split <;> exact waitingJob_number _

theorem State.unbind_none {s : State} {j : Nat} (h : s.job? j = none) : s.unbind p j = s := by
  unfold State.unbind
  rw [h]

theorem State.unbound_job?_ne {k : Nat} (h : k ≠ j) : (s.unbound p j).job? k = s.job? k :=
  (s.modLine p (withoutJob j)).job_modJob_ne unboundJob h fun _ => rfl

/-- The job table after an unbinding. -/
theorem State.unbind_job? (k : Nat) :
    (s.unbind p j).job? k = if k = j then (s.job? k).map (unboundRecord p) else s.job? k := by
  cases h : s.job? j with
  | none =>
    rw [State.unbind_none p h]
    split
    · rename_i hk
      rw [hk, h]
      rfl
    · rfl
  | some x =>
    have hunbound := State.unbound_job? (p := p) h
    by_cases hheld : x.run = .leaving ∧ x.leaveTarget = some .held
    · have hrecord : unboundRecord p x = { unboundJob x with run := .held, leaveTarget := none } := if_pos hheld
      rw [State.unbind_held h hheld.1 hheld.2]
      split
      · rename_i hk
        rw [hk, h, Option.map_some, hrecord]
        exact State.job_modJob_self _ j (fun y => { y with run := .held, leaveTarget := none }) _ hunbound fun _ => rfl
      · rename_i hk
        rw [← State.unbound_job?_ne s p j hk]
        exact State.job_modJob_ne _ (fun y => { y with run := .held, leaveTarget := none }) hk fun _ => rfl
    · by_cases hexclude : x.run = .leaving ∧ x.leaveTarget = some .waitingExclude
      · have hrecord : unboundRecord p x = waitingJob { unboundJob x with excluded := some p } :=
          (if_neg hheld).trans (if_pos hexclude)
        rw [State.unbind_exclude h hexclude.1 hexclude.2, State.enterWaiting_job?]
        split
        · rename_i hk
          rw [hk, h, Option.map_some, hrecord]
          exact congrArg (Option.map waitingJob)
            (State.job_modJob_self _ j (fun y => { y with excluded := some p }) _ hunbound fun _ => rfl)
        · rename_i hk
          rw [← State.unbound_job?_ne s p j hk]
          exact State.job_modJob_ne _ (fun y => { y with excluded := some p }) hk fun _ => rfl
      · have hrecord : unboundRecord p x = waitingJob (unboundJob x) := (if_neg hheld).trans (if_neg hexclude)
        rw [State.unbind_waiting h hheld hexclude, State.enterWaiting_job?]
        split
        · rename_i hk
          rw [hk, h, hunbound, Option.map_some, Option.map_some, hrecord]
        · rename_i hk
          exact State.unbound_job?_ne s p j hk

/-- A job that waits after its unbinding is in the waiting list, and the list only grows. -/
theorem State.unbind_waitingList :
    (∀ k ∈ s.waiting, k ∈ (s.unbind p j).waiting) ∧
      ∀ x, s.job? j = some x → ¬(x.run = .leaving ∧ x.leaveTarget = some .held) → j ∈ (s.unbind p j).waiting := by
  cases h : s.job? j with
  | none =>
    rw [State.unbind_none p h]
    exact ⟨fun _ hk => hk, fun x hx => absurd hx (by simp)⟩
  | some x =>
    by_cases hheld : x.run = .leaving ∧ x.leaveTarget = some .held
    · rw [State.unbind_held h hheld.1 hheld.2]
      exact ⟨fun _ hk => hk, fun y hy hnot => absurd (Option.some.inj hy ▸ hheld) hnot⟩
    · by_cases hexclude : x.run = .leaving ∧ x.leaveTarget = some .waitingExclude
      · rw [State.unbind_exclude h hexclude.1 hexclude.2]
        exact ⟨fun k hk => (State.mem_enterWaiting _ j k).mpr (.inr hk),
          fun _ _ _ => (State.mem_enterWaiting _ j j).mpr (.inl rfl)⟩
      · rw [State.unbind_waiting h hheld hexclude]
        exact ⟨fun k hk => (State.mem_enterWaiting _ j k).mpr (.inr hk),
          fun _ _ _ => (State.mem_enterWaiting _ j j).mpr (.inl rfl)⟩

/-- The state with the jobs, the lines and the waiting list of another. -/
def State.listsOf (s t : State) : State :=
  { s with jobs := t.jobs, lines := t.lines, waiting := t.waiting, passesWanted := t.passesWanted }

/-- No more than the jobs, the lines and the waiting list has changed. -/
def ListsOnly (s t : State) : Prop := t = s.listsOf t

theorem ListsOnly.refl (s : State) : ListsOnly s s := rfl

theorem ListsOnly.trans {s t u : State} (h : ListsOnly s t) (k : ListsOnly t u) : ListsOnly s u := by
  unfold ListsOnly
  rw [k, h]
  rfl

theorem ListsOnly.modLine (s : State) (p : LineNo) (f : Line → Line) : ListsOnly s (s.modLine p f) := rfl

theorem ListsOnly.modJob (s : State) (j : Nat) (f : Job → Job) : ListsOnly s (s.modJob j f) := rfl

theorem ListsOnly.enterWaiting (s : State) (j : Nat) : ListsOnly s (s.enterWaiting j) := rfl

theorem ListsOnly.rechoose (s : State) (p : LineNo) : ListsOnly s (s.rechoose p) := rfl

theorem ListsOnly.accounts {s t : State} (h : ListsOnly s t) : t.accounts = s.accounts := by
  rw [h]
  rfl

theorem ListsOnly.meters {s t : State} (h : ListsOnly s t) : t.meters = s.meters := by
  rw [h]
  rfl

theorem ListsOnly.stores {s t : State} (h : ListsOnly s t) : t.stores = s.stores := by
  rw [h]
  rfl

theorem ListsOnly.free {s t : State} (h : ListsOnly s t) : t.free = s.free := by
  rw [h]
  rfl

theorem ListsOnly.pool {s t : State} (h : ListsOnly s t) : t.pool = s.pool := by
  rw [h]
  rfl

theorem State.unbind_lists : ListsOnly s (s.unbind p j) := by
  have hunbound : ListsOnly s (s.unbound p j) := (ListsOnly.modLine s p _).trans (.modJob _ j _)
  cases h : s.job? j with
  | none =>
    rw [State.unbind_none p h]
    exact .refl s
  | some x =>
    by_cases hheld : x.run = .leaving ∧ x.leaveTarget = some .held
    · rw [State.unbind_held h hheld.1 hheld.2]
      exact hunbound.trans (.modJob _ j _)
    · by_cases hexclude : x.run = .leaving ∧ x.leaveTarget = some .waitingExclude
      · rw [State.unbind_exclude h hexclude.1 hexclude.2]
        exact (hunbound.trans (.modJob _ j _)).trans (.enterWaiting _ j)
      · rw [State.unbind_waiting h hheld hexclude]
        exact hunbound.trans (.enterWaiting _ j)

/-- A queue given up job by job. -/
def State.unbindList (l : List Nat) : State := l.foldl (fun t j => t.unbind p j) s

theorem State.unbindAll_eq : s.unbindAll p = (s.unbindList p (s.line p).queue).rechoose p := rfl

theorem State.unbindList_lists (l : List Nat) : ListsOnly s (s.unbindList p l) := by
  induction l generalizing s with
  | nil => exact .refl s
  | cons j l ih => exact (s.unbind_lists p j).trans (ih _)

theorem State.unbindList_job?_ne {l : List Nat} {k : Nat} (hk : k ∉ l) : (s.unbindList p l).job? k = s.job? k := by
  induction l generalizing s with
  | nil => rfl
  | cons j l ih =>
    rw [List.mem_cons, not_or] at hk
    obtain ⟨hkj, hkl⟩ := hk
    show ((s.unbind p j).unbindList p l).job? k = _
    rw [ih _ hkl, State.unbind_job?, if_neg hkj]

theorem State.unbindList_job? {l : List Nat} (hl : l.Nodup) {k : Nat} (hk : k ∈ l) :
    (s.unbindList p l).job? k = (s.job? k).map (unboundRecord p) := by
  induction l generalizing s with
  | nil => exact absurd hk List.not_mem_nil
  | cons j l ih =>
    obtain ⟨hj, hl⟩ := List.nodup_cons.mp hl
    show ((s.unbind p j).unbindList p l).job? k = _
    obtain rfl | hkl := List.mem_cons.mp hk
    · rw [State.unbindList_job?_ne _ p hj, State.unbind_job?, if_pos rfl]
    · have hkj : k ≠ j := fun h => hj (h ▸ hkl)
      rw [ih _ hl hkl, State.unbind_job?, if_neg hkj]

theorem State.unbindList_waiting {l : List Nat} {k : Nat} (h : k ∈ s.waiting) : k ∈ (s.unbindList p l).waiting := by
  induction l generalizing s with
  | nil => exact h
  | cons j l ih => exact ih _ ((s.unbind_waitingList p j).1 k h)

theorem State.mem_unbindList_waiting {l : List Nat} (hl : l.Nodup) {k : Nat} {x : Job} (hk : k ∈ l)
    (hx : s.job? k = some x) (hnot : ¬(x.run = .leaving ∧ x.leaveTarget = some .held)) :
    k ∈ (s.unbindList p l).waiting := by
  induction l generalizing s with
  | nil => exact absurd hk List.not_mem_nil
  | cons j l ih =>
    obtain ⟨hj, hl⟩ := List.nodup_cons.mp hl
    obtain rfl | hkl := List.mem_cons.mp hk
    · exact (s.unbind p k).unbindList_waiting p ((s.unbind_waitingList p k).2 x hx hnot)
    · have hkj : k ≠ j := fun h => hj (h ▸ hkl)
      refine ih (s.unbind p j) hl hkl ?_
      rw [State.unbind_job?, if_neg hkj, hx]

theorem State.unbindList_line_ne {l : List Nat} {q : LineNo} (hq : q ≠ p) :
    (s.unbindList p l).line q = s.line q := by
  induction l generalizing s with
  | nil => rfl
  | cons j l ih =>
    show ((s.unbind p j).unbindList p l).line q = _
    rw [ih]
    cases h : s.job? j with
    | none => rw [State.unbind_none p h]
    | some x => rw [State.unbind_line h, State.unbound_line_ne s j hq]

/-- The line with some jobs out of its queue. -/
def withoutJobs (js : List Nat) (l : Line) : Line := { l with queue := l.queue.filter fun j => decide (j ∉ js) }

theorem withoutJobs_nil (l : Line) : withoutJobs [] l = l := by
  have hall : (l.queue.filter fun j => decide (j ∉ ([] : List Nat))) = l.queue :=
    List.filter_eq_self.mpr fun _ _ => decide_eq_true List.not_mem_nil
  unfold withoutJobs
  rw [hall]

theorem State.unbindList_line_self {l : List Nat} (hl : ∀ j ∈ l, (s.job? j).isSome = true) :
    (s.unbindList p l).line p = withoutJobs l (s.line p) := by
  induction l generalizing s with
  | nil => exact (withoutJobs_nil _).symm
  | cons j l ih =>
    obtain ⟨hj, hl⟩ := List.forall_mem_cons.mp hl
    obtain ⟨x, hx⟩ := Option.isSome_iff_exists.mp hj
    have hrest : ∀ k ∈ l, ((s.unbind p j).job? k).isSome = true := by
      intro k hk
      rw [State.unbind_job?]
      split
      · rw [Option.isSome_map]
        exact hl k hk
      · exact hl k hk
    show ((s.unbind p j).unbindList p l).line p = _
    rw [ih _ hrest, State.unbind_line hx, State.unbound_line_self]
    unfold withoutJobs withoutJob without
    simp only [List.filter_filter, List.mem_cons, not_or]
    congr 2
    funext k
    by_cases hk : k = j <;> by_cases hkl : k ∈ l <;> simp [hk, hkl]

/-- The line without a queue. -/
def unqueuedLine (l : Line) : Line := { l with queue := [], feeding := none }

theorem State.unbindAll_line_self (h : ∀ j ∈ (s.line p).queue, (s.job? j).isSome = true) :
    (s.unbindAll p).line p = unqueuedLine (s.line p) := by
  have hline := s.unbindList_line_self p h
  have hqueue : ((s.unbindList p (s.line p).queue).line p).queue = [] := by
    rw [hline]
    exact List.filter_eq_nil_iff.mpr fun k hk => by simp [hk]
  have hchoice : (s.unbindList p (s.line p).queue).feedingChoice p = none := by
    unfold State.feedingChoice
    rw [hqueue]
    rfl
  rw [State.unbindAll_eq, State.rechoose_line_self, hchoice]
  unfold unqueuedLine
  rw [← hqueue, hline]
  rfl

theorem State.unbindAll_line_ne {q : LineNo} (hq : q ≠ p) : (s.unbindAll p).line q = s.line q := by
  rw [State.unbindAll_eq, State.rechoose_line_ne _ p hq, State.unbindList_line_ne s p hq]

theorem State.unbindAll_lists : ListsOnly s (s.unbindAll p) :=
  (s.unbindList_lists p _).trans (.rechoose _ p)

/-- The records of the jobs of a queue that has been given up. -/
theorem State.unbindAll_job? (h : ∀ j ∈ (s.line p).queue, (s.job? j).isSome = true) (k : Nat) :
    (s.unbindAll p).job? k = (s.unbindList p (s.line p).queue).job? k := by
  rw [State.unbindAll_eq]
  refine State.rechoose_job?_outside p ?_
  rw [s.unbindList_line_self p h]
  intro hk
  obtain ⟨hmem, hnot⟩ := List.mem_filter.mp hk
  exact absurd hmem (of_decide_eq_true hnot)

theorem State.unbindAll_empty (h : (s.line p).queue = []) :
    (s.unbindAll p).jobs = s.jobs ∧ (s.unbindAll p).waiting = s.waiting := by
  have hchoice : s.feedingChoice p = none := by
    unfold State.feedingChoice
    rw [h]
    rfl
  have hsame : afterChoice [] none = (id : Job → Job) := by
    funext x
    simp [afterChoice]
  rw [State.unbindAll_eq, h]
  refine ⟨?_, rfl⟩
  show s.jobs.map (afterChoice (s.line p).queue (s.feedingChoice p)) = s.jobs
  rw [h, hchoice, hsame, List.map_id]

end

/-! ### The entry into RETIRED (R99) -/

/-- The line record of a retired printer, before its queue is given up. -/
def retiredLine (l : Line) : Line := { lossFlags (emptiedLine { l with lineDown := false }) with state := .retired }

/-- The line down flag goes, and its alert with it. -/
theorem State.lineUp_signals (s : State) (p : LineNo) : ∃ t, (if (s.line p).lineDown then
    (s.modLine p fun l => { l with lineDown := false }).clearAlert .lineDown (.printer p) else s) =
      (s.modLine p fun l => { l with lineDown := false }).signalsOf t := by
  split
  · exact ⟨_, State.clearAlert_signals ..⟩
  · rename_i h
    have hsame := s.modLine_same p (fun l => { l with lineDown := false }) (by rw [← Bool.eq_false_iff.mpr h])
    exact ⟨s, by rw [hsame]; rfl⟩

theorem State.enterRetired_signals (s : State) (p : LineNo) :
    s.enterRetired p = ((s.unbindAll p).modLine p retiredLine).signalsOf (s.enterRetired p) := by
  obtain ⟨t, ht⟩ := (s.unbindAll p).lineUp_signals p
  have hlines : (((s.unbindAll p).modLine p fun l => { l with lineDown := false }).modLine p emptiedLine).modLine p
      (fun l => { lossFlags l with state := .retired }) = (s.unbindAll p).modLine p retiredLine := by
    simp only [State.modLine_modLine]
    rfl
  obtain ⟨v, hv⟩ : ∃ v, (((s.unbindAll p).modLine p fun l => { l with lineDown := false }).signalsOf t).emptyConditions p
      = (((s.unbindAll p).modLine p fun l => { l with lineDown := false }).modLine p emptiedLine).signalsOf v :=
    ⟨_, State.emptyConditions_signals _ p⟩
  refine State.signals_self (t := v) ?_
  rw [← hlines]
  unfold State.enterRetired
  dsimp only
  rw [ht, hv]
  rfl

/-- What the entry into RETIRED does to the lines. -/
theorem State.enterRetired_line (s : State) (p : LineNo) (q : LineNo) : (s.enterRetired p).line q =
    if q = p then retiredLine ((s.unbindAll p).line p) else s.line q := by
  rw [State.enterRetired_signals, State.signalsOf_line]
  split
  · rename_i hq
    rw [hq, State.line_modLine_self]
  · rename_i hq
    rw [State.line_modLine_ne _ _ hq, State.unbindAll_line_ne s p hq]

theorem State.enterRetired_jobs (s : State) (p : LineNo) : (s.enterRetired p).jobs = (s.unbindAll p).jobs := by
  rw [State.enterRetired_signals]
  rfl

theorem State.enterRetired_job? (s : State) (p : LineNo) (k : Nat) :
    (s.enterRetired p).job? k = (s.unbindAll p).job? k := State.job?_congr (s.enterRetired_jobs p) k

theorem State.enterRetired_waiting (s : State) (p : LineNo) :
    (s.enterRetired p).waiting = (s.unbindAll p).waiting := by
  rw [State.enterRetired_signals]
  rfl

theorem State.enterRetired_accounts (s : State) (p : LineNo) : (s.enterRetired p).accounts = s.accounts := by
  rw [State.enterRetired_signals]
  exact (s.unbindAll_lists p).accounts

theorem State.enterRetired_meters (s : State) (p : LineNo) : (s.enterRetired p).meters = s.meters := by
  rw [State.enterRetired_signals]
  exact (s.unbindAll_lists p).meters

end Sys2Proof.Machine
end

-- O34, O36: STANDBY, RETIRE and RETURN (R88, R97, R99).
section
namespace Sys2Proof.Machine

/-! ### A printer control request -/

section
variable {s : State} {f : ShopFrame} {args : List Byte} {p : LineNo}

theorem manage_onPrinter_above (hreq : Requested s f args) {sizeOk : List Byte → Bool} (hsize : sizeOk args = true)
    (act : State → LineNo → State × Status) (habove : 15 < field args 0 1) (hw : NoPassWanted s) :
    manage false sizeOk noJob (onPrinter act) f s = answered s s f 0 .badRequest [] :=
  manage_unchanged hreq noJob hsize hw (onPrinter_above act s habove)

theorem manage_onPrinter_refused (hreq : Requested s f args) {sizeOk : List Byte → Bool} (hsize : sizeOk args = true)
    (hp : p.val = field args 0 1) (act : State → LineNo → State × Status) {st : Status} (hact : act s p = (s, st))
    (hw : NoPassWanted s) : manage false sizeOk noJob (onPrinter act) f s = answered s s f 0 st [] := by
  refine manage_unchanged hreq noJob hsize hw ?_
  rw [onPrinter_some act s hp, hact]

theorem manage_onPrinter_ended (hreq : Requested s f args) {sizeOk : List Byte → Bool} (hsize : sizeOk args = true)
    (hp : p.val = field args 0 1) (act : State → LineNo → State × Status) {u : State} {st : Status}
    (hact : act s p = (u, st)) (hfollows : Follows s u) :
    manage false sizeOk noJob (onPrinter act) f s = ended s u f 0 st [] := by
  have honPrinter : onPrinter act args s = (u, st, []) := by rw [onPrinter_some act s hp, hact]
  exact manage_ended hreq noJob hsize honPrinter (congrArg Settings.port hfollows.settings)

/-- A request that changes line records alone and starts no move delay. -/
theorem manage_onPrinter_lines (hreq : Requested s f args) {sizeOk : List Byte → Bool} (hsize : sizeOk args = true)
    (hp : p.val = field args 0 1) (act : State → LineNo → State × Status) {u : State} {st : Status}
    (hact : act s p = (u, st)) (hu : u = { s with lines := u.lines }) (hw : NoPassWanted s)
    (hmove : ∀ q, ¬MoveStarted s u q) :
    manage false sizeOk noJob (onPrinter act) f s = answered s u f 0 st [] := by
  have honPrinter : onPrinter act args s = (u, st, []) := by rw [onPrinter_some act s hp, hact]
  have hsettings : u.settings = s.settings := by rw [hu]
  have haccounts : u.accounts = s.accounts := by rw [hu]
  have hpasses : u.passesWanted = s.passesWanted := by rw [hu]
  exact manage_calm hreq noJob hsize honPrinter (congrArg Settings.port hsettings)
    (fun a => Nat.le_of_eq (by rw [State.account_congr haccounts])) (hpasses.trans hw) (zeroMove_nowhere hmove)

end

/-- A line whose move delay stays starts none. -/
theorem not_moveStarted {s u : State} {q : LineNo} (h : (u.line q).moveDelay = (s.line q).moveDelay) :
    ¬MoveStarted s u q := by
  rintro ⟨hdue, hold, -⟩
  rw [h, hold] at hdue
  exact absurd hdue Bool.false_ne_true

/-- A line that is not BLOCKED starts none. -/
theorem not_moveStarted_state {s u : State} {q : LineNo} (h : (u.line q).state ≠ .blocked) : ¬MoveStarted s u q :=
  fun hstart => h hstart.2.2

/-! ### STANDBY -/

section
variable {s : State} {p : LineNo}

theorem standbyAct_standby (h : (s.line p).state = .standby) : standbyAct s p = (s, .ok) := by
  simp [standbyAct, h]

theorem standbyAct_busy (h : (s.line p).state = .ready) (hf : flushPending (s.line p).flush = false)
    (hbusy : (s.line p).queue ≠ [] ∨ (s.line p).inflight ≠ []) : standbyAct s p = (s, .busy) := by
  simp [standbyAct, h, hf, hbusy]

theorem standbyAct_pending (h : (s.line p).state = .ready) (hf : flushPending (s.line p).flush = false)
    (hq : (s.line p).queue = []) (hi : (s.line p).inflight = []) (ht : timerRuns (s.line p).minAwake = true) :
    standbyAct s p = (s.modLine p fun l => { l with standbyPending := true }, .ok) := by
  simp [standbyAct, h, hf, hq, hi, ht]

theorem standbyAct_taken (h : (s.line p).state = .ready) (hf : flushPending (s.line p).flush = false)
    (hq : (s.line p).queue = []) (hi : (s.line p).inflight = []) (ht : timerRuns (s.line p).minAwake = false) :
    standbyAct s p = (s.enterStandby p, .ok) := by
  simp [standbyAct, h, hf, hq, hi, ht]

theorem standbyAct_refused (h : (s.line p).state ≠ .standby)
    (hr : (s.line p).state = .ready → flushPending (s.line p).flush = true) : standbyAct s p = (s, .badState) := by
  have hnot : ¬((s.line p).state = .ready ∧ flushPending (s.line p).flush = false) := by
    rintro ⟨hready, hflush⟩
    rw [hr hready] at hflush
    exact Bool.noConfusion hflush
  simp [standbyAct, h, hnot]

end

/-- Settles O34. -/
theorem standbyByLineState : Obligations.StandbyByLineState := by
  intro s f args hreq hlen hw
  have hsize : sized 1 args = true := decide_eq_true hlen
  refine ⟨fun habove => congrArg _ (manage_onPrinter_above hreq hsize standbyAct habove hw), fun p hp =>
    ⟨fun hst => ?_, fun hst hf => ⟨fun hbusy => ?_, fun hq hi ht => ?_, fun hq hi ht => ?_⟩, fun hst => ?_⟩⟩
  · exact congrArg _ (manage_onPrinter_refused hreq hsize hp standbyAct (standbyAct_standby hst) hw)
  · exact congrArg _ (manage_onPrinter_refused hreq hsize hp standbyAct (standbyAct_busy hst hf hbusy) hw)
  · exact congrArg _ (manage_onPrinter_lines hreq hsize hp standbyAct (standbyAct_pending hst hf hq hi ht) rfl hw
      fun q => not_moveStarted
        (s.line_modLine_keeps Line.moveDelay p (fun l => { l with standbyPending := true }) (fun _ => rfl) q))
  · exact congrArg _ (manage_onPrinter_ended hreq hsize hp standbyAct (standbyAct_taken hst hf hq hi ht)
      (follows_enterStandby s p))
  · exact congrArg _ (manage_onPrinter_refused hreq hsize hp standbyAct (standbyAct_refused hst.1 hst.2) hw)

/-! ### The entry into RETIRED -/

/-- What a retired printer has given up of a job. -/
theorem unboundRecord_facts (p : LineNo) (x : Job) :
    (unboundRecord p x).bound = none ∧ (unboundRecord p x).leaveTarget = none ∧
      (unboundRecord p x).dispatch = x.dispatch ∧ (unboundRecord p x).confirm = x.confirm ∧
      (x.run = .leaving ∧ x.leaveTarget = some .held →
        (unboundRecord p x).run = .held ∧ (unboundRecord p x).holdReason = x.holdReason) ∧
      (¬(x.run = .leaving ∧ x.leaveTarget = some .held) → (unboundRecord p x).run = .waiting) := by
  have hsplit (y : Job) : (splitRule y).bound = y.bound ∧ (splitRule y).leaveTarget = y.leaveTarget ∧
      (splitRule y).dispatch = y.dispatch ∧ (splitRule y).confirm = y.confirm ∧ (splitRule y).run = y.run := by
    unfold splitRule
    split <;> exact ⟨rfl, rfl, rfl, rfl, rfl⟩
  unfold unboundRecord
  split
  · rename_i hheld
    exact ⟨rfl, rfl, rfl, rfl, fun _ => ⟨rfl, rfl⟩, fun hnot => absurd hheld hnot⟩
  · rename_i hheld
    split
    · obtain ⟨hbound, htarget, hdispatch, hconfirm, hrun⟩ := hsplit
        { unboundJob x with excluded := some p, run := .waiting, leaveTarget := none, holdReason := none }
      exact ⟨hbound, htarget, hdispatch, hconfirm, fun hh => absurd hh hheld, fun _ => hrun⟩
    · obtain ⟨hbound, htarget, hdispatch, hconfirm, hrun⟩ := hsplit
        { unboundJob x with run := .waiting, leaveTarget := none, holdReason := none }
      exact ⟨hbound, htarget, hdispatch, hconfirm, fun hh => absurd hh hheld, fun _ => hrun⟩

theorem State.enterRetired_line_self {s : State} {p : LineNo}
    (h : ∀ j ∈ (s.line p).queue, (s.job? j).isSome = true) :
    (s.enterRetired p).line p = retiredLine (unqueuedLine (s.line p)) := by
  rw [State.enterRetired_line, if_pos rfl, State.unbindAll_line_self s p h]

/-- The jobs of a retired printer's queue. -/
theorem State.enterRetired_queueJob {s : State} {p : LineNo} {j : Nat} {x : Job}
    (h : ∀ j ∈ (s.line p).queue, (s.job? j).isSome = true) (hnodup : (s.line p).queue.Nodup)
    (hj : j ∈ (s.line p).queue) (hx : s.job? j = some x) :
    (s.enterRetired p).job? j = some (unboundRecord p x) ∧
      (¬(x.run = .leaving ∧ x.leaveTarget = some .held) → j ∈ (s.enterRetired p).waiting) := by
  refine ⟨?_, fun hnot => ?_⟩
  · rw [State.enterRetired_job?, s.unbindAll_job? p h, s.unbindList_job? p hnodup hj, hx]
    rfl
  · rw [State.enterRetired_waiting]
    exact s.mem_unbindList_waiting p hnodup hj hx hnot

/-! ### RETIRE and RETURN -/

section
variable {s : State} {p : LineNo}

theorem retireAct_serving (h : (s.line p).state = .ready ∨ (s.line p).state = .waking)
    (hbusy : (s.line p).inflight ≠ [] ∨ flushPending (s.line p).flush = true) :
    retireAct s p = (s.modLine p retiringLine, .ok) := by
  have hserving : s.retireServing p = s.modLine p retiringLine := if_pos hbusy
  obtain h | h := h <;> simp only [retireAct, h, hserving]

theorem retireAct_idle (h : (s.line p).state = .ready ∨ (s.line p).state = .waking)
    (hi : (s.line p).inflight = []) (hf : flushPending (s.line p).flush = false) :
    retireAct s p = (s.enterRetired p, .ok) := by
  have hserving : s.retireServing p = s.enterRetired p := if_neg (by simp [hi, hf])
  obtain h | h := h <;> simp only [retireAct, h, hserving]

theorem retireAct_off (h : (s.line p).state = .down ∨ (s.line p).state = .standby) :
    retireAct s p = (s.enterRetired p, .ok) := by
  obtain h | h := h <;> simp only [retireAct, h]

theorem retireAct_blocked (h : (s.line p).state = .blocked) :
    retireAct s p = ((s.modLine p retiringLine).requestFlush p .retire, .ok) := by
  simp only [retireAct, h]
  rfl

theorem retireAct_retiring (h : (s.line p).state = .retiring) :
    retireAct s p = (s.requestFlush p .retire, .ok) := by simp only [retireAct, h]

theorem retireAct_retired (h : (s.line p).state = .retired) : retireAct s p = (s, .ok) := by
  simp only [retireAct, h]

/-- A RETIRING line starts no move delay, and neither do the others. -/
theorem not_moveStarted_retiring (q : LineNo) : ¬MoveStarted s (s.modLine p retiringLine) q := by
  by_cases hq : q = p
  · refine not_moveStarted_state ?_
    rw [hq, State.line_modLine_self]
    exact LineState.noConfusion
  · exact not_moveStarted (by rw [State.line_modLine_ne s _ hq])

theorem not_moveStarted_flush {u : State} {q : LineNo} (t : Purpose) (h : ¬MoveStarted s u q) :
    ¬MoveStarted s (u.requestFlush p t) q := by
  unfold MoveStarted
  rw [u.requestFlush_line_keeps p t Line.moveDelay (fun _ => rfl) (fun _ => rfl) q,
    u.requestFlush_line_keeps p t Line.state (fun _ => rfl) (fun _ => rfl) q]
  exact h

theorem requestFlush_lines {u : State} (t : Purpose) (h : u = { s with lines := u.lines }) :
    u.requestFlush p t = { s with lines := (u.requestFlush p t).lines } := by
  rw [State.requestFlush_only, h]

theorem returnAct_retired (h : (s.line p).state = .retired) :
    returnAct s p = (s.modLine p (returnedLine s.live), .ok) := if_pos h

theorem returnAct_refused (h : (s.line p).state ≠ .retired) : returnAct s p = (s, .badState) := if_neg h

end

theorem returnedLine_eq (st : PartState) : returnedLine st = fun l =>
    { l with state := .down, credits := 0, control := l.control ++ if st = .live then [.resync] else [] } := by
  funext l
  unfold returnedLine
  split
  · rfl
  · rw [List.append_nil]

/-- Settles O36: the entry into RETIRED, and the two requests by line state. -/
theorem retireAndReturnByLineState : Obligations.RetireAndReturnByLineState := by
  refine ⟨fun s p hjobs hnodup => ?_, fun s f args hreq hlen hw => ?_⟩
  · refine ⟨State.enterRetired_line_self hjobs, fun q hq => ?_, fun j hj x hx => ?_, fun hempty => ?_,
      s.enterRetired_accounts p, s.enterRetired_meters p, (follows_enterRetired s p).outside⟩
    · rw [State.enterRetired_line, if_neg hq]
    · obtain ⟨hjob, hwaiting⟩ := State.enterRetired_queueJob hjobs hnodup hj hx
      obtain ⟨hbound, htarget, hdispatch, hconfirm, hheld, hrun⟩ := unboundRecord_facts p x
      exact ⟨_, hjob, hbound, htarget, hdispatch, hconfirm, hheld, fun hnot => ⟨hrun hnot, hwaiting hnot⟩⟩
    · rw [State.enterRetired_jobs, State.enterRetired_waiting]
      exact s.unbindAll_empty p hempty
  · have hsize : sized 1 args = true := decide_eq_true hlen
    refine ⟨fun habove => congrArg _ (manage_onPrinter_above hreq hsize retireAct habove hw), fun p hp =>
      ⟨fun hst hbusy => ?_, fun hst hi hf => ?_, fun hst => ?_, fun hst => ?_, fun hst => ?_, fun hst => ?_⟩,
      fun habove => congrArg _ (manage_onPrinter_above hreq hsize returnAct habove hw), fun p hp =>
      ⟨fun hst => ?_, fun hst => ?_⟩⟩
    · exact congrArg _ (manage_onPrinter_lines hreq hsize hp retireAct (retireAct_serving hst hbusy) rfl hw
        not_moveStarted_retiring)
    · exact congrArg _ (manage_onPrinter_ended hreq hsize hp retireAct (retireAct_idle hst hi hf)
        (follows_enterRetired s p))
    · exact congrArg _ (manage_onPrinter_ended hreq hsize hp retireAct (retireAct_off hst)
        (follows_enterRetired s p))
    · exact congrArg _ (manage_onPrinter_lines hreq hsize hp retireAct (retireAct_blocked hst)
        (requestFlush_lines .retire rfl) hw fun q => not_moveStarted_flush .retire (not_moveStarted_retiring q))
    · exact congrArg _ (manage_onPrinter_lines hreq hsize hp retireAct (retireAct_retiring hst)
        (requestFlush_lines .retire rfl) hw fun q => not_moveStarted_flush .retire (not_moveStarted rfl))
    · exact congrArg _ (manage_onPrinter_refused hreq hsize hp retireAct (retireAct_retired hst) hw)
    · rw [← returnedLine_eq]
      exact congrArg _ (manage_onPrinter_lines hreq hsize hp returnAct (returnAct_retired hst) rfl hw
        fun q => not_moveStarted
          (s.line_modLine_keeps Line.moveDelay p (returnedLine s.live) (fun _ => rfl) q))
    · exact congrArg _ (manage_onPrinter_refused hreq hsize hp returnAct (returnAct_refused hst) hw)

end Sys2Proof.Machine
end

-- O37: ACK ALERT by the state of its record (R167).
section
namespace Sys2Proof.Machine

section
variable {s : State} {f : ShopFrame} {args : List Byte} {r : AlertRec}

theorem alertNumbered_number {n : Nat} (h : s.alertNumbered n = some r) : r.number = n :=
  of_decide_eq_true (List.find?_some (p := fun r : AlertRec => decide (r.number = n)) h)

theorem ackAlertAct_none (h : field args 0 2 = 0 ∨ s.alertNumbered (field args 0 2) = none) :
    ackAlertAct args s = (s, .notFound, []) := by
  have htarget : s.ackTarget (field args 0 2) = none := by
    unfold State.ackTarget
    split
    · rfl
    · rename_i hn
      exact h.resolve_left hn
  unfold ackAlertAct
  rw [htarget]
  rfl

section
variable (hn : field args 0 2 ≠ 0) (h : s.alertNumbered (field args 0 2) = some r)
include hn h

theorem ackTarget_some : s.ackTarget (field args 0 2) = some r := (if_neg hn).trans h

theorem ackAlertAct_raised (hr : r.state = .raised) :
    ackAlertAct args s = (s.modAlert r.number ackedRecord, .ok, ackBody r 2) := by
  unfold ackAlertAct
  simp only [ackTarget_some hn h, hr]
  rfl

theorem ackAlertAct_acked (hr : r.state = .acked) : ackAlertAct args s = (s, .ok, ackBody r 2) := by
  unfold ackAlertAct
  simp only [ackTarget_some hn h, hr]
  rfl

theorem ackAlertAct_cleared (hr : r.state = .cleared) :
    ackAlertAct args s = (s.removeAlert r.number, .ok, ackBody r 4) := by
  unfold ackAlertAct
  simp only [ackTarget_some hn h, hr]
  rfl

end

/-- An acknowledgement changes the alert table alone. -/
theorem exec_ackAlert {u : State} {st : Status} {body : List Byte} (hreq : Requested s f args)
    (hlen : args.length = 2) (hw : NoPassWanted s) (hact : ackAlertAct args s = (u, st, body))
    (hu : u = { s with alerts := u.alerts, cleared := u.cleared }) :
    exec (.ackAlert f) s = .next (answered s u f 0 st body) := by
  have hsettings : u.settings = s.settings := by rw [hu]
  have haccounts : u.accounts = s.accounts := by rw [hu]
  have hpasses : u.passesWanted = s.passesWanted := by rw [hu]
  have hlines : u.lines = s.lines := by rw [hu]
  exact congrArg _ (manage_calm hreq noJob (sizeOk := sized 2) (decide_eq_true hlen) hact
    (congrArg Settings.port hsettings) (fun a => Nat.le_of_eq (by rw [State.account_congr haccounts]))
    (hpasses.trans hw) (zeroMove_none fun p => by rw [State.line_congr hlines]))

theorem answered_shopOut (u : State) (f : ShopFrame) (job : Nat) (st : Status) (body : List Byte) :
    ∃ q : Reply, (answered s u f job st body).shopOut = u.shopOut ++ [.reply q] := ⟨_, rfl⟩

/-- One frame answers it, and nothing else is sent. -/
theorem ackAlert_sends {u : State} {st : Status} {body : List Byte}
    (h : exec (.ackAlert f) s = .next (answered s u f 0 st body)) (hout : u.shopOut = s.shopOut) :
    ∃ (t : State) (q : Reply), exec (.ackAlert f) s = .next t ∧ t.shopOut = s.shopOut ++ [.reply q] := by
  obtain ⟨q, hq⟩ := answered_shopOut (s := s) u f 0 st body
  exact ⟨_, q, h, by rw [hq, hout]⟩

end

/-- The clear of an acknowledged condition takes its record away (R164). -/
theorem clearAlert_acked {s : State} {r : AlertRec} {k : AlertKind} {subj : Subject} (h : s.alertOf k subj = some r)
    (hr : r.state = .acked) : s.clearAlert k subj = (s.removeAlert r.number).send
      (.alert (recordFrame s.settings.port .clear { r with state := .cleared })) := by
  unfold State.clearAlert
  simp only [h, hr]

/-- Settles O37. -/
theorem ackAlertByRecordState : Obligations.AckAlertByRecordState := by
  intro s f args hreq hlen hw
  have hnone (h : field args 0 2 = 0 ∨ s.alertNumbered (field args 0 2) = none) :=
    exec_ackAlert hreq hlen hw (ackAlertAct_none h) rfl
  have hraised {r : AlertRec} (hn : field args 0 2 ≠ 0) (h : s.alertNumbered (field args 0 2) = some r)
      (hr : r.state = .raised) := exec_ackAlert hreq hlen hw (ackAlertAct_raised hn h hr) rfl
  have hacked {r : AlertRec} (hn : field args 0 2 ≠ 0) (h : s.alertNumbered (field args 0 2) = some r)
      (hr : r.state = .acked) := exec_ackAlert hreq hlen hw (ackAlertAct_acked hn h hr) rfl
  have hcleared {r : AlertRec} (hn : field args 0 2 ≠ 0) (h : s.alertNumbered (field args 0 2) = some r)
      (hr : r.state = .cleared) := exec_ackAlert hreq hlen hw (ackAlertAct_cleared hn h hr) rfl
  refine ⟨hnone, fun r hn h => ⟨hraised hn h, hacked hn h, hcleared hn h⟩, ?_, fun r k subj h hr => ?_⟩
  · by_cases hn : field args 0 2 = 0
    · exact ackAlert_sends (hnone (.inl hn)) rfl
    · cases h : s.alertNumbered (field args 0 2) with
      | none => exact ackAlert_sends (hnone (.inr h)) rfl
      | some r =>
        cases hr : r.state with
        | raised => exact ackAlert_sends (hraised hn h hr) rfl
        | acked => exact ackAlert_sends (hacked hn h hr) rfl
        | cleared => exact ackAlert_sends (hcleared hn h hr) rfl
  · exact clearAlert_acked h hr

end Sys2Proof.Machine
end

-- O38: reminders, openings and clears (R160 to R166), and the spool low flag (R19).
section
namespace Sys2Proof.Machine

/-! ### The alert table, by number -/

theorem State.alertNumbered_modAlert (s : State) (n m : Nat) (f : AlertRec → AlertRec)
    (hf : ∀ r, (f r).number = r.number) :
    (s.modAlert n f).alertNumbered m = if m = n then (s.alertNumbered m).map f else s.alertNumbered m := by
  have hnumber (r : AlertRec) : (if r.number = n then f r else r).number = r.number := by
    split
    · exact hf r
    · rfl
  have hfind : (s.modAlert n f).alertNumbered m =
      (s.alertNumbered m).map fun r => if r.number = n then f r else r := by
    unfold State.alertNumbered State.modAlert
    rw [List.find?_map]
    congr 2
    funext r
    simp only [Function.comp_apply, hnumber]
  rw [hfind]
  cases h : s.alertNumbered m with
  | none => simp
  | some r =>
    rw [Option.map_some, alertNumbered_number h, Option.map_some]
    split <;> rfl

/-! ### A reminder (R166) -/

theorem State.remind_due {s : State} {n : Nat} {r : AlertRec} (h : s.alertNumbered n = some r)
    (hdue : timerDue r.timer = true) : s.remind n = (s.modAlert n (remindedRecord s)).send
      (.alert (recordFrame s.settings.port .reminder (remindedRecord s r))) := by
  unfold State.remind
  rw [h]
  exact if_pos hdue

theorem State.remind_early {s : State} {n : Nat}
    (h : ∀ r, s.alertNumbered n = some r → timerDue r.timer = false) : s.remind n = s := by
  unfold State.remind
  cases hr : s.alertNumbered n with
  | none => rfl
  | some r => exact if_neg (by rw [h r hr]; exact Bool.false_ne_true)

/-- The record of a reminder that has been sent. -/
theorem remindedRecord_eq (s : State) (r : AlertRec) : remindedRecord s r =
    { r with
      reminders := min 255 (r.reminders + 1)
      timer := if s.settings.reminderLimit = 0 ∨ min 255 (r.reminders + 1) < s.settings.reminderLimit then
        timerStart s.settings.reminderInterval else .stopped } := by
  rw [remindedRecord, saturate_eq]

/-! ### The opening of an alert (R160 to R163) -/

section
variable {s : State} {k : AlertKind} {subj : Subject} {r : AlertRec} (d : Detail)

theorem openAlert_present (h : s.alertOf k subj = some r) (hr : r.state ≠ .cleared) :
    s.openAlert k subj d = s.modAlert r.number fun q => { q with detail := d } := by
  unfold State.openAlert
  rw [h]
  exact if_neg hr

/-- A record opened again. -/
def againRecord (s : State) (k : AlertKind) (d : Detail) (q : AlertRec) : AlertRec :=
  { q with
    state := if isCondition k then .raised else .cleared
    present := isCondition k
    repeats := min 255 (q.repeats + 1)
    reminders := 0
    raisedTime := s.timeBase
    detail := d
    timer := timerStart s.settings.reminderInterval }

theorem reopened_eq (s : State) {k : AlertKind} (d : Detail) {q : AlertRec} (h : q.kind = k) :
    reopened s d q = againRecord s k d q := by
  rw [reopened, againRecord, saturate_eq, h]

theorem openAlert_again (h : s.alertOf k subj = some r) (hr : r.state = .cleared) (hlaw : AlertTableLaw s) :
    s.openAlert k subj d = { s with
      alerts := s.alerts.map fun q => if q.number = r.number then againRecord s k d q else q
      cleared := if isCondition k then without r.number s.cleared else without r.number s.cleared ++ [r.number]
      shopOut := s.shopOut ++ [.alert (recordFrame s.settings.port (if isCondition k then .raise else .event)
        (againRecord s k d r))] } := by
  obtain ⟨hmem, hkind, -⟩ := alertOf_some h
  have htable : (s.alerts.map fun q => if q.number = r.number then reopened s d q else q) =
      s.alerts.map fun q => if q.number = r.number then againRecord s k d q else q := by
    refine List.map_congr_left fun q hq => ?_
    split
    · rename_i hnumber
      rw [hlaw.unique hq hmem hnumber, reopened_eq s d hkind]
    · rfl
  rw [← reopened_eq s d hkind, ← htable]
  unfold State.openAlert
  rw [h]
  exact if_pos hr

/-- The record of a condition that has gone. -/
theorem clearAlert_raised (h : s.alertOf k subj = some r) (hr : r.state = .raised) : s.clearAlert k subj =
    { s with
      alerts := s.alerts.map fun q => if q.number = r.number then clearedRecord s q else q
      cleared := without r.number s.cleared ++ [r.number]
      shopOut := s.shopOut ++ [.alert (recordFrame s.settings.port .clear (clearedRecord s r))] } := by
  unfold State.clearAlert
  simp only [h, hr]
  rfl

theorem clearAlert_cleared (h : s.alertOf k subj = some r) (hr : r.state = .cleared) : s.clearAlert k subj = s := by
  unfold State.clearAlert
  simp only [h, hr]

theorem clearAlert_untracked (h : s.alertOf k subj = none) : s.clearAlert k subj =
    s.send (.alert (untrackedFrame s.settings.port s.timeBase .clear k subj Detail.none)) := by
  unfold State.clearAlert
  simp only [h]

/-! #### A new record -/

theorem alertPlace_free (h : s.alerts.length < 32) : s.alertPlace = some s := if_pos h

theorem alertPlace_oldest {m : Nat} {rest : List Nat} (h : s.alerts.length = 32) (hc : s.cleared = m :: rest) :
    s.alertPlace = some (s.removeAlert m) := by
  unfold State.alertPlace
  rw [if_neg (by rw [h]; decide), hc]

theorem alertPlace_full (h : 32 ≤ s.alerts.length) (hc : s.cleared = []) : s.alertPlace = none := by
  unfold State.alertPlace
  rw [if_neg (show ¬s.alerts.length < Config.alertRecords from Nat.not_lt.mpr h), hc]

theorem openAlert_untracked (h : s.alertOf k subj = none) (hp : s.alertPlace = none) :
    s.openAlert k subj d = s.untrackedOpen k subj d := by
  unfold State.openAlert
  simp only [h, hp]

/-- A new record takes the first free number after the counter, in the table that has a place. -/
theorem openAlert_new {t : State} (h : s.alertOf k subj = none) (hp : s.alertPlace = some t)
    (hlen : t.alerts.length ≤ 32) : ∃ i n : Nat, n = numberAfter (i + 1) t.alertCtr ∧ 1 ≤ n ∧ n ≤ 65535 ∧
      (∀ r ∈ t.alerts, r.number ≠ n) ∧ (∀ m, m < i → ∃ r ∈ t.alerts, r.number = numberAfter (m + 1) t.alertCtr) ∧
      s.openAlert k subj d = t.makeAlert n k subj d := by
  obtain ⟨n, hn⟩ := allocate_total (t.alerts.map fun r => r.number) (Config.alertRecords + 1) t.alertCtr
    (by rw [List.length_map]; exact Nat.lt_succ_of_le hlen) (by decide)
  obtain ⟨i, -, hnumber, hfresh, hused⟩ := allocate_first hn
  obtain ⟨hlow, hhigh⟩ := allocate_range hn
  refine ⟨i, n, hnumber, hlow, hhigh, fun r hr he => hfresh (List.mem_map.mpr ⟨r, hr, he⟩),
    fun m hm => List.mem_map.mp (hused m hm), ?_⟩
  unfold State.openAlert
  simp only [h, hp, hn]

end

/-! ### The spool low flag -/

section
variable {s : State}

theorem State.evalSpoolLow_falls (h : s.spoolLow = false) (hlow : s.free.length < s.settings.lowWater) :
    s.evalSpoolLow = ({ s with spoolLow := true }).openAlert .spoolLow .part
      { Detail.none with free := some s.free.length } := if_pos ⟨h, hlow⟩

theorem State.evalSpoolLow_rises (h : s.spoolLow = true) (hhigh : s.settings.highWater ≤ s.free.length) :
    s.evalSpoolLow = ({ s with spoolLow := false }).clearAlert .spoolLow .part :=
  (if_neg fun hc => by rw [h] at hc; exact Bool.noConfusion hc.1).trans (if_pos ⟨h, hhigh⟩)

theorem State.evalSpoolLow_stays_high (h : s.spoolLow = false) (hlow : s.settings.lowWater ≤ s.free.length) :
    s.evalSpoolLow = s :=
  (if_neg fun hc => Nat.not_lt.mpr hlow hc.2).trans (if_neg fun hc => by rw [h] at hc; exact Bool.noConfusion hc.1)

theorem State.evalSpoolLow_stays_low (h : s.spoolLow = true) (hhigh : s.free.length < s.settings.highWater) :
    s.evalSpoolLow = s :=
  (if_neg fun hc => by rw [h] at hc; exact Bool.noConfusion hc.1).trans (if_neg fun hc => Nat.not_lt.mpr hc.2 hhigh)

theorem State.returnBlocks_some (s : State) {bs : List Block} (h : bs ≠ []) :
    s.returnBlocks bs = ({ s with free := s.free ++ bs }).evalSpoolLow := by
  cases bs with
  | nil => exact absurd rfl h
  | cons b bs => rfl

end

/-- Settles O38. -/
theorem reminderIsSent : Obligations.ReminderIsSent := by
  refine ⟨fun s n => ⟨fun r h hdue => ?_, fun h => congrArg _ (State.remind_early h)⟩, fun s k subj d => ⟨fun r h =>
    ⟨openAlert_present d h, openAlert_again d h, clearAlert_raised h, clearAlert_cleared h⟩, fun h =>
    ⟨fun hlen => ?_, fun m rest hlen hc => ?_, fun hlen hc => ?_, clearAlert_untracked h⟩⟩, fun s =>
    ⟨State.evalSpoolLow_falls, State.evalSpoolLow_rises, State.evalSpoolLow_stays_high, State.evalSpoolLow_stays_low,
      fun bs hbs => s.returnBlocks_some hbs⟩⟩
  · have hnumbered := s.alertNumbered_modAlert n (f := remindedRecord s)
    rw [← remindedRecord_eq]
    refine ⟨_, congrArg (Host.Outcome.next (φ := Fault) (ρ := Refusal)) (State.remind_due h hdue), ?_, fun m hm => ?_, rfl, rfl⟩
    · exact (hnumbered n fun _ => rfl).trans (by rw [if_pos rfl, h, Option.map_some])
    · exact (hnumbered m fun _ => rfl).trans (if_neg hm)
  · obtain ⟨i, n, hn⟩ := openAlert_new d h (alertPlace_free hlen) (Nat.le_of_lt hlen)
    exact ⟨i, n, hn⟩
  · have hkept : (s.removeAlert m).alerts.length ≤ 32 := by
      rw [← hlen]
      exact List.length_filter_le ..
    obtain ⟨i, n, hn⟩ := openAlert_new d h (alertPlace_oldest hlen hc) hkept
    exact ⟨i, n, hn⟩
  · exact openAlert_untracked d h (alertPlace_full hlen hc)

end Sys2Proof.Machine
end

-- O40, O41: the resets (R194, R195).
section
namespace Sys2Proof.Machine

/-! ### What a reset sends -/

/-- A state without jobs, stores and waiting frames whose idle timers stand as they should. -/
structure Emptied (s : State) : Prop where
  jobs : s.jobs = []
  stores : s.stores = []
  held : s.held = []
  passes : s.passesWanted = 0
  idle : ∀ p, idleLine (s.rosterOf p) (s.line p) = s.line p

theorem State.refreshIdle_self {s : State} (h : ∀ p, idleLine (s.rosterOf p) (s.line p) = s.line p) :
    s.refreshIdle = s := by
  have hlines : (Vector.ofFn fun p => idleLine (s.rosterOf p) (s.line p)) = s.lines := by
    refine Vector.ext fun i hi => ?_
    rw [Vector.getElem_ofFn]
    exact h ⟨i, hi⟩
  unfold State.refreshIdle State.mapLines
  rw [hlines]

theorem State.job?_nil {s : State} (h : s.jobs = []) (j : Nat) : s.job? j = none := by
  rw [State.job?, h]
  rfl

theorem State.receivedOf_nil {s : State} (h : s.jobs = []) (j i : Nat) : s.receivedOf j i = 0 := by
  unfold State.receivedOf
  rw [State.job?_nil h]

theorem State.queued_nil {s : State} (hs : s.stores = []) (hh : s.held = []) (j : Nat) : s.queued j = false := by
  simp [State.queued, State.storing, hs, hh]

/-- A job frame meets no job. -/
theorem State.jobFrame_nil {s : State} (h : s.jobs = []) (k : JobFrame) (f : ShopFrame) :
    ∃ body, s.jobFrame k f = (s, some (.unknownJob, body)) := by
  have hnone := State.job?_nil h f.job.toNat
  cases k with
  | sheetData => exact ⟨s.receivedBody f.job.toNat f.sheet.toNat, by simp only [State.jobFrame, State.sheetDataFrame, hnone]⟩
  | sheetEnd => exact ⟨[], by simp only [State.jobFrame, State.sheetEndFrame, hnone]⟩
  | jobClose => exact ⟨[], by simp only [State.jobFrame, State.jobCloseFrame, hnone]⟩
  | jobCancel => exact ⟨[], by simp only [State.jobFrame, State.jobCancelFrame, hnone]⟩

section
variable {s : State}

theorem Emptied.shopOut (h : Emptied s) (o : List ShopOut) : Emptied { s with shopOut := o } :=
  ⟨h.jobs, h.stores, h.held, h.passes, h.idle⟩

theorem Emptied.settleEvent (h : Emptied s) : settleEvent s s = s :=
  (settleEvent_self s h.passes).trans (State.refreshIdle_self h.idle)

theorem Emptied.doJobFrame (h : Emptied s) (k : JobFrame) (f : ShopFrame) : ∃ body,
    s.doJobFrame k f = s.reply s.settings.port f f.job.toNat .unknownJob body := by
  obtain ⟨body, hbody⟩ := State.jobFrame_nil h.jobs k f
  refine ⟨body, ?_⟩
  unfold State.doJobFrame State.answerJob
  simp only [hbody, h.settleEvent, State.queued_nil h.stores h.held]
  rfl

theorem Emptied.heldAtReset (h : Emptied s) (x : Held) : ∃ o, heldAtReset s x = { s with shopOut := o } := by
  cases x with
  | answer f st body => exact ⟨_, rfl⟩
  | frame k f =>
    obtain ⟨body, hbody⟩ := h.doJobFrame k f
    exact ⟨_, hbody⟩

theorem endStore_sends (s : State) (t : Store) : ∃ o, endStore s t = { s with shopOut := o } := ⟨_, rfl⟩

theorem Emptied.foldl {β : Type} {f : State → β → State}
    (hf : ∀ t, Emptied t → ∀ b, ∃ o, f t b = { t with shopOut := o }) (h : Emptied s) (l : List β) :
    ∃ o, l.foldl f s = { s with shopOut := o } := by
  induction l generalizing s with
  | nil => exact ⟨_, rfl⟩
  | cons b l ih =>
    obtain ⟨o, ho⟩ := hf s h b
    obtain ⟨q, hq⟩ := ih (h.shopOut o)
    exact ⟨q, by rw [List.foldl_cons, ho, hq]⟩

/-- The answers of a reset change only what is sent (log 12). -/
theorem Emptied.finishReset (h : Emptied s) (before : State) (f : ShopFrame) :
    ∃ o, finishReset before f s = { s with shopOut := o } := by
  obtain ⟨o, ho⟩ := h.foldl (fun t _ => endStore_sends t) before.stores
  obtain ⟨q, hq⟩ := Emptied.foldl (fun _ ht => ht.heldAtReset)
    (h.shopOut (o ++ [.reply (replyOf s.settings.port f 0 .ok s.free.length [])])) before.held
  refine ⟨q, ?_⟩
  unfold Machine.finishReset
  rw [ho]
  exact hq

theorem foldl_endStore (h : s.jobs = []) (ts : List Store) : ts.foldl endStore s = { s with shopOut := s.shopOut ++
    (ts.map fun t => .reply (replyOf s.settings.port t.frame t.job .jobEnded s.free.length (be 4 0))) } := by
  induction ts generalizing s with
  | nil => rw [List.foldl_nil, List.map_nil, List.append_nil]
  | cons t ts ih =>
    have hend : endStore s t = { s with shopOut := s.shopOut ++
        [.reply (replyOf s.settings.port t.frame t.job .jobEnded s.free.length (be 4 0))] } := by
      unfold endStore State.receivedBody
      rw [State.receivedOf_nil h]
      rfl
    have hrest := ih (s := { s with shopOut := s.shopOut ++
      [.reply (replyOf s.settings.port t.frame t.job .jobEnded s.free.length (be 4 0))] }) h
    rw [List.foldl_cons, hend, hrest, List.map_cons, List.append_assoc]
    rfl

/-- The stores under way are answered in the order they began, then the reset (log 44). -/
theorem finishReset_quiet {before : State} {n : Nat} (h : s.jobs = []) (hheld : before.held = []) (f : ShopFrame)
    (hfree : s.free.length = n) : finishReset before f s = { s with shopOut := s.shopOut ++
      (before.stores.map fun t => .reply (replyOf s.settings.port t.frame t.job .jobEnded n (be 4 0))) ++
      [.reply (replyOf s.settings.port f 0 .ok n [])] } := by
  unfold finishReset
  rw [foldl_endStore h, hheld, ← hfree]
  rfl

/-! ### The request -/

theorem Requested.form_none {f : ShopFrame} {args : List Byte} (h : Requested s f args) {sizeOk : List Byte → Bool}
    (hs : sizeOk args = true) : s.manageFormRefusal sizeOk f = none := by
  have hargs := h.args
  obtain ⟨-, hv, hl, hr, hm⟩ := h
  have hlen : args.length ≤ f.rest.length := by
    rw [← hr]
    exact List.length_take_le' ..
  unfold State.manageFormRefusal
  simp [headerOk_of hv (by omega : f.length.toNat ≤ f.rest.length + 1), hm, hl, hargs, hs]

theorem field_byte (m : Byte) : field [m] 0 1 = m.toNat := by simp [field, beNat]

section
variable {f : ShopFrame} {m : Byte} (h : Requested s f [m])
include h

theorem takeReset_mode : takeReset f s = match m.toNat with
    | 1 => finishReset s f s.warmReset
    | 2 => finishReset s f s.fullReset
    | _ => s.reply s.settings.port f 0 .badRequest [] := by
  obtain ⟨haccepts, -⟩ := id h
  unfold takeReset
  simp only [haccepts, h.form_none (sizeOk := sized 1) rfl, h.args, field_byte]
  rfl

theorem takeReset_other (h1 : m ≠ 1#8) (h2 : m ≠ 2#8) : takeReset f s = s.reply s.settings.port f 0 .badRequest [] := by
  rw [takeReset_mode h]
  split
  · rename_i hm
    exact absurd (BitVec.eq_of_toNat_eq hm) h1
  · rename_i hm
    exact absurd (BitVec.eq_of_toNat_eq hm) h2
  · rfl

end

end

/-! ### What a reset leaves -/

theorem idleLine_away {r : Roster} {l : Line} (hs : l.state ≠ .ready) (hi : l.idle = .stopped) : idleLine r l = l := by
  unfold idleLine idleHolds
  simp only [hs, decide_false, Bool.false_and, Bool.false_eq_true, if_false, ← hi]

theorem warmLine_state (st : PartState) (l : Line) :
    (warmLine st l).state = if l.state = .retired then .retired else .down := rfl

theorem warmLine_idle (st : PartState) (l : Line) : (warmLine st l).idle = .stopped := rfl

theorem warmReset_emptied (s : State) : Emptied s.warmReset where
  jobs := s.warmReset_jobs
  stores := s.warmReset_stores
  held := s.warmReset_held
  passes := s.warmReset_passesWanted
  idle p := by
    rw [State.warmReset_line]
    refine idleLine_away ?_ (warmLine_idle ..)
    rw [warmLine_state]
    split <;> decide

theorem powerUp_emptied (s : State) (straps : BitVec 4) : Emptied (s.powerUp straps) where
  jobs := s.powerUp_jobs straps
  stores := s.powerUp_stores straps
  held := s.powerUp_held straps
  passes := s.powerUp_passesWanted straps
  idle p := by
    rw [State.powerUp_line]
    exact idleLine_away (by decide) rfl

theorem warmReset_free_length (s : State) : s.warmReset.free.length = 32768 := by
  rw [State.warmReset_free, ascending_length]
  rfl

theorem powerUp_free_length (s : State) (straps : BitVec 4) : (s.powerUp straps).free.length = 32768 := by
  rw [State.powerUp_free, ascending_length]
  rfl

theorem warmReset_free_at (s : State) (b : Block) : s.warmReset.free[b.val]? = some b := by
  rw [State.warmReset_free, ← State.reset_free]
  exact State.reset_free_at b

/-- Settles O40. -/
theorem resetWarmEmptiesAndKeeps : Obligations.ResetWarmEmptiesAndKeeps := by
  refine ⟨fun s f hreq => ?_, fun s f hreq hheld => ?_, fun s f m hreq h1 h2 => ?_, fun s => ?_⟩
  · obtain ⟨o, ho⟩ := (warmReset_emptied s).finishReset s f
    exact ⟨o, congrArg (Host.Outcome.next (φ := Fault) (ρ := Refusal)) ((takeReset_mode hreq).trans ho)⟩
  · exact congrArg (Host.Outcome.next (φ := Fault) (ρ := Refusal)) ((takeReset_mode hreq).trans
      (finishReset_quiet s.warmReset_jobs hheld f (warmReset_free_length s)))
  · have hother := takeReset_other hreq h1 h2
    exact ⟨congrArg _ hother, congrArg _ hother⟩
  · refine ⟨warmReset_free_length s, warmReset_free_at s, rfl, rfl, rfl, rfl, rfl, rfl, rfl, rfl, rfl, rfl, rfl, rfl,
      rfl, rfl, rfl, rfl, rfl, rfl, ⟨rfl, rfl, rfl, rfl, rfl, rfl, rfl, rfl⟩, rfl, rfl, fun a => ?_, fun p => ?_⟩
    · rw [State.warmReset_account]
      rfl
    · rw [State.warmReset_line]
      exact ⟨rfl, rfl, rfl, rfl, rfl, rfl, rfl, rfl, rfl, rfl, rfl, rfl, rfl⟩

/-! ### RESET FULL and POWER ON -/

theorem resetStation_eq (straps : BitVec 4) :
    (Settings.reset straps).port.station = 0x02524E000000#48 + straps.setWidth 48 := by
  revert straps
  decide

theorem powerOn_isManager (straps : BitVec 4) (a : Station) : (State.powerOn straps).isManager a = true := by
  have hused : ((Vector.replicate 4 (0#48 : Station)).toList.filter fun b => decide (b ≠ 0#48)) = [] := by decide
  show ((((Vector.replicate 4 (0#48 : Station)).toList.filter fun b => decide (b ≠ 0#48)).isEmpty ||
    ((Vector.replicate 4 (0#48 : Station)).toList.filter fun b => decide (b ≠ 0#48)).any fun b => decide (b = a)) = true)
  rw [hused]
  rfl

/-- Settles O41. -/
theorem fullResetGivesPowerOnValues : Obligations.FullResetGivesPowerOnValues := by
  refine ⟨fun s straps => rfl, fun s f hreq => ?_, fun s f hreq hheld => ?_, fun straps =>
    ⟨resetStation_eq straps, rfl, rfl, rfl, fun f => powerOn_isManager straps f.src⟩⟩
  · obtain ⟨o, ho⟩ := (powerUp_emptied s s.straps).finishReset s f
    exact ⟨o, congrArg (Host.Outcome.next (φ := Fault) (ρ := Refusal)) ((takeReset_mode hreq).trans ho)⟩
  · exact congrArg (Host.Outcome.next (φ := Fault) (ρ := Refusal)) ((takeReset_mode hreq).trans
      (finishReset_quiet (s.powerUp_jobs s.straps) hheld f (powerUp_free_length s s.straps)))

end Sys2Proof.Machine
end

-- O60: the figures the part computes (R105, R106, R109, R116, R121 to R123, R199).
section
namespace Sys2Proof.Machine

/-! ### The tier discount (R123) -/

/-- A row of the tier table that applies at the basis. -/
def TierApplies (basis : Nat) (r : TierRow) : Prop := r.threshold ≠ 0 ∧ r.threshold ≤ basis

/-- The first of the rows with the highest threshold of those that apply, if one applies. -/
def TierBest (basis : Nat) (rows : List TierRow) : Option TierRow → Prop
  | none => ∀ r ∈ rows, ¬TierApplies basis r
  | some d => ∃ above below, rows = above ++ d :: below ∧ TierApplies basis d ∧
      (∀ r ∈ above, TierApplies basis r → r.threshold < d.threshold) ∧
      ∀ r ∈ below, TierApplies basis r → r.threshold ≤ d.threshold

/-- How one more row changes the best row so far. -/
def tierBetter (basis : Nat) (best : Option TierRow) (r : TierRow) : Option TierRow :=
  if r.threshold ≠ 0 ∧ r.threshold ≤ basis then
    match best with
    | none => some r
    | some b => if b.threshold < r.threshold then some r else some b
  else best

theorem tierRow_append (basis : Nat) (rows : List TierRow) (r : TierRow) :
    tierRow basis (rows ++ [r]) = tierBetter basis (tierRow basis rows) r := by
  unfold tierRow
  rw [List.foldl_append]
  rfl

section
variable {basis : Nat} {rows : List TierRow} {r d : TierRow}

theorem TierBest.first (h : TierBest basis rows none) (hr : TierApplies basis r) :
    TierBest basis (rows ++ [r]) (some r) :=
  ⟨rows, [], rfl, hr, fun q hq ha => absurd ha (h q hq), fun _ hq => absurd hq List.not_mem_nil⟩

theorem TierBest.higher (h : TierBest basis rows (some d)) (hr : TierApplies basis r) (hlt : d.threshold < r.threshold) :
    TierBest basis (rows ++ [r]) (some r) := by
  obtain ⟨above, below, hrows, -, habove, hbelow⟩ := h
  refine ⟨rows, [], rfl, hr, fun q hq ha => ?_, fun _ hq => absurd hq List.not_mem_nil⟩
  rw [hrows, List.mem_append, List.mem_cons] at hq
  rcases hq with hq | hq | hq
  · exact Nat.lt_trans (habove q hq ha) hlt
  · exact hq ▸ hlt
  · exact Nat.lt_of_le_of_lt (hbelow q hq ha) hlt

theorem TierBest.stays (h : TierBest basis rows (some d)) (hr : TierApplies basis r → r.threshold ≤ d.threshold) :
    TierBest basis (rows ++ [r]) (some d) := by
  obtain ⟨above, below, hrows, hd, habove, hbelow⟩ := h
  refine ⟨above, below ++ [r], by rw [hrows, List.append_assoc, List.cons_append], hd, habove, fun q hq ha => ?_⟩
  rw [List.mem_append, List.mem_singleton] at hq
  rcases hq with hq | hq
  · exact hbelow q hq ha
  · exact hq ▸ hr (hq ▸ ha)

theorem TierBest.none_stays (h : TierBest basis rows none) (hr : ¬TierApplies basis r) :
    TierBest basis (rows ++ [r]) none := by
  intro q hq
  rw [List.mem_append, List.mem_singleton] at hq
  rcases hq with hq | hq
  · exact h q hq
  · exact hq ▸ hr

theorem TierBest.better {best : Option TierRow} (h : TierBest basis rows best) :
    TierBest basis (rows ++ [r]) (tierBetter basis best r) := by
  unfold tierBetter
  split
  · rename_i hr
    cases best with
    | none => exact h.first hr
    | some d =>
      simp only
      split
      · rename_i hlt
        exact h.higher hr hlt
      · rename_i hle
        exact h.stays fun _ => Nat.not_lt.mp hle
  · rename_i hr
    cases best with
    | none => exact h.none_stays hr
    | some d => exact h.stays fun ha => absurd ha hr

end

/-- Induction on a list that grows at its end. -/
theorem list_end_induction {α : Type} {P : List α → Prop} (hnil : P []) (hsnoc : ∀ l a, P l → P (l ++ [a]))
    (l : List α) : P l := by
  have hreverse (k : List α) : P k.reverse := by
    induction k with
    | nil => exact hnil
    | cons a k ih =>
      rw [List.reverse_cons]
      exact hsnoc _ a ih
  have hl := hreverse l.reverse
  rwa [List.reverse_reverse] at hl

theorem tierRow_best (basis : Nat) (rows : List TierRow) : TierBest basis rows (tierRow basis rows) := by
  induction rows using list_end_induction with
  | hnil => exact fun r hr => absurd hr List.not_mem_nil
  | hsnoc rows r ih =>
    rw [tierRow_append]
    exact ih.better

theorem tierRow_some {basis : Nat} {rows : List TierRow} {d : TierRow} (h : tierRow basis rows = some d) :
    d ∈ rows ∧ d.threshold ≠ 0 ∧ d.threshold ≤ basis ∧
    (∀ r ∈ rows, r.threshold ≠ 0 → r.threshold ≤ basis → r.threshold ≤ d.threshold) ∧
    ∃ above below, rows = above ++ d :: below ∧
      ∀ r ∈ above, r.threshold ≠ 0 → r.threshold ≤ basis → r.threshold < d.threshold := by
  have hbest := tierRow_best basis rows
  rw [h] at hbest
  obtain ⟨above, below, hrows, ⟨hne, hle⟩, habove, hbelow⟩ := hbest
  refine ⟨by simp [hrows], hne, hle, fun r hr h0 hb => ?_, above, below, hrows, fun r hr h0 hb => habove r hr ⟨h0, hb⟩⟩
  rw [hrows, List.mem_append, List.mem_cons] at hr
  rcases hr with hr | hr | hr
  · exact Nat.le_of_lt (habove r hr ⟨h0, hb⟩)
  · exact hr ▸ Nat.le_refl _
  · exact hbelow r hr ⟨h0, hb⟩

theorem tierRow_none {basis : Nat} {rows : List TierRow} (h : tierRow basis rows = none) :
    ∀ r ∈ rows, r.threshold = 0 ∨ basis < r.threshold := by
  have hbest := tierRow_best basis rows
  rw [h] at hbest
  intro r hr
  by_cases hzero : r.threshold = 0
  · exact .inl hzero
  · exact .inr (Nat.lt_of_not_le fun hle => hbest r hr ⟨hzero, hle⟩)

theorem discounted_zero (a : Nat) : discounted a 0 = a := by
  rw [discounted, Nat.mul_zero, Nat.zero_div, Nat.sub_zero]

section
variable (rates : Vector Nat 4) (mult basis : Nat) (rows : List TierRow) (minCharge : Nat) (h : Sheet)

theorem costOf_tier {enabled : Bool} {d : Nat} (hd : tierDiscount enabled basis rows = d) :
    costOf rates mult enabled basis rows minCharge h =
      max (discounted (mediaAdjust (sideSum rates h) mult) d) minCharge := by rw [costOf, hd]

theorem costOf_plain {enabled : Bool} (hd : tierDiscount enabled basis rows = 0) :
    costOf rates mult enabled basis rows minCharge h = max (mediaAdjust (sideSum rates h) mult) minCharge := by
  rw [costOf_tier rates mult basis rows minCharge h hd, discounted_zero]

theorem tierDiscount_some {d : TierRow} (hd : tierRow basis rows = some d) :
    tierDiscount true basis rows = d.discount := by simp only [tierDiscount, hd, if_true]

theorem tierDiscount_none (hd : tierRow basis rows = none) : tierDiscount true basis rows = 0 := by
  simp only [tierDiscount, hd, if_true]

end

/-! ### The pace (R106) -/

theorem smoothPace_up {pace sample : Nat} (h : pace ≤ sample) : smoothPace pace sample = pace + (sample - pace) / 8 := by
  unfold smoothPace
  rw [Int.tdiv_eq_ediv_of_nonneg (by omega)]
  omega

theorem smoothPace_down {pace sample : Nat} (h : sample ≤ pace) :
    smoothPace pace sample = pace - (pace - sample) / 8 := by
  have hneg : (sample : Int) - (pace : Int) = -((pace : Int) - sample) := by omega
  unfold smoothPace
  rw [hneg, Int.neg_tdiv, Int.tdiv_eq_ediv_of_nonneg (by omega)]
  omega

/-! ### Fields of several bytes -/

theorem foldl_beNat (bs : List Byte) (n : Nat) :
    bs.foldl (fun n b => n * 256 + b.toNat) n = n * 256 ^ bs.length + beNat bs := by
  induction bs generalizing n with
  | nil => simp [beNat]
  | cons b bs ih =>
    unfold beNat
    rw [List.foldl_cons, List.foldl_cons, ih, ih (0 * 256 + b.toNat), List.length_cons, Nat.pow_succ, Nat.zero_mul, Nat.zero_add,
      Nat.add_mul, Nat.mul_assoc, Nat.mul_comm 256, Nat.add_assoc]

theorem beNat_cons (b : Byte) (bs : List Byte) : beNat (b :: bs) = b.toNat * 256 ^ bs.length + beNat bs := by
  rw [beNat, List.foldl_cons, foldl_beNat, Nat.zero_mul, Nat.zero_add]

theorem be_length (n v : Nat) : (be n v).length = n := by
  induction n with
  | zero => rfl
  | succ n ih => rw [be, List.length_cons, ih]

theorem beNat_be_mod (n v : Nat) : beNat (be n v) = v % 256 ^ n := by
  induction n with
  | zero => rw [Nat.pow_zero, Nat.mod_one]; rfl
  | succ n ih =>
    have hsplit : v % 256 ^ (n + 1) = v % 256 ^ n + 256 ^ n * (v / 256 ^ n % 256) := Nat.mod_pow_succ
    rw [be, beNat_cons, be_length, ih, BitVec.toNat_ofNat, hsplit, Nat.add_comm, Nat.mul_comm]

/-- Settles O60. -/
theorem arithmeticRules : Obligations.ArithmeticRules := by
  refine ⟨fun rates mult basis rows minCharge h => ⟨?_, fun d hd => ⟨?_, tierRow_some hd⟩, fun hnone =>
      ⟨?_, tierRow_none hnone⟩⟩, fun a => rfl, fun now last => clamp_eq _ (by decide), fun pace sample =>
      ⟨smoothPace_up, smoothPace_down⟩, fun t pace hle => clamp_eq _ hle, fun x c => rfl,
      ⟨by decide, fun c hc => if_neg (Nat.not_le.mpr hc)⟩, fun n v hv => ⟨?_, be_length n v⟩, fun v =>
      ⟨rfl, fun n => rfl⟩, ⟨rfl, beNat_cons⟩, by decide +kernel⟩
  · exact costOf_plain rates mult basis rows minCharge h rfl
  · exact costOf_tier rates mult basis rows minCharge h (tierDiscount_some basis rows hd)
  · exact costOf_plain rates mult basis rows minCharge h (tierDiscount_none basis rows hnone)
  · rw [beNat_be_mod, Nat.mod_eq_of_lt hv]

end Sys2Proof.Machine
end

-- O58: the grant of a burst (R70, R71) and the transmitter (R65, R78, R199).
section
namespace Sys2Proof.Machine

/-! ### The grant -/

/-- The line that stands at a place of the walk from the line granted last. -/
def walkLine (last : LineNo) (i : Nat) : LineNo := Fin.ofNat 16 (last.val + 1 + i)

theorem walkFrom_getElem? (last : LineNo) {i : Nat} (h : i < 16) : (walkFrom last)[i]? = some (walkLine last i) := by
  rw [walkFrom, List.getElem?_map, List.getElem?_range h]
  rfl

section
variable {s : State}

theorem freeEngine_none (h0 : s.engine0.isSome = true) (h1 : s.engine1.isSome = true) : s.freeEngine = none := by
  rw [Option.isSome_iff_ne_none] at h0 h1
  simp [State.freeEngine, h0, h1]

theorem freeEngine_first (h : s.engine0 = none) : s.freeEngine = some 0 := by simp [State.freeEngine, h]

theorem freeEngine_second (h0 : s.engine0 ≠ none) (h1 : s.engine1 = none) : s.freeEngine = some 1 := by
  simp [State.freeEngine, h0, h1]

theorem grantLine_none (h : ∀ p, s.requests p = false) : s.grantLine = none := by
  rw [State.grantLine, List.find?_eq_none]
  intro p _
  rw [h p]
  exact Bool.false_ne_true

theorem grantLine_first {k : Nat} (hk : k < 16) (hbefore : ∀ i, i < k → s.requests (walkLine s.lastGranted i) = false)
    (hp : s.requests (walkLine s.lastGranted k) = true) : s.grantLine = some (walkLine s.lastGranted k) := by
  obtain ⟨hlt, hget⟩ := List.getElem?_eq_some_iff.mp (walkFrom_getElem? s.lastGranted hk)
  rw [State.grantLine, List.find?_eq_some_iff_getElem]
  refine ⟨hp, k, hlt, hget, fun i hi => ?_⟩
  obtain ⟨_, hgeti⟩ := List.getElem?_eq_some_iff.mp (walkFrom_getElem? s.lastGranted (Nat.lt_trans hi hk))
  rw [hgeti, hbefore i hi]
  rfl

theorem requests_transmission {p : LineNo} (h : s.requests p = true) : ∃ e, s.inTransmission p = some e := by
  simp only [State.requests, Bool.and_eq_true] at h
  obtain ⟨⟨⟨⟨-, hsome⟩, -⟩, -⟩, -⟩ := h
  exact Option.isSome_iff_exists.mp hsome

theorem State.grant_none (h : s.freeEngine = none ∨ s.grantLine = none) : s.grant = s := by
  unfold State.grant
  rcases h with h | h <;> rw [h]
  · cases s.grantLine <;> rfl
  · cases s.freeEngine <;> rfl

/-- The line a burst is granted to. -/
def grantedLine (b : Burst) (l : Line) : Line := { l with credits := l.credits - 1, burst := some b }

theorem State.grant_some {g : Fin 2} {p : LineNo} {e : Entry} (hg : s.freeEngine = some g) (hp : s.grantLine = some p)
    (he : s.inTransmission p = some e) : s.grant =
      ({ (s.modLine p (grantedLine (s.burstOf g e))) with lastGranted := p }).setEngine g (some p) := by
  unfold State.grant
  simp only [hg, hp, he]
  rfl

theorem State.setEngine_line (s : State) (g : Fin 2) (o : Option LineNo) (q : LineNo) :
    (s.setEngine g o).line q = s.line q := by
  unfold State.setEngine
  split <;> rfl

/-- Two engines free of a line do not differ in what the line sees. -/
theorem State.grant_free (h : s.engine0 = none ∨ s.engine1 = none) : ∃ g : Fin 2, s.freeEngine = some g ∧
    (g = 0 → s.engine0 = none) ∧ (g = 1 → s.engine1 = none) := by
  by_cases h0 : s.engine0 = none
  · exact ⟨0, freeEngine_first h0, fun _ => h0, fun h => absurd h (by decide)⟩
  · have h1 := h.resolve_left h0
    exact ⟨1, freeEngine_second h0 h1, fun h => absurd h (by decide), fun _ => h1⟩

theorem State.setEngine_zero (s : State) (o : Option LineNo) : s.setEngine 0 o = { s with engine0 := o } := rfl

theorem State.setEngine_one (s : State) (o : Option LineNo) : s.setEngine 1 o = { s with engine1 := o } := rfl

/-! ### The transmitter -/

/-- What has gone out whole when the transmitter takes the next frame (log 14). -/
def sentFrames (p : LineNo) : Option LineFrame → List (LineNo × LineFrame)
  | some f => [(p, f)]
  | none => []

theorem State.finishFrame_eq (s : State) (p : LineNo) :
    s.finishFrame p = { s with lineOut := s.lineOut ++ sentFrames p (s.line p).sending } := by
  unfold State.finishFrame
  cases (s.line p).sending with
  | some f => rfl
  | none =>
    rw [sentFrames, List.append_nil]

theorem State.finishFrame_line (s : State) (p q : LineNo) : (s.finishFrame p).line q = s.line q := by
  rw [s.finishFrame_eq p]
  rfl

theorem State.transmit_configuring {p : LineNo} (h : s.live = .configuring) : s.transmit p = s := if_pos h

theorem State.transmit_live {p : LineNo} (h : s.live = .live) : s.transmit p = (s.finishFrame p).modLine p takeFrame :=
  if_neg (by rw [h]; exact PartState.noConfusion)

section
variable {l : Line}

theorem takeFrame_control {c : Control} {cs : List Control} (h : l.control = c :: cs) :
    takeFrame l = { l with control := cs, sending := some (.control c) } := by
  unfold takeFrame
  rw [h]

theorem takeFrame_fifo {f : SheetFrame} {fs : List SheetFrame} (h : l.control = []) (hf : l.fifo = f :: fs) :
    takeFrame l = { l with fifo := fs, sending := some (.sheet f) } := by
  unfold takeFrame
  rw [h, hf]

theorem takeFrame_nothing (h : l.control = []) (hf : l.fifo = []) : takeFrame l = { l with sending := none } := by
  unfold takeFrame
  rw [h, hf]

end

section
variable {p : LineNo} (h : s.live = .live)
include h

theorem State.transmit_line_self : (s.transmit p).line p = takeFrame (s.line p) := by
  rw [State.transmit_live h, State.line_modLine_self, State.finishFrame_line]

theorem State.transmit_line_ne {q : LineNo} (hq : q ≠ p) : (s.transmit p).line q = s.line q := by
  rw [State.transmit_live h, State.line_modLine_ne _ _ hq, State.finishFrame_line]

theorem State.transmit_lineOut : (s.transmit p).lineOut = s.lineOut ++ sentFrames p (s.line p).sending := by
  rw [State.transmit_live h, State.finishFrame_eq]
  rfl

theorem State.transmit_only :
    s.transmit p = { s with lineOut := (s.transmit p).lineOut, lines := (s.transmit p).lines } := by
  rw [State.transmit_live h, State.finishFrame_eq]
  rfl

/-- The signal of the line, of its frame being sent. -/
theorem State.lineSignal_live : s.lineSignal p = match (s.line p).sending with
    | some f => .frame (lineFrameWire f)
    | none => .idle := if_neg (by rw [h]; exact PartState.noConfusion)

theorem State.transmit_nothing_signal (hc : (s.line p).control = []) (hf : (s.line p).fifo = []) :
    (s.transmit p).lineSignal p = .idle := by
  have hlive : (s.transmit p).live = .live := by
    rw [State.transmit_only h]
    exact h
  rw [State.lineSignal_live hlive, State.transmit_line_self h, takeFrame_nothing hc hf]

end

end

/-- Settles O58. -/
theorem grantsAndTransmissions : Obligations.GrantsAndTransmissions := by
  refine ⟨fun s h => ?_, fun s k hfree => ?_, fun s p => ⟨fun h => congrArg _ (State.transmit_configuring h), fun h => ?_⟩,
    fun s p => ⟨fun h => if_pos h, fun h hs => ?_, fun f h hs => ?_, fun h hc hf => ?_⟩⟩
  · exact congrArg _ (State.grant_none (h.imp (fun ⟨h0, h1⟩ => freeEngine_none h0 h1) grantLine_none))
  · intro walk p hbefore hp
    obtain ⟨e, he⟩ := requests_transmission hp
    obtain ⟨g, hg, h0, h1⟩ := State.grant_free hfree
    have hline : s.grantLine = some p := grantLine_first k.isLt hbefore hp
    have hself : ((s.modLine p (grantedLine (s.burstOf g e))).line p) = grantedLine (s.burstOf g e) (s.line p) :=
      s.line_modLine_self p _
    refine ⟨e, g, _, he, congrArg (Host.Outcome.next (φ := Fault) (ρ := Refusal)) (State.grant_some hg hline he), fun hz => ?_,
      fun hz => ?_, ?_, ?_, ?_, fun q hq => ?_⟩
    · subst hz
      exact ⟨h0 rfl, rfl, rfl⟩
    · subst hz
      exact ⟨h1 rfl, rfl, rfl⟩
    · unfold State.setEngine
      split <;> rfl
    · rw [State.setEngine_line]
      exact hself
    · unfold State.setEngine
      split <;> rfl
    · rw [State.setEngine_line]
      exact s.line_modLine_ne _ hq
  · refine ⟨_, rfl, State.transmit_lineOut h, fun c cs hc => ?_, fun f fs hc hf => ?_, fun hc hf => ?_, fun q hq => ?_,
      State.transmit_only h⟩
    · exact (State.transmit_line_self h).trans (takeFrame_control hc)
    · exact (State.transmit_line_self h).trans (takeFrame_fifo hc hf)
    · exact (State.transmit_line_self h).trans (takeFrame_nothing hc hf)
    · exact State.transmit_line_ne h hq
  · rw [State.lineSignal_live h, hs]
  · rw [State.lineSignal_live h, hs]
  · exact ⟨_, rfl, State.transmit_nothing_signal h hc hf⟩

end Sys2Proof.Machine
end

-- O48, O49, O53: receive activity (R78), HELLO (R81), READY and the expiries of the awake timers (R83 to R86).
section
namespace Sys2Proof.Machine

/-! ### An event of a line -/

section
variable {s u : State} {p : LineNo}

/-- An event that changes no account figure, no state and no move delay ends with the idle timers. -/
theorem Steady.settled (h : Steady s u) (hw : NoPassWanted u) : settleEvent s u = u.refreshIdle :=
  settleEvent_calm (fun a => Nat.le_of_eq (available_sameFigures (h.figures a))) hw (zeroMove_none fun p => (h.lines p).2)

theorem lineEvent_live {act : State → State} (h : s.live = .live) :
    lineEvent p act s = settleEvent s (act (s.modLine p heard)) := if_neg (by rw [h]; exact PartState.noConfusion)

theorem lineEvent_configuring {act : State → State} (h : s.live = .configuring) : lineEvent p act s = s := if_pos h

theorem expiry_due {timer : Line → Timer} {act : State → State} (h : timerDue (timer (s.line p)) = true) :
    expiry timer p act s = settleEvent s (act s) := if_pos h

theorem expiry_early {timer : Line → Timer} {act : State → State} (h : timerDue (timer (s.line p)) = false) :
    expiry timer p act s = s := if_neg (by rw [h]; exact Bool.false_ne_true)

theorem State.line_heard (s : State) (p : LineNo) : (s.modLine p heard).line p = heard (s.line p) :=
  s.line_modLine_self p heard

theorem refreshIdle_line_keeps {α : Type} (figureOf : Line → α) (s : State) (p : LineNo)
    (hf : ∀ l t, figureOf { l with idle := t } = figureOf l) : figureOf (s.refreshIdle.line p) = figureOf (s.line p) := by
  rw [State.refreshIdle, State.line_mapLines, idleLine]
  split
  · split
    · rfl
    · exact hf ..
  · exact hf ..

/-- A frame without an effect is receive activity. -/
theorem lineEvent_nothing {act : State → State} (hlive : s.live = .live) (hw : NoPassWanted s)
    (hact : act (s.modLine p heard) = s.modLine p heard) : lineEvent p act s = (s.modLine p heard).refreshIdle := by
  refine (lineEvent_quiet hlive ?_ ?_ fun q => ?_).trans (congrArg State.refreshIdle hact)
  · rw [hact]
    rfl
  · rw [hact]
    exact hw
  · rw [hact]

end

theorem reportSized_false {report : List Byte} (h : report = [] ∨ 32 < report.length) : reportSized report = false := by
  rcases h with h | h
  · rw [h]
    rfl
  · simp [reportSized, h]

/-- Settles O48. -/
theorem receiveActivityRestartsTheMonitor : Obligations.ReceiveActivityRestartsTheMonitor := by
  refine ⟨fun s p a b c tag report f hconf i hi => ?_, fun s p f hlive hw => ⟨?_, ?_, fun report hreport => ?_, ?_⟩⟩
  · simp only [printerFrames, List.mem_cons, List.not_mem_nil, or_false] at hi
    rcases hi with rfl | rfl | rfl | rfl | rfl | rfl | rfl | rfl <;> exact congrArg _ (lineEvent_configuring hconf)
  · exact congrArg _ (lineEvent_nothing hlive hw rfl)
  · exact congrArg _ (lineEvent_nothing hlive hw rfl)
  · refine congrArg _ (lineEvent_nothing hlive hw ?_)
    rw [reportSized_false hreport]
    rfl
  · have hkeeps {α : Type} (figureOf : Line → α) (hidle : ∀ l t, figureOf { l with idle := t } = figureOf l)
        (hheard : ∀ l, figureOf (heard l) = figureOf l) :
        figureOf ((s.modLine p heard).refreshIdle.line p) = figureOf (s.line p) :=
      (refreshIdle_line_keeps figureOf _ p hidle).trans (s.line_modLine_keeps figureOf p heard hheard p)
    exact ⟨hkeeps Line.credits (fun _ _ => rfl) fun _ => rfl, hkeeps Line.inflight (fun _ _ => rfl) fun _ => rfl,
      hkeeps Line.state (fun _ _ => rfl) fun _ => rfl, rfl⟩

/-! ### HELLO by line state -/

section
variable {s : State} {p : LineNo} (c n m : BitVec 16)

theorem State.hello_down (h : (s.line p).state = .down) : s.hello p c n m = s.linkUp p c n m := by
  unfold State.hello
  rw [h]

theorem State.hello_retired (h : (s.line p).state = .retired) : s.hello p c n m = s := by
  unfold State.hello
  rw [h]

theorem State.hello_retiring (h : (s.line p).state = .retiring) : s.hello p c n m = s.loseLine p false := by
  unfold State.hello
  rw [h]

theorem State.hello_up (h1 : (s.line p).state ≠ .down) (h2 : (s.line p).state ≠ .retired)
    (h3 : (s.line p).state ≠ .retiring) : s.hello p c n m = (s.loseLine p false).linkUp p c n m := by
  unfold State.hello
  cases h : (s.line p).state with
  | down => exact absurd h h1
  | retired => exact absurd h h2
  | retiring => exact absurd h h3
  | waking | ready | standby | blocked => rfl

theorem State.loseLine_retiring {resync : Bool} (h : (s.line p).state = .retiring) :
    s.loseLine p resync = (s.dropLine p).enterRetired p := if_pos h

theorem State.enterRetired_state (s : State) (p : LineNo) : ((s.enterRetired p).line p).state = .retired := by
  rw [State.enterRetired_line, if_pos rfl]
  rfl

/-! ### A link-up -/

/-- The line that has linked up and is no longer lost. -/
def upLine (r : Roster) (c n m : BitVec 16) (l : Line) : Line := { linkedLine r c n m l with lineDown := false }

theorem State.clearAlert_modLine (s : State) (p : LineNo) (f : Line → Line) (k : AlertKind) (subj : Subject) :
    (s.modLine p f).clearAlert k subj = (s.clearAlert k subj).modLine p f := by
  unfold State.clearAlert
  have hof : (s.modLine p f).alertOf k subj = s.alertOf k subj := rfl
  rw [hof]
  cases s.alertOf k subj with
  | none => rfl
  | some r => cases hr : r.state <;> simp only [hr] <;> rfl

/-- LINE DOWN is cleared where the line down flag is yes. -/
def State.downCleared (s : State) (p : LineNo) : State :=
  if (s.line p).lineDown = true then s.clearAlert .lineDown (.printer p) else s

theorem State.linkUp_eq (s : State) (p : LineNo) (c n m : BitVec 16) :
    s.linkUp p c n m = ((s.downCleared p).modLine p (upLine (s.rosterOf p) c n m)).enterWaking p false := by
  have hdown : ((s.modLine p (linkedLine (s.rosterOf p) c n m)).line p).lineDown = (s.line p).lineDown := by
    rw [State.line_modLine_self]
    rfl
  unfold State.linkUp State.downCleared
  refine congrArg (fun t : State => t.enterWaking p false) ?_
  simp only [hdown]
  split
  · rw [State.modLine_modLine, State.clearAlert_modLine]
    rfl
  · rename_i hno
    refine State.modLine_congr _ _ ?_
    rw [Bool.not_eq_true] at hno
    unfold upLine linkedLine
    rw [← hno]

theorem State.downCleared_signals (s : State) (p : LineNo) : s.downCleared p = s.signalsOf (s.downCleared p) := by
  unfold State.downCleared
  split
  · exact State.clearAlert_signals ..
  · rfl

theorem State.downCleared_line (s : State) (p q : LineNo) : (s.downCleared p).line q = s.line q := by
  rw [s.downCleared_signals p]
  rfl

/-- An entry into WAKING leaves the alerts. -/
theorem State.enterWaking_alerts (s : State) (p : LineNo) (wake : Bool) : sameAlerts s (s.enterWaking p wake) := by
  unfold sameAlerts
  obtain h | h := s.enterWaking_cases p wake <;> simp [h, State.startWaking, State.enterBlocked]

theorem helloPace_eq (n : BitVec 16) (d : Nat) :
    helloPace n.toNat d = if n = 0 then d else max 100 (min 60000 n.toNat) := by
  have hzero : n.toNat = 0 ↔ n = 0 := by rw [BitVec.toNat_eq, BitVec.ofNat_eq_ofNat, BitVec.toNat_ofNat, Nat.zero_mod]
  have hclamp : clamp 100 60000 n.toNat = max 100 (min 60000 n.toNat) := clamp_eq _ (by decide)
  by_cases h : n = 0
  · exact (if_pos (hzero.mpr h)).trans (if_pos h).symm
  · exact (if_neg fun h0 => h (hzero.mp h0)).trans (hclamp.trans (if_neg h).symm)

/-- The line before it enters WAKING at its link-up. -/
theorem State.linkUp_upLine (s : State) (p : LineNo) (c n m : BitVec 16) :
    ((s.downCleared p).modLine p (upLine (s.rosterOf p) c n m)).line p = upLine (s.rosterOf p) c n m (s.line p) := by
  rw [State.line_modLine_self, State.downCleared_line]

theorem State.linkUp_line_self {α : Type} (figureOf : Line → α) (s : State) (p : LineNo)
    (hblocked : ∀ t o l, figureOf (blockedLine t o l) = figureOf l) : figureOf ((s.linkUp p c n m).line p) =
      figureOf (wakingLine (s.rosterOf p) false (upLine (s.rosterOf p) c n m (s.line p))) := by
  rw [State.linkUp_eq, State.line_enterWaking_figure figureOf _ p false hblocked, State.linkUp_upLine,
    s.downCleared_signals p]
  rfl

theorem State.linkUp_state (s : State) (p : LineNo) : ((s.linkUp p c n m).line p).state =
    if blockingPresent (s.line p).conditions then .blocked else .waking := by
  have hconditions : (((s.downCleared p).modLine p (upLine (s.rosterOf p) c n m)).line p).conditions =
      (s.line p).conditions := by
    rw [State.linkUp_upLine]
    rfl
  rw [State.linkUp_eq]
  split
  · rename_i h
    exact State.enterWaking_shut _ p false (hconditions ▸ h)
  · rename_i h
    exact (State.enterWaking_open _ p false (hconditions ▸ Bool.eq_false_iff.mpr h)).1

end

/-- Settles O49. -/
theorem helloLinksUp : Obligations.HelloLinksUp := by
  refine ⟨fun s p c n m hlive => ?_, fun s p c n m => ?_⟩
  · have hstate : ((s.modLine p heard).line p).state = (s.line p).state := by rw [State.line_heard, heard_state]
    refine ⟨fun h => ?_, fun h hw => ?_, fun h => ⟨?_, ?_⟩, fun h1 h2 h3 => ?_⟩
    · refine congrArg _ ((lineEvent_live hlive).trans (congrArg (settleEvent s) ?_))
      exact State.hello_down c n m (hstate.trans h)
    · exact congrArg _ (lineEvent_nothing hlive hw (State.hello_retired c n m (hstate.trans h)))
    · refine congrArg _ ((lineEvent_live hlive).trans (congrArg (settleEvent s) ?_))
      exact State.hello_retiring c n m (hstate.trans h)
    · rw [State.loseLine_retiring (hstate.trans h), State.enterRetired_state]
    · refine congrArg _ ((lineEvent_live hlive).trans (congrArg (settleEvent s) ?_))
      exact State.hello_up c n m (hstate ▸ h1) (hstate ▸ h2) (hstate ▸ h3)
  · have hline {α : Type} (figureOf : Line → α) (hblocked : ∀ t o l, figureOf (blockedLine t o l) = figureOf l) :=
      s.linkUp_line_self c n m figureOf p hblocked
    have hcapacity : ((s.linkUp p c n m).line p).capacity = clamp 1 4095 c.toNat := hline Line.capacity fun _ _ _ => rfl
    have hcredits : ((s.linkUp p c n m).line p).credits = clamp 1 4095 c.toNat := hline Line.credits fun _ _ _ => rfl
    refine ⟨hcapacity.trans (clamp_eq _ (by decide)), hcredits.trans hcapacity.symm, hline Line.modelCode fun _ _ _ => rfl,
      (hline Line.pace fun _ _ _ => rfl).trans (helloPace_eq n _), hline Line.tagCtr fun _ _ _ => rfl, ?_,
      hline Line.lineDown fun _ _ _ => rfl, hline Line.readySeen fun _ _ _ => rfl, ?_, ?_, s.linkUp_state c n m p,
      fun q hq => ?_, ?_, ?_, ?_⟩
    · rw [State.linkUp_eq, State.line_enterWaking_armed]
    · exact hline Line.control fun _ _ _ => rfl
    · rw [State.linkUp_eq, State.enterWaking_passesWanted, s.downCleared_signals p]
      rfl
    · rw [State.linkUp_eq, State.line_enterWaking_ne _ false hq, State.line_modLine_ne _ _ hq, State.downCleared_line]
    · rw [State.linkUp_eq, State.enterWaking_jobs, s.downCleared_signals p]
      rfl
    · rw [State.linkUp_eq, State.enterWaking_accounts, s.downCleared_signals p]
      rfl
    · rw [State.linkUp_eq]
      exact State.enterWaking_alerts ((s.downCleared p).modLine p (upLine (s.rosterOf p) c n m)) p false

/-! ### READY and the awake timers -/

section
variable {s : State} {p : LineNo}

/-- The line with its READY seen. -/
def seenLine (l : Line) : Line := { l with readySeen := true }

theorem State.readyFrame_waits (h : (s.line p).state = .waking) (hr : (s.line p).readySeen = false)
    (ht : timerRuns (s.line p).settle = true) : s.readyFrame p = s.modLine p seenLine :=
  (if_pos ⟨h, hr⟩).trans (if_pos ht)

theorem State.readyFrame_enters (h : (s.line p).state = .waking) (hr : (s.line p).readySeen = false)
    (ht : timerRuns (s.line p).settle = false) : s.readyFrame p = (s.modLine p seenLine).enterReady p :=
  (if_pos ⟨h, hr⟩).trans (if_neg (by rw [ht]; exact Bool.false_ne_true))

theorem State.readyFrame_ignored (h : (s.line p).state ≠ .waking ∨ (s.line p).readySeen = true) : s.readyFrame p = s :=
  if_neg fun hc => h.elim (absurd hc.1) fun hseen => by rw [hc.2] at hseen; exact Bool.noConfusion hseen

theorem State.enterReady_line_self (s : State) (p : LineNo) :
    (s.enterReady p).line p = readyLine s.settings (s.rosterOf p) (s.line p) := s.line_modLine_self p _

theorem State.enterStandby_line_self (s : State) (p : LineNo) : (s.enterStandby p).line p = standbyLine (s.line p) :=
  s.line_modLine_self p _

/-- The line whose settle timer has stopped. -/
def settledLine (l : Line) : Line := { l with settle := .stopped }

theorem State.settleExpiry_enters (h : (s.line p).state = .waking) (hr : (s.line p).readySeen = true) :
    s.settleExpiry p = (s.modLine p settledLine).enterReady p := if_pos ⟨h, hr⟩

theorem State.settleExpiry_waits (h : (s.line p).state ≠ .waking ∨ (s.line p).readySeen = false) :
    s.settleExpiry p = s.modLine p settledLine :=
  if_neg fun hc => h.elim (absurd hc.1) fun hseen => by rw [hc.2] at hseen; exact Bool.noConfusion hseen

/-- The line whose min awake timer has stopped. -/
def awakeLine (l : Line) : Line := { l with minAwake := .stopped }

/-- The line with no standby pending. -/
def stayingLine (l : Line) : Line := { l with standbyPending := false }

theorem State.minAwakeExpiry_plain (h : (s.line p).standbyPending = false) :
    s.minAwakeExpiry p = s.modLine p awakeLine := if_neg (by rw [h]; exact Bool.false_ne_true)

theorem State.minAwakeExpiry_standby (h : (s.line p).standbyPending = true)
    (hidle : (s.line p).state = .ready ∧ (s.line p).queue = [] ∧ (s.line p).inflight = [] ∧
      flushPending (s.line p).flush = false) : s.minAwakeExpiry p = (s.modLine p awakeLine).enterStandby p :=
  (if_pos h).trans (if_pos hidle)

theorem State.minAwakeExpiry_stays (h : (s.line p).standbyPending = true)
    (hidle : ¬((s.line p).state = .ready ∧ (s.line p).queue = [] ∧ (s.line p).inflight = [] ∧
      flushPending (s.line p).flush = false)) : s.minAwakeExpiry p = (s.modLine p awakeLine).modLine p stayingLine :=
  (if_pos h).trans (if_neg hidle)

theorem steady_awake (s : State) (p : LineNo) : Steady s (s.modLine p awakeLine) :=
  .modLine s p awakeLine fun _ => ⟨rfl, rfl⟩

end

/-- Settles O53. -/
theorem readyAndAwakeTimers : Obligations.ReadyAndAwakeTimers := by
  intro s p
  refine ⟨fun hlive => ?_, fun hdue => ⟨fun h hr => ?_, fun h hw => ?_⟩,
    fun hdue => ⟨fun hno hw => ?_, fun hpending h hq hi hf => ?_, fun hpending hbusy hw => ?_⟩,
    fun hdue => ⟨?_, ?_, ?_⟩, fun c hc hearly => ?_⟩
  · have hline := s.line_heard p
    refine ⟨fun h hr ht hw => ?_, fun h hr ht => ⟨?_, rfl, ?_, ?_⟩, fun h hw => ?_⟩
    · have hframe : (s.modLine p heard).readyFrame p = (s.modLine p heard).modLine p seenLine :=
        State.readyFrame_waits (by rw [hline]; exact h) (by rw [hline]; exact hr) (by rw [hline]; exact ht)
      have hsteady : Steady s ((s.modLine p heard).modLine p seenLine) :=
        (Steady.modLine s p heard fun _ => ⟨rfl, rfl⟩).thenLine p seenLine fun _ => ⟨rfl, rfl⟩
      exact congrArg _ ((lineEvent_live hlive).trans ((congrArg (settleEvent s) hframe).trans (hsteady.settled hw)))
    · have hframe : (s.modLine p heard).readyFrame p = ((s.modLine p heard).modLine p seenLine).enterReady p :=
        State.readyFrame_enters (by rw [hline]; exact h) (by rw [hline]; exact hr) (by rw [hline]; exact ht)
      exact congrArg _ ((lineEvent_live hlive).trans (congrArg (settleEvent s) hframe))
    · rw [State.enterReady_line_self]
      rfl
    · rw [State.enterReady_line_self]
      rfl
    · exact congrArg _ (lineEvent_nothing hlive hw (State.readyFrame_ignored (by rw [hline]; exact h)))
  · exact congrArg _ ((expiry_due hdue).trans (congrArg (settleEvent s) (State.settleExpiry_enters h hr)))
  · have hsteady : Steady s (s.modLine p settledLine) := .modLine s p settledLine fun _ => ⟨rfl, rfl⟩
    exact congrArg _ ((expiry_due hdue).trans
      ((congrArg (settleEvent s) (State.settleExpiry_waits h)).trans (hsteady.settled hw)))
  · exact congrArg _ ((expiry_due hdue).trans
      ((congrArg (settleEvent s) (State.minAwakeExpiry_plain hno)).trans ((steady_awake s p).settled hw)))
  · exact congrArg _ ((expiry_due hdue).trans
      (congrArg (settleEvent s) (State.minAwakeExpiry_standby hpending ⟨h, hq, hi, hf⟩)))
  · have hsteady : Steady s ((s.modLine p awakeLine).modLine p stayingLine) :=
      (steady_awake s p).thenLine p stayingLine fun _ => ⟨rfl, rfl⟩
    exact congrArg _ ((expiry_due hdue).trans
      ((congrArg (settleEvent s) (State.minAwakeExpiry_stays hpending hbusy)).trans (hsteady.settled hw)))
  · exact congrArg _ (expiry_due hdue)
  · rw [State.enterStandby_line_self]
    rfl
  · rw [State.enterStandby_line_self]
    rfl
  · simp only [lineExpiries, List.mem_cons, List.not_mem_nil, or_false] at hc
    rcases hc with rfl | rfl | rfl | rfl | rfl | rfl | rfl | rfl <;> exact congrArg _ (expiry_early hearly)

end Sys2Proof.Machine
end

-- O42: JOB OPEN (R21 to R24).
section
namespace Sys2Proof.Machine

/-! ### Fields of a body -/

theorem beNat_lt (bs : List Byte) : beNat bs < 256 ^ bs.length := by
  induction bs with
  | nil => exact Nat.one_pos
  | cons b bs ih =>
    have hb := b.isLt
    rw [beNat_cons, List.length_cons, Nat.pow_succ]
    calc b.toNat * 256 ^ bs.length + beNat bs < b.toNat * 256 ^ bs.length + 256 ^ bs.length :=
          Nat.add_lt_add_left ih _
      _ = (b.toNat + 1) * 256 ^ bs.length := (Nat.succ_mul ..).symm
      _ ≤ 256 * 256 ^ bs.length := Nat.mul_le_mul_right _ hb
      _ = 256 ^ bs.length * 256 := Nat.mul_comm ..

theorem field_lt (bs : List Byte) (start n : Nat) : field bs start n < 256 ^ n :=
  Nat.lt_of_lt_of_le (beNat_lt _) (Nat.pow_le_pow_right (by decide) (List.length_take_le ..))

theorem field_toNat (bs : List Byte) (start : Nat) : (BitVec.ofNat 16 (field bs start 2)).toNat = field bs start 2 :=
  BitVec.toNat_ofNat .. |>.trans (Nat.mod_eq_of_lt (field_lt bs start 2))

theorem clamp_zero (hi v : Nat) : clamp 0 hi v = min hi v := by rw [clamp_eq v (Nat.zero_le hi), Nat.zero_max]

/-! ### The first row of a table that matches -/

section
variable {α : Type} {n : Nat} (v : Vector α n) (P : α → Bool)

theorem vector_find?_first {k : Fin n} (hk : P v[k] = true) (hbefore : ∀ i : Fin n, i < k → P v[i] = false) :
    v.toList.find? P = some v[k] := by
  have hlen : v.toList.length = n := v.length_toList
  rw [List.find?_eq_some_iff_getElem]
  refine ⟨hk, k, by omega, Vector.getElem_toList _, fun i hi => ?_⟩
  rw [Vector.getElem_toList, Bool.not_eq_true', ← hbefore ⟨i, Nat.lt_trans hi k.isLt⟩ hi]
  rfl

theorem vector_find?_none (h : ∀ i : Fin n, P v[i] = false) : v.toList.find? P = none := by
  rw [List.find?_eq_none]
  intro x hx
  obtain ⟨i, hi, rfl⟩ := List.getElem_of_mem hx
  have hin : i < n := v.length_toList ▸ hi
  rw [Vector.getElem_toList, Bool.not_eq_true, ← h ⟨i, hin⟩]
  rfl

end

/-- The row of the route table takes a job (R23). -/
theorem routeMatches_iff (c k q : Nat) (r : RouteRow) : routeMatches c k q r = true ↔
    r.valid = true ∧ (r.cls = none ∨ r.cls = some c) ∧ (r.kind = none ∨ r.kind = some k) ∧ r.minPriority ≤ q := by
  unfold routeMatches
  cases hc : r.cls <;> cases hk : r.kind <;> simp [and_assoc]

theorem openFields_kind (body : List Byte) : (openFields body).kind = min 7 (field body 3 1) := clamp_zero ..

theorem openFields_priority (body : List Byte) : (openFields body).priority = min 3 (field body 4 1) := clamp_zero ..

theorem openFields_matches (s : State) (body : List Byte) (r : RouteRow) : routeMatches (s.account (openFields body).account).cls
      (openFields body).kind (openFields body).priority r = true ↔ r.valid = true ∧
    (r.cls = none ∨ r.cls = some (s.account (openFields body).account).cls) ∧
    (r.kind = none ∨ r.kind = some (min 7 (field body 3 1))) ∧ r.minPriority ≤ min 3 (field body 4 1) := by
  rw [routeMatches_iff, openFields_kind, openFields_priority]

theorem openFields_copies (body : List Byte) : (openFields body).copies = max 1 (min 255 (field body 5 1)) :=
  clamp_eq _ (by decide)

theorem openFields_account (body : List Byte) : (openFields body).account.val = field body 2 1 :=
  Nat.mod_eq_of_lt (field_lt body 2 1)

/-! ### The enrolment -/

section
variable {s : State} {f : ShopFrame} {body : List Byte}

theorem isRepeat_iff (src : Station) (body : List Byte) (x : Job) :
    isRepeat src (openFields body).submitterRef x = true ↔ (x.source = src ∧ x.submitterRef.toNat = field body 0 2 ∧
      x.run = .new ∧ x.ingest = .opened ∧ x.sheets = []) := by
  have href : x.submitterRef = (openFields body).submitterRef ↔ x.submitterRef.toNat = field body 0 2 := by
    rw [← field_toNat body 0]
    exact BitVec.toNat_inj.symm
  simp only [isRepeat, Bool.and_eq_true, decide_eq_true_eq, List.isEmpty_iff, href, and_assoc]

theorem takeJobOpen_taken (h : JobFrameTaken s f body) (hlen : body.length = 9) {u : State} {n : Nat} {st : Status}
    {reply : List Byte} (henrol : s.enrol f.src (openFields body) = (u, n, st, reply)) :
    takeJobOpen f s = (settleEvent s u).reply s.settings.port f n st reply := by
  have hform := h.form (sizeOk := fun n => decide (n = 9)) (decide_eq_true hlen)
  have hbody := h.body
  obtain ⟨haccepts, -⟩ := h
  unfold takeJobOpen
  simp only [haccepts, hform, hbody, henrol]
  rfl

theorem exec_jobOpen (h : JobFrameTaken s f body) (hlen : body.length = 9) (hw : NoPassWanted s) {u : State} {n : Nat}
    {st : Status} {reply : List Byte} (henrol : s.enrol f.src (openFields body) = (u, n, st, reply))
    (hu : u = { s with jobs := u.jobs, jobCtr := u.jobCtr }) :
    exec (.jobOpen f) s = .next (answered s u f n st reply) := by
  have haccounts : u.accounts = s.accounts := by rw [hu]
  have hpasses : u.passesWanted = s.passesWanted := by rw [hu]
  have hlines : u.lines = s.lines := by rw [hu]
  have hcalm : settleEvent s u = u.refreshIdle := settleEvent_quiet haccounts (hpasses.trans hw)
    (zeroMove_none fun p => by rw [State.line_congr hlines])
  exact congrArg _ ((takeJobOpen_taken h hlen henrol).trans
    (congrArg (fun t : State => t.reply s.settings.port f n st reply) hcalm))

theorem enrol_repeat {src : Station} {x : Job} (h : s.jobs.find? (isRepeat src (openFields body).submitterRef) = some x) :
    s.enrol src (openFields body) = (s, x.number, .duplicate, be 2 (field body 0 2)) := by
  rw [← field_toNat body 0]
  unfold State.enrol
  simp only [h]
  rfl

section
variable {src : Station} (h : s.jobs.find? (isRepeat src (openFields body).submitterRef) = none)
include h

theorem enrol_noRoute (hr : s.routeFor (openFields body) = none) :
    s.enrol src (openFields body) = (s, 0, .noRoute, []) := by
  unfold State.enrol
  simp only [h, hr]

theorem enrol_full {r : RouteRow} (hr : s.routeFor (openFields body) = some r) (hfull : 128 ≤ s.jobs.length) :
    s.enrol src (openFields body) = (s, 0, .full, []) := by
  have hno : ¬s.jobs.length < Config.jobRecords := Nat.not_lt.mpr hfull
  unfold State.enrol
  simp only [h, hr, hno, if_false]

theorem enrol_new {r : RouteRow} {n : Nat} (hr : s.routeFor (openFields body) = some r) (hroom : s.jobs.length < 128)
    (hn : allocate (s.jobs.map fun x => x.number) (Config.jobRecords + 1) s.jobCtr = some n) :
    s.enrol src (openFields body) = ({ s with
      jobs := insertJob (newJob n src (openFields body) r) s.jobs, jobCtr := n }, n, .ok, be 2 (field body 0 2)) := by
  have hyes : s.jobs.length < Config.jobRecords := hroom
  rw [← field_toNat body 0]
  unfold State.enrol
  simp only [h, hr, hyes, if_true, hn]
  rfl

end

end

/-- Settles O42. -/
theorem jobOpenAdmitsAJob : Obligations.JobOpenAdmitsAJob := by
  intro s f body htaken hlen hw
  refine ⟨fun x hx => exec_jobOpen htaken hlen hw (enrol_repeat hx) rfl, fun hnone => ⟨fun hr => ?_, fun r hr hfull => ?_,
    fun r hr hroom => ?_⟩, isRepeat_iff f.src body, fun k hk hbefore => ?_, fun hno => ?_⟩
  · exact exec_jobOpen htaken hlen hw (enrol_noRoute hnone hr) rfl
  · exact exec_jobOpen htaken hlen hw (enrol_full hnone hr hfull) rfl
  · obtain ⟨n, hn⟩ := allocate_total (s.jobs.map fun x => x.number) (Config.jobRecords + 1) s.jobCtr
      (by rw [List.length_map]; exact Nat.lt_succ_of_lt hroom) (by decide)
    obtain ⟨k, -, hnumber, hfresh, hused⟩ := allocate_first hn
    obtain ⟨hlow, hhigh⟩ := allocate_range hn
    exact ⟨k, n, hnumber, hfresh, hlow, hhigh, hused, exec_jobOpen htaken hlen hw (enrol_new hnone hr hroom hn) rfl, rfl,
      openFields_account body, openFields_kind body, openFields_priority body, openFields_copies body, rfl, rfl, rfl, rfl,
      rfl, rfl, rfl⟩
  · exact vector_find?_first s.route _ ((openFields_matches s body _).mpr hk) fun i hi =>
      Bool.eq_false_iff.mpr fun hmatch => hbefore i hi ((openFields_matches s body _).mp hmatch)
  · exact vector_find?_none s.route _ fun i =>
      Bool.eq_false_iff.mpr fun hmatch => hno i ((openFields_matches s body _).mp hmatch)

end Sys2Proof.Machine
end

-- The alert relay as a part of its own: what it sends, and that the rest of the state does not reach it.
section
namespace Sys2Proof.Machine

/-! ### States whose alert relay sees the same -/

/-- The state with all that the alert relay and the spool low flag read of another. -/
def State.relayOf (s t : State) : State :=
  { s.signalsOf t with settings := t.settings, timeBase := t.timeBase }

/-- The alert relay of one state sees what that of the other sees. -/
def SameRelay (s u : State) : Prop := u = u.relayOf s

theorem SameRelay.refl (s : State) : SameRelay s s := rfl

section
variable (w s : State) (k : AlertKind) (subj : Subject) (d : Detail)

theorem relayOf_alertOf : (w.relayOf s).alertOf k subj = s.alertOf k subj := rfl

theorem relayOf_alertPlace : (w.relayOf s).alertPlace = s.alertPlace.map fun t => (w.relayOf s).signalsOf t := by
  unfold State.alertPlace
  have hlen : (w.relayOf s).alerts = s.alerts := rfl
  have hcleared : (w.relayOf s).cleared = s.cleared := rfl
  rw [hlen, hcleared]
  split
  · rfl
  · cases s.cleared <;> rfl

theorem openAlert_relayOf :
    (w.relayOf s).openAlert k subj d = (w.relayOf s).signalsOf (s.openAlert k subj d) := by
  unfold State.openAlert
  rw [relayOf_alertOf]
  cases s.alertOf k subj with
  | some r =>
    dsimp only
    split <;> rfl
  | none =>
    rw [relayOf_alertPlace]
    cases hplace : s.alertPlace with
    | none => rfl
    | some t =>
      obtain ⟨rfl, _⟩ | ⟨n, _, rfl⟩ := alertPlace_some hplace
      · have hcounter : ((w.relayOf t).signalsOf t).alertCtr = t.alertCtr := rfl
        have halerts : ((w.relayOf t).signalsOf t).alerts = t.alerts := rfl
        dsimp only [Option.map_some]
        rw [hcounter, halerts]
        split <;> rfl
      · have hcounter : ((w.relayOf s).signalsOf (s.removeAlert n)).alertCtr = (s.removeAlert n).alertCtr := rfl
        have halerts : ((w.relayOf s).signalsOf (s.removeAlert n)).alerts = (s.removeAlert n).alerts := rfl
        dsimp only [Option.map_some]
        rw [hcounter, halerts]
        split <;> rfl

theorem clearAlert_relayOf : (w.relayOf s).clearAlert k subj = (w.relayOf s).signalsOf (s.clearAlert k subj) := by
  unfold State.clearAlert
  rw [relayOf_alertOf]
  cases s.alertOf k subj with
  | none => rfl
  | some r => cases hr : r.state <;> simp only [hr] <;> rfl

end

section
variable {s u : State} (h : SameRelay s u)
include h

theorem SameRelay.openAlert (k : AlertKind) (subj : Subject) (d : Detail) :
    u.openAlert k subj d = u.signalsOf (s.openAlert k subj d) := by
  have hrelay := openAlert_relayOf u s k subj d
  rwa [← h] at hrelay

theorem SameRelay.clearAlert (k : AlertKind) (subj : Subject) :
    u.clearAlert k subj = u.signalsOf (s.clearAlert k subj) := by
  have hrelay := clearAlert_relayOf u s k subj
  rwa [← h] at hrelay

theorem SameRelay.settings : u.settings = s.settings := by rw [h]; rfl

theorem SameRelay.spoolLow : u.spoolLow = s.spoolLow := by rw [h]; rfl

theorem SameRelay.flag (b : Bool) : SameRelay { s with spoolLow := b } { u with spoolLow := b } := by
  show _ = _
  rw [h]
  rfl

/-- The spool low flag follows the number of free blocks alone. -/
theorem SameRelay.evalSpoolLow (hfree : u.free.length = s.free.length) :
    u.evalSpoolLow = u.signalsOf s.evalSpoolLow := by
  have hlow : u.free.length < u.settings.lowWater ↔ s.free.length < s.settings.lowWater := by rw [hfree, h.settings]
  have hhigh : u.settings.highWater ≤ u.free.length ↔ s.settings.highWater ≤ s.free.length := by rw [hfree, h.settings]
  by_cases hfalls : s.spoolLow = false ∧ s.free.length < s.settings.lowWater
  · rw [State.evalSpoolLow_falls (h.spoolLow.trans hfalls.1) (hlow.mpr hfalls.2),
      State.evalSpoolLow_falls hfalls.1 hfalls.2, hfree]
    exact (h.flag true).openAlert ..
  · by_cases hrises : s.spoolLow = true ∧ s.settings.highWater ≤ s.free.length
    · rw [State.evalSpoolLow_rises (h.spoolLow.trans hrises.1) (hhigh.mpr hrises.2),
        State.evalSpoolLow_rises hrises.1 hrises.2]
      exact (h.flag false).clearAlert ..
    · have hstays : s.evalSpoolLow = s := (if_neg hfalls).trans (if_neg hrises)
      have huStays : u.evalSpoolLow = u :=
        (if_neg fun hc => hfalls ⟨h.spoolLow.symm.trans hc.1, hlow.mp hc.2⟩).trans
          (if_neg fun hc => hrises ⟨h.spoolLow.symm.trans hc.1, hhigh.mp hc.2⟩)
      rw [hstays, huStays]
      conv => lhs; rw [h]
      rw [h]
      rfl

end

/-! ### What the relay sends -/

/-- Beside alerts nothing is sent. -/
def AlertsOnly (s t : State) : Prop := ∃ o, t.shopOut = s.shopOut ++ o ∧ ∀ q ∈ o, ∃ a, q = .alert a

theorem AlertsOnly.same {s t : State} (h : t.shopOut = s.shopOut) : AlertsOnly s t :=
  ⟨[], by rw [h, List.append_nil], fun _ hq => absurd hq List.not_mem_nil⟩

theorem AlertsOnly.one {s t : State} {f : AlertFrame} (h : t.shopOut = s.shopOut ++ [.alert f]) : AlertsOnly s t :=
  ⟨_, h, fun _ hq => ⟨f, List.mem_singleton.mp hq⟩⟩

theorem AlertsOnly.trans {s t u : State} (h : AlertsOnly s t) (k : AlertsOnly t u) : AlertsOnly s u := by
  obtain ⟨o, ho, halerts⟩ := h
  obtain ⟨q, hq, hmore⟩ := k
  refine ⟨o ++ q, by rw [hq, ho, List.append_assoc], fun x hx => ?_⟩
  exact (List.mem_append.mp hx).elim (halerts x) (hmore x)

theorem alertsOnly_openAlert (s : State) (k : AlertKind) (subj : Subject) (d : Detail) :
    AlertsOnly s (s.openAlert k subj d) := by
  unfold State.openAlert
  cases s.alertOf k subj with
  | some r =>
    dsimp only
    split
    · exact .one rfl
    · exact .same rfl
  | none =>
    cases hplace : s.alertPlace with
    | none => exact .one rfl
    | some t =>
      obtain ⟨rfl, _⟩ | ⟨n, _, rfl⟩ := alertPlace_some hplace <;> dsimp only <;> split <;> exact .one rfl

theorem alertsOnly_clearAlert (s : State) (k : AlertKind) (subj : Subject) : AlertsOnly s (s.clearAlert k subj) := by
  unfold State.clearAlert
  cases s.alertOf k subj with
  | none => exact .one rfl
  | some r =>
    cases hr : r.state with
    | raised => simp only [hr]; exact .one rfl
    | acked => simp only [hr]; exact .one rfl
    | cleared => simp only [hr]; exact .same rfl

theorem alertsOnly_evalSpoolLow (s : State) : AlertsOnly s s.evalSpoolLow := by
  unfold State.evalSpoolLow
  split
  · exact alertsOnly_openAlert { s with spoolLow := true } ..
  · split
    · exact alertsOnly_clearAlert { s with spoolLow := false } ..
    · exact .same rfl

theorem State.evalSpoolLow_signals (s : State) : s.evalSpoolLow = s.signalsOf s.evalSpoolLow :=
  (SameRelay.refl s).evalSpoolLow rfl

end Sys2Proof.Machine
end

-- The sheets of a job, and the answers of its frames.
section
namespace Sys2Proof.Machine

/-! ### The sheets of a job -/

theorem State.modJob_modJob (s : State) (j : Nat) (f g : Job → Job) (hf : ∀ x, (f x).number = x.number) :
    (s.modJob j f).modJob j g = s.modJob j fun x => g (f x) := by
  unfold State.modJob
  have hboth : ((s.jobs.map fun x => if x.number = j then f x else x).map fun x => if x.number = j then g x else x) =
      s.jobs.map fun x => if x.number = j then g (f x) else x := by
    rw [List.map_map]
    refine List.map_congr_left fun x _ => ?_
    by_cases hx : x.number = j
    · simp [hx, hf x]
    · simp [hx]
  rw [hboth]

theorem find?_changeSheet (i k : Nat) (f : Sheet → Sheet) (hf : ∀ h, (f h).index = h.index) (l : List Sheet) :
    (changeSheet i f l).find? (fun h => decide (h.index = k)) =
      if k = i then (l.find? fun h => decide (h.index = i)).map f else l.find? fun h => decide (h.index = k) := by
  induction l with
  | nil => split <;> rfl
  | cons h l ih =>
    by_cases hi : h.index = i
    · by_cases hk : k = i
      · simp [changeSheet, hi, hk, hf]
      · have hik : i ≠ k := fun he => hk he.symm
        simp [changeSheet, hi, hk, hf, hik]
    · by_cases hk : k = i
      · subst hk
        rw [if_pos rfl] at ih ⊢
        simp [changeSheet, hi, ih]
      · rw [if_neg hk] at ih ⊢
        simp only [changeSheet, if_neg hi, List.find?_cons, ih]

theorem sheetOf_modSheet (i k : Nat) (f : Sheet → Sheet) (hf : ∀ h, (f h).index = h.index) (x : Job) :
    sheetOf (modSheet i f x) k = if k = i then (sheetOf x i).map f else sheetOf x k := find?_changeSheet i k f hf x.sheets

theorem changeSheet_changeSheet (i : Nat) (f g : Sheet → Sheet) (hf : ∀ h, (f h).index = h.index) (l : List Sheet) :
    changeSheet i g (changeSheet i f l) = changeSheet i (fun h => g (f h)) l := by
  induction l with
  | nil => rfl
  | cons h l ih =>
    by_cases hi : h.index = i
    · simp [changeSheet, hi, hf]
    · simp [changeSheet, hi, ih]

theorem modSheet_modSheet (i : Nat) (f g : Sheet → Sheet) (hf : ∀ h, (f h).index = h.index) (x : Job) :
    modSheet i g (modSheet i f x) = modSheet i (fun h => g (f h)) x := by
  unfold modSheet
  rw [changeSheet_changeSheet i f g hf]

theorem modSheet_length (i : Nat) (f : Sheet → Sheet) (x : Job) : (modSheet i f x).sheets.length = x.sheets.length :=
  changeSheet_length i f x.sheets

/-- A job with one more, open, sheet. -/
def openedJob (j i : Nat) (opens : Bool) (x : Job) : Job :=
  if opens = true then { x with sheets := x.sheets ++ [freshSheet j i] } else x

section
variable {j i : Nat} {opens : Bool} {x : Job}

theorem openedJob_number : (openedJob j i opens x).number = x.number := by
  unfold openedJob
  split <;> rfl

theorem openedJob_only : openedJob j i opens x = { x with sheets := (openedJob j i opens x).sheets } := by
  unfold openedJob
  split <;> rfl

theorem openedJob_length : (openedJob j i opens x).sheets.length =
    if opens = true then x.sheets.length + 1 else x.sheets.length := by
  unfold openedJob
  split
  · exact List.length_append
  · rfl

/-- The sheet that a frame is about, once it is open. -/
theorem sheetOf_openedJob {h : Sheet} (hsheet : (opens = true ∧ sheetOf x i = none ∧ h = freshSheet j i) ∨
    (opens = false ∧ sheetOf x i = some h)) : sheetOf (openedJob j i opens x) i = some h := by
  obtain ⟨rfl, hnone, rfl⟩ | ⟨rfl, hsome⟩ := hsheet
  · have hnew : sheetOf (openedJob j i true x) i = (sheetOf x i).or ([freshSheet j i].find? fun g => decide (g.index = i)) :=
      List.find?_append
    rw [hnew, hnone]
    simp [freshSheet]
  · exact hsome

theorem sheetOf_openedJob_ne {k : Nat} (hk : k ≠ i) : sheetOf (openedJob j i opens x) k = sheetOf x k := by
  unfold openedJob
  split
  · have hnew : sheetOf { x with sheets := x.sheets ++ [freshSheet j i] } k =
        (sheetOf x k).or ([freshSheet j i].find? fun g => decide (g.index = k)) := List.find?_append
    have hik : i ≠ k := fun he => hk he.symm
    rw [hnew]
    simp [freshSheet, hik]
  · rfl

end

theorem opensAt_closed {x : Job} {i : Nat} (h : isOpenIndex x i = true) : opensAt x i = false := by
  unfold isOpenIndex at h
  unfold opensAt
  cases ho : openSheet x with
  | none => simp [ho] at h
  | some g => rfl

/-! ### The answers of the frames of a job -/

section
variable {s u : State} {f : ShopFrame} {body : List Byte} {k : JobFrame} {st : Status} {reply : List Byte}

theorem queued_settled {j : Nat} (h : s.queued j = false) (hstores : ∀ t ∈ u.stores, t ∈ s.stores) (hheld : u.held = s.held) :
    (settleEvent s u).queued j = false := by
  have hkept := (kept_settleEvent s u).stores
  have hsame : (settleEvent s u).held = s.held := (follows_settleEvent s u).held.trans hheld
  simp only [State.queued, State.storing, Bool.or_eq_false_iff, List.any_eq_false, decide_eq_true_eq, hsame] at h ⊢
  exact ⟨fun t ht => h.1 t (hstores t (hkept t ht)), h.2⟩

theorem mustWait_queued (hk : k ≠ .jobCancel) (j : Nat) : s.mustWait k j = s.queued j := by
  cases k with
  | jobCancel => exact absurd rfl hk
  | sheetData | sheetEnd | jobClose => rfl

variable (h : JobFrameTaken s f body) (hs : bodyFits k body.length = true) (hk : k ≠ .jobCancel)
  (hq : s.queued f.job.toNat = false)
include h hs hk hq

theorem takeJobFrame_ended (hframe : s.jobFrame k f = (u, some (st, reply))) (hstores : ∀ t ∈ u.stores, t ∈ s.stores)
    (hheld : u.held = s.held) : takeJobFrame k f s = ended s u f f.job.toNat st reply := by
  have hsettled := queued_settled hq hstores hheld
  rw [takeJobFrame_taken k h hs ((mustWait_queued hk _).trans hq)]
  unfold State.doJobFrame State.answerJob
  simp only [hframe, hsettled]
  rfl

theorem takeJobFrame_answered (hframe : s.jobFrame k f = (u, some (st, reply))) (hsteady : Steady s u)
    (hw : NoPassWanted u) (hheld : u.held = s.held) : takeJobFrame k f s = answered s u f f.job.toNat st reply := by
  rw [takeJobFrame_ended h hs hk hq hframe hsteady.stores hheld, ended, hsteady.settled hw]
  rfl

theorem takeJobFrame_unchanged (hw : NoPassWanted s) (hframe : s.jobFrame k f = (s, some (st, reply))) :
    takeJobFrame k f s = answered s s f f.job.toNat st reply :=
  takeJobFrame_answered h hs hk hq hframe (.refl s) hw rfl

theorem takeJobFrame_silent (hframe : s.jobFrame k f = (u, none)) (hcalm : settleEvent s u = u.refreshIdle) :
    takeJobFrame k f s = u.refreshIdle := by
  rw [takeJobFrame_taken k h hs ((mustWait_queued hk _).trans hq)]
  unfold State.doJobFrame
  simp only [hframe, hcalm]

end

theorem State.discardOpen_held (s : State) (j : Nat) : (s.discardOpen j).held = s.held := by
  rw [State.discardOpen_only]
  rfl

theorem State.discardOpen_passes (s : State) (j : Nat) : (s.discardOpen j).passesWanted = s.passesWanted := by
  rw [State.discardOpen_only]
  rfl

end Sys2Proof.Machine
end

-- O43, O44: SHEET DATA (R4, R6, R8 to R10).
section
namespace Sys2Proof.Machine

theorem State.blockAllowed_iff (s : State) (x : Job) (i : Nat) : s.blockAllowed x i = true ↔
    (s.settings.ingestFloor < s.free.length ∨ (0 < s.free.length ∧ x.run = .feeding ∧ x.dispatch.sheet = i)) := by
  simp only [State.blockAllowed, Bool.or_eq_true, Bool.and_eq_true, decide_eq_true_eq, and_assoc]

/-! ### The checks in their order -/

/-- A segment for a sheet that is open or may open, from its place on. -/
def State.segment (s : State) (x : Job) (i o : Nat) (f : ShopFrame) (bytes : List Byte) (L : Nat) : FrameOutcome :=
  if o + bytes.length ≤ L then (s, some (.duplicate, s.receivedBody f.job.toNat i))
  else if L < o then (s, some (.gap, s.receivedBody f.job.toNat i))
  else if Config.sheetMax < o + bytes.length then
    (s.discardOpen f.job.toNat, some (.tooLarge, (s.discardOpen f.job.toNat).receivedBody f.job.toNat i))
  else if decide (blocksFor L < blocksFor (o + bytes.length)) && !s.blockAllowed x i then
    (s, some (.noSpace, s.receivedBody f.job.toNat i))
  else if opensAt x i && decide (s.pool = 0) then (s, some (.noRecord, s.receivedBody f.job.toNat i))
  else (s.beginStore x i o (opensAt x i) (decide (blocksFor L < blocksFor (o + bytes.length))) f bytes L, none)

section
variable {s : State} {f : ShopFrame} {x : Job}

theorem sheetDataFrame_unknown (h : s.job? f.job.toNat = none) : s.jobFrame .sheetData f =
    (s, some (.unknownJob, s.receivedBody f.job.toNat f.sheet.toNat)) := by
  simp only [State.jobFrame, State.sheetDataFrame, h]

theorem sheetDataFrame_ended (h : s.job? f.job.toNat = some x) (hended : x.ingest = .closed ∨ jobKilled x = true) :
    s.jobFrame .sheetData f = (s, some (.jobEnded, s.receivedBody f.job.toNat f.sheet.toNat)) := by
  simp only [State.jobFrame, State.sheetDataFrame, h]
  exact if_pos hended

theorem not_ended_frame (hopened : x.ingest = .opened) (halive : jobKilled x = false) :
    ¬(x.ingest = .closed ∨ jobKilled x = true) := by
  rw [hopened, halive]
  rintro (hc | hc)
  · exact IngestState.noConfusion hc
  · exact Bool.noConfusion hc

section
variable (h : s.job? f.job.toNat = some x) (hopened : x.ingest = .opened) (halive : jobKilled x = false)
include h hopened halive

theorem sheetDataFrame_order (hopen : isOpenIndex x f.sheet.toNat = false) (hnew : opensAt x f.sheet.toNat = false) :
    s.jobFrame .sheetData f = (s, some (.order, s.receivedBody f.job.toNat f.sheet.toNat)) := by
  simp only [State.jobFrame, State.sheetDataFrame, h]
  refine (if_neg (not_ended_frame hopened halive)).trans (if_pos ?_)
  rw [hopen, hnew]
  rfl

theorem sheetDataFrame_segment (hat : isOpenIndex x f.sheet.toNat = true ∨ opensAt x f.sheet.toNat = true) :
    s.jobFrame .sheetData f = s.segment x f.sheet.toNat f.offset.toNat f (shopBody f)
      (if opensAt x f.sheet.toNat then 0 else s.receivedOf f.job.toNat f.sheet.toNat) := by
  simp only [State.jobFrame, State.sheetDataFrame, h]
  refine (if_neg (not_ended_frame hopened halive)).trans (if_neg ?_)
  obtain hopen | hnew := hat
  · rw [hopen]
    exact Bool.false_ne_true
  · rw [hnew, Bool.or_true]
    exact Bool.false_ne_true

end

section
variable {i o L : Nat} {bytes : List Byte}

theorem segment_duplicate (h : o + bytes.length ≤ L) :
    s.segment x i o f bytes L = (s, some (.duplicate, s.receivedBody f.job.toNat i)) := if_pos h

theorem segment_gap (h : L < o) : s.segment x i o f bytes L = (s, some (.gap, s.receivedBody f.job.toNat i)) :=
  (if_neg (by omega)).trans (if_pos h)

variable (ho : o ≤ L) (htop : L < o + bytes.length)
include ho htop

theorem segment_tooLarge (h : 16777216 < o + bytes.length) : s.segment x i o f bytes L = (s.discardOpen f.job.toNat,
    some (.tooLarge, (s.discardOpen f.job.toNat).receivedBody f.job.toNat i)) :=
  (if_neg (Nat.not_le.mpr htop)).trans ((if_neg (Nat.not_lt.mpr ho)).trans (if_pos h))

variable (hfits : o + bytes.length ≤ 16777216)
include hfits

theorem segment_noSpace (hneed : decide (blocksFor L < blocksFor (o + bytes.length)) = true)
    (hno : s.blockAllowed x i = false) :
    s.segment x i o f bytes L = (s, some (.noSpace, s.receivedBody f.job.toNat i)) :=
  (if_neg (Nat.not_le.mpr htop)).trans ((if_neg (Nat.not_lt.mpr ho)).trans
    ((if_neg (show ¬Config.sheetMax < o + bytes.length from Nat.not_lt.mpr hfits)).trans
      (if_pos (by rw [hneed, hno]; rfl))))

variable (hspace : decide (blocksFor L < blocksFor (o + bytes.length)) = false ∨ s.blockAllowed x i = true)
include hspace

theorem segment_spaced : s.segment x i o f bytes L =
    if opensAt x i && decide (s.pool = 0) then (s, some (.noRecord, s.receivedBody f.job.toNat i))
    else (s.beginStore x i o (opensAt x i) (decide (blocksFor L < blocksFor (o + bytes.length))) f bytes L, none) := by
  refine (if_neg (Nat.not_le.mpr htop)).trans ((if_neg (Nat.not_lt.mpr ho)).trans
    ((if_neg (show ¬Config.sheetMax < o + bytes.length from Nat.not_lt.mpr hfits)).trans (if_neg ?_)))
  obtain hneed | hyes := hspace
  · rw [hneed]
    exact Bool.false_ne_true
  · rw [hyes, Bool.not_true, Bool.and_false]
    exact Bool.false_ne_true

theorem segment_noRecord (hnew : opensAt x i = true) (hpool : s.pool = 0) :
    s.segment x i o f bytes L = (s, some (.noRecord, s.receivedBody f.job.toNat i)) :=
  (segment_spaced ho htop hfits hspace).trans (if_pos (by rw [hnew, decide_eq_true hpool]; rfl))

theorem segment_begins (hpool : opensAt x i = true → 1 ≤ s.pool) : s.segment x i o f bytes L =
    (s.beginStore x i o (opensAt x i) (decide (blocksFor L < blocksFor (o + bytes.length))) f bytes L, none) := by
  refine (segment_spaced ho htop hfits hspace).trans (if_neg ?_)
  rw [Bool.and_eq_true, decide_eq_true_eq]
  rintro ⟨hnew, hzero⟩
  exact absurd (hpool hnew) (by rw [hzero]; decide)

end

end

/-- Settles O43. -/
theorem sheetDataChecksInOrder : Obligations.SheetDataChecksInOrder := by
  intro s f body htaken hlow hhigh hw hq
  have hsize : bodyFits .sheetData body.length = true := by simp [bodyFits, hlow, hhigh]
  have hbody := htaken.body
  have hrefused {st : Status} (hframe : s.jobFrame .sheetData f =
      (s, some (st, s.receivedBody f.job.toNat f.sheet.toNat))) :=
    congrArg (Host.Outcome.next (φ := Fault) (ρ := Refusal))
      (takeJobFrame_unchanged htaken hsize JobFrame.noConfusion hq hw hframe)
  refine ⟨fun h => hrefused (sheetDataFrame_unknown h), fun x h => ⟨fun hended => hrefused (sheetDataFrame_ended h hended),
    fun hopened halive => ⟨fun hopen hnew => hrefused (sheetDataFrame_order h hopened halive hopen hnew), fun hat => ?_⟩⟩,
    s.blockAllowed_iff⟩
  have hframe := sheetDataFrame_segment h hopened halive hat
  rw [hbody] at hframe
  refine ⟨fun htop => hrefused (hframe.trans (segment_duplicate htop)), fun hgap => hrefused (hframe.trans (segment_gap hgap)),
    fun ho htop => ⟨fun hlarge => ?_, fun hfits => ⟨fun hneed hno => ?_, fun hspace hnew hpool => ?_⟩⟩⟩
  · have hpasses : NoPassWanted (s.discardOpen f.job.toNat) := (s.discardOpen_passes _).trans hw
    exact congrArg _ (takeJobFrame_answered htaken hsize JobFrame.noConfusion hq
      (hframe.trans (segment_tooLarge ho htop hlarge)) (steady_discardOpen s _) hpasses (s.discardOpen_held _))
  · exact hrefused (hframe.trans (segment_noSpace ho htop hfits hneed hno))
  · exact hrefused (hframe.trans (segment_noRecord ho htop hfits hspace hnew hpool))

end Sys2Proof.Machine
end

-- O44: the store that a segment begins (R6, R9, R10).
section
namespace Sys2Proof.Machine

/-- A sheet with a segment more. -/
def begunSheet (top : Nat) (bs : List Block) (h : Sheet) : Sheet := { h with received := top, chain := h.chain ++ bs }

/-- The job of a segment that has been taken. -/
def begunJob (j i : Nat) (opens : Bool) (top : Nat) (bs : List Block) (x : Job) : Job :=
  modSheet i (begunSheet top bs) (openedJob j i opens x)

theorem begunJob_number (j i : Nat) (opens : Bool) (top : Nat) (bs : List Block) (x : Job) :
    (begunJob j i opens top bs x).number = x.number := openedJob_number

/-- The state in which a store has begun, before the spool low flag follows. -/
def State.begun (s : State) (j i : Nat) (opens : Bool) (top : Nat) (bs : List Block) (st : Store) : State :=
  { s.modJob j (begunJob j i opens top bs) with
    free := s.free.drop bs.length
    pool := if opens = true then s.pool - 1 else s.pool
    stores := s.stores ++ [st] }

/-- The state with the sheet of a frame open. -/
def State.withSheet (s : State) (j i : Nat) (opens : Bool) : State :=
  if opens then ({ s with pool := s.pool - 1 }).modJob j fun y => { y with sheets := y.sheets ++ [freshSheet j i] } else s

theorem State.withSheet_eq (s : State) (j i : Nat) (opens : Bool) : s.withSheet j i opens =
    { s.modJob j (openedJob j i opens) with pool := if opens = true then s.pool - 1 else s.pool } := by
  cases opens with
  | true => rfl
  | false =>
    have hsame : (s.jobs.map fun x => if x.number = j then openedJob j i false x else x) = s.jobs := by
      have heach (x : Job) : (if x.number = j then openedJob j i false x else x) = x := by
        split <;> rfl
      simp only [heach, List.map_id']
    unfold State.modJob
    rw [hsame]
    rfl

section
variable (s : State) (x : Job) (i o L : Nat) (opens : Bool) (f : ShopFrame) (bytes : List Byte)

/-- The store that a segment begins. -/
def begunStore : Store :=
  { job := x.number, sheet := i, offset := L, bytes := bytes.drop (L - o), frame := f, purge := false }

/-- The segment needs no block. -/
theorem beginStore_within : s.beginStore x i o opens false f bytes L =
    s.begun x.number i opens (o + bytes.length) [] (begunStore x i o L f bytes) := by
  have hjob : (fun y => modSheet i (fun h => { h with received := o + bytes.length }) (openedJob x.number i opens y)) =
      begunJob x.number i opens (o + bytes.length) [] := by
    funext y
    unfold begunJob begunSheet
    simp only [List.append_nil]
  have hbegin : s.beginStore x i o opens false f bytes L =
      { (s.withSheet x.number i opens).modJob x.number (modSheet i fun h => { h with received := o + bytes.length }) with
        stores := (s.withSheet x.number i opens).stores ++ [begunStore x i o L f bytes] } := rfl
  rw [hbegin, State.withSheet_eq]
  have hmod := s.modJob_modJob x.number (openedJob x.number i opens)
    (modSheet i fun h => { h with received := o + bytes.length }) fun _ => openedJob_number
  rw [hjob] at hmod
  have hjobs := congrArg State.jobs hmod
  exact congrArg (fun l : List Job => ({ s with
    jobs := l, pool := if opens = true then s.pool - 1 else s.pool,
    stores := s.stores ++ [begunStore x i o L f bytes] } : State)) hjobs

/-- The sheet takes a block. -/
def blockedSheet (b : Block) (h : Sheet) : Sheet := { h with chain := h.chain ++ [b] }

theorem State.takeBlock_some {s : State} {b : Block} {rest : List Block} (j : Nat) (h : s.free = b :: rest) :
    s.takeBlock j i true = (({ s with free := rest }).modJob j (modSheet i (blockedSheet b))).evalSpoolLow := by
  unfold State.takeBlock
  rw [h]
  rfl

/-- The segment takes a block, and the spool low flag follows (R19). -/
theorem beginStore_block {b : Block} {rest : List Block} (h : s.free = b :: rest) :
    s.beginStore x i o opens true f bytes L =
      (s.begun x.number i opens (o + bytes.length) [b] (begunStore x i o L f bytes)).evalSpoolLow := by
  have hfree : (s.withSheet x.number i opens).free = b :: rest := by
    rw [State.withSheet_eq]
    exact h
  have hbegin : s.beginStore x i o opens true f bytes L =
      { ((s.withSheet x.number i opens).takeBlock x.number i true).modJob x.number
          (modSheet i fun h => { h with received := o + bytes.length }) with
        stores := ((s.withSheet x.number i opens).takeBlock x.number i true).stores ++ [begunStore x i o L f bytes] } := rfl
  have htaken : (({ s.withSheet x.number i opens with free := rest }).modJob x.number (modSheet i (blockedSheet b))) =
      { s.modJob x.number (fun y => modSheet i (blockedSheet b) (openedJob x.number i opens y)) with
        free := rest, pool := if opens = true then s.pool - 1 else s.pool } := by
    have hmod := congrArg State.jobs (s.modJob_modJob x.number (openedJob x.number i opens) (modSheet i (blockedSheet b))
      fun _ => openedJob_number)
    rw [State.withSheet_eq]
    exact congrArg (fun l : List Job => ({ s with
      jobs := l, free := rest, pool := if opens = true then s.pool - 1 else s.pool } : State)) hmod
  have hjob : (fun y => modSheet i (fun h => { h with received := o + bytes.length })
      (modSheet i (blockedSheet b) (openedJob x.number i opens y))) =
      begunJob x.number i opens (o + bytes.length) [b] := by
    funext y
    exact modSheet_modSheet i (blockedSheet b) (fun h => { h with received := o + bytes.length }) (fun _ => rfl) _
  have hmod := congrArg State.jobs (s.modJob_modJob x.number
    (fun y => modSheet i (blockedSheet b) (openedJob x.number i opens y))
    (modSheet i fun h => { h with received := o + bytes.length }) fun _ => openedJob_number)
  rw [hjob] at hmod
  have hdrop : s.free.drop 1 = rest := by rw [h, List.drop_one, List.tail_cons]
  rw [hbegin, State.takeBlock_some i x.number hfree, htaken]
  generalize ha : ({ s.modJob x.number (fun y => modSheet i (blockedSheet b) (openedJob x.number i opens y)) with
    free := rest, pool := if opens = true then s.pool - 1 else s.pool } : State) = a
  have hrelay : SameRelay a (s.begun x.number i opens (o + bytes.length) [b] (begunStore x i o L f bytes)) := by
    rw [← ha]
    rfl
  have hlength : (s.begun x.number i opens (o + bytes.length) [b] (begunStore x i o L f bytes)).free.length =
      a.free.length := by
    rw [← ha]
    exact congrArg List.length hdrop
  rw [hrelay.evalSpoolLow hlength, a.evalSpoolLow_signals]
  generalize a.evalSpoolLow = e
  rw [← ha]
  unfold State.begun
  rw [show s.free.drop [b].length = rest from hdrop]
  exact congrArg (fun l : List Job => (({ s with
    jobs := l, free := rest, pool := if opens = true then s.pool - 1 else s.pool,
    stores := s.stores ++ [begunStore x i o L f bytes] } : State).signalsOf e)) hmod

end

section
variable {s : State} {x : Job} {i o L : Nat} {opens need : Bool} {f : ShopFrame} {bytes : List Byte}

/-- The blocks that a segment takes. -/
def takenBlocks (need : Bool) (free : List Block) : List Block := if need = true then free.take 1 else []

/-- The state in which a segment has been taken. -/
def State.segmentBegun (s : State) (x : Job) (i o : Nat) (opens need : Bool) (f : ShopFrame) (bytes : List Byte)
    (L : Nat) : State :=
  s.begun x.number i opens (o + bytes.length) (takenBlocks need s.free) (begunStore x i o L f bytes)

theorem beginStore_need (h : need = true) (hfree : s.free ≠ []) : s.beginStore x i o opens need f bytes L =
    (s.segmentBegun x i o opens need f bytes L).evalSpoolLow := by
  subst h
  obtain ⟨b, rest, hcons⟩ := List.exists_cons_of_ne_nil hfree
  have htaken : takenBlocks true s.free = [b] := by
    rw [hcons]
    rfl
  unfold State.segmentBegun
  rw [beginStore_block s x i o L opens f bytes hcons, htaken]

theorem beginStore_noNeed (h : need = false) : s.beginStore x i o opens need f bytes L =
    s.segmentBegun x i o opens need f bytes L := by
  subst h
  exact beginStore_within ..

/-- Beside the spool low flag and its alert, a segment begins its store alone. -/
theorem beginStore_signals (h : need = true → s.free ≠ []) : s.beginStore x i o opens need f bytes L =
    (s.segmentBegun x i o opens need f bytes L).signalsOf (s.beginStore x i o opens need f bytes L) := by
  cases hn : need with
  | true =>
    rw [beginStore_need rfl (h hn)]
    exact State.evalSpoolLow_signals _
  | false =>
    rw [beginStore_noNeed rfl]
    rfl

theorem beginStore_fields (h : need = true → s.free ≠ []) :
    (s.beginStore x i o opens need f bytes L).jobs = (s.segmentBegun x i o opens need f bytes L).jobs ∧
    (s.beginStore x i o opens need f bytes L).free = (s.segmentBegun x i o opens need f bytes L).free ∧
    (s.beginStore x i o opens need f bytes L).pool = (s.segmentBegun x i o opens need f bytes L).pool ∧
    (s.beginStore x i o opens need f bytes L).stores = (s.segmentBegun x i o opens need f bytes L).stores := by
  rw [beginStore_signals h]
  exact ⟨rfl, rfl, rfl, rfl⟩

/-- Only the spool low alert is sent. -/
theorem beginStore_sends (h : need = true → s.free ≠ []) :
    ∃ q, (s.beginStore x i o opens need f bytes L).shopOut = s.shopOut ++ q ∧ (need = false → q = []) ∧
      ∀ y ∈ q, ∃ a, y = .alert a := by
  cases hn : need with
  | true =>
    rw [beginStore_need rfl (h hn)]
    obtain ⟨q, hq, halerts⟩ := alertsOnly_evalSpoolLow (s.segmentBegun x i o opens true f bytes L)
    exact ⟨q, hq, fun hno => Bool.noConfusion hno, halerts⟩
  | false =>
    rw [beginStore_noNeed rfl]
    exact ⟨[], (List.append_nil _).symm, fun _ => rfl, fun _ hy => absurd hy List.not_mem_nil⟩

theorem beginStore_calm (h : need = true → s.free ≠ []) (hw : NoPassWanted s) :
    settleEvent s (s.beginStore x i o opens need f bytes L) = (s.beginStore x i o opens need f bytes L).refreshIdle := by
  have hsignals := beginStore_signals (x := x) (i := i) (o := o) (L := L) (opens := opens) (f := f) (bytes := bytes) h
  refine settleEvent_quiet ?_ ?_ (zeroMove_none fun p => ?_)
  · rw [hsignals]
    rfl
  · rw [hsignals]
    exact hw
  · rw [hsignals]
    rfl

theorem segmentBegun_job? (h : s.job? x.number = some x) : (s.segmentBegun x i o opens need f bytes L).job? x.number =
    some (begunJob x.number i opens (o + bytes.length) (takenBlocks need s.free) x) :=
  s.job_modJob_self x.number _ x h fun _ => begunJob_number ..

theorem segmentBegun_job?_ne {k : Nat} (h : k ≠ x.number) :
    (s.segmentBegun x i o opens need f bytes L).job? k = s.job? k :=
  s.job_modJob_ne (begunJob x.number i opens (o + bytes.length) (takenBlocks need s.free)) h
    fun _ => begunJob_number ..

theorem segmentBegun_free : (s.segmentBegun x i o opens need f bytes L).free =
    if need = true then s.free.drop 1 else s.free := by
  have hfree : (s.segmentBegun x i o opens need f bytes L).free = s.free.drop (takenBlocks need s.free).length := rfl
  rw [hfree, takenBlocks]
  split
  · cases s.free <;> rfl
  · rfl

end

section
variable {x : Job} {h : Sheet} {j i top : Nat} {opens : Bool} {bs : List Block}

theorem sheetOf_begunJob (hsheet : (opens = true ∧ sheetOf x i = none ∧ h = freshSheet j i) ∨
    (opens = false ∧ sheetOf x i = some h)) :
    sheetOf (begunJob j i opens top bs x) i = some { h with received := top, chain := h.chain ++ bs } := by
  rw [begunJob, sheetOf_modSheet i i (begunSheet top bs) fun _ => rfl, if_pos rfl, sheetOf_openedJob hsheet]
  rfl

theorem sheetOf_begunJob_ne {k : Nat} (hk : k ≠ i) : sheetOf (begunJob j i opens top bs x) k = sheetOf x k := by
  rw [begunJob, sheetOf_modSheet i k (begunSheet top bs) fun _ => rfl, if_neg hk, sheetOf_openedJob_ne hk]

theorem begunJob_length : (begunJob j i opens top bs x).sheets.length =
    if opens = true then x.sheets.length + 1 else x.sheets.length := by
  rw [begunJob, modSheet_length, openedJob_length]

theorem begunJob_only : begunJob j i opens top bs x = { x with sheets := (begunJob j i opens top bs x).sheets } := by
  unfold begunJob modSheet
  rw [openedJob_only]

end

/-- Settles O44. -/
theorem sheetDataBeginsAStore : Obligations.SheetDataBeginsAStore := by
  intro s f body x h htaken hlow hhigh hw hq
  have hsize : bodyFits .sheetData body.length = true := by simp [bodyFits, hlow, hhigh]
  intro j i o top need hx hopened halive hcases ho htop hfits hallowed
  have hnumber : x.number = j := job_number hx
  have hsheet : (opensAt x i = true ∧ sheetOf x i = none ∧ h = freshSheet j i) ∨
      (opensAt x i = false ∧ sheetOf x i = some h) :=
    hcases.imp (fun ⟨hnew, hno, hfresh, _⟩ => ⟨hnew, hno, hfresh⟩) fun ⟨hopen, hsome⟩ => ⟨opensAt_closed hopen, hsome⟩
  have hreceived : (if opensAt x i then 0 else s.receivedOf j i) = h.received := by
    obtain ⟨hnew, -, hfresh⟩ | ⟨hold, hsome⟩ := hsheet
    · rw [if_pos hnew, hfresh]
      rfl
    · rw [hold]
      simp [State.receivedOf, hx, hsome]
  have hfree : need = true → s.free ≠ [] := fun hneed hnil => by
    have hspace := (s.blockAllowed_iff x i).mp (hallowed hneed)
    rw [hnil, List.length_nil] at hspace
    omega
  have hframe : s.jobFrame .sheetData f =
      (s.beginStore x i o (opensAt x i) need f body h.received, none) := by
    have hsegment := sheetDataFrame_segment hx hopened halive
      (hcases.elim (fun hnew => .inr hnew.1) fun hopen => .inl hopen.1)
    rw [hreceived, htaken.body] at hsegment
    refine hsegment.trans (segment_begins ho htop hfits ?_ fun hnew => ?_)
    · cases hneed : need with
      | true => exact .inr (hallowed hneed)
      | false => exact .inl hneed
    · exact hcases.elim (fun hroom => hroom.2.2.2) fun hopen => absurd hnew (by rw [opensAt_closed hopen.1]; exact Bool.false_ne_true)
  have hexec := takeJobFrame_silent htaken hsize JobFrame.noConfusion hq hframe (beginStore_calm hfree hw)
  have hsignals := beginStore_signals (x := x) (i := i) (o := o) (L := h.received) (opens := opensAt x i) (f := f)
    (bytes := body) hfree
  have hjob := segmentBegun_job? (i := i) (o := o) (L := h.received) (opens := opensAt x i) (need := need) (f := f)
    (bytes := body) (hnumber ▸ hx : s.job? x.number = some x)
  rw [hnumber] at hjob
  obtain ⟨hjobs, hfreed, hpool, hstores⟩ := beginStore_fields (x := x) (i := i) (o := o) (L := h.received) (opens := opensAt x i) (f := f)
    (bytes := body) hfree
  refine ⟨s.beginStore x i o (opensAt x i) need f body h.received, _, congrArg _ hexec, ?_, sheetOf_begunJob hsheet,
    begunJob_only, fun k hk => sheetOf_begunJob_ne hk, begunJob_length, ⟨fun hneed => ?_, fun hneed => ?_⟩,
    ?_, ?_, fun k hk => ?_, ?_, ?_, ?_, ?_, ?_, ?_, ?_, ?_, ?_, s.blockAllowed_iff x i⟩
  · exact (congrArg (fun u : State => u.job? j) hsignals).trans hjob
  · have hbegun := beginStore_need (x := x) (i := i) (o := o) (L := h.received) (opens := opensAt x i) (f := f)
      (bytes := body) hneed (hfree hneed)
    rw [hjobs, hfreed, hpool, hstores]
    exact hbegun
  · have hbegun := beginStore_noNeed (s := s) (x := x) (i := i) (o := o) (L := h.received) (opens := opensAt x i) (f := f)
      (bytes := body) hneed
    rw [hjobs, hfreed, hpool, hstores]
    exact hbegun
  · exact beginStore_sends hfree
  · rw [begunJob_only]
  · rw [hsignals]
    exact segmentBegun_job?_ne (L := h.received) (f := f) (hnumber ▸ hk)
  · rw [hfreed]
    exact segmentBegun_free
  · rw [hpool]
    rfl
  · rw [hstores, ← hnumber]
    rfl
  · rw [hsignals]
    rfl
  · rw [hsignals]
    rfl
  · rw [hsignals]
    rfl
  · rw [hsignals]
    rfl
  · rw [hsignals]
    rfl
  · rw [hsignals]
    exact ⟨rfl, rfl, rfl, rfl, rfl, ⟨rfl, rfl, rfl, rfl, rfl, rfl, rfl, rfl⟩, rfl, rfl, rfl, rfl, rfl, rfl, rfl, rfl, rfl⟩

end Sys2Proof.Machine
end

-- O46: SHEET END (R12, R13, R26).
section
namespace Sys2Proof.Machine

/-! ### The checks in their order -/

/-- The end of a sheet that is open or may open. -/
def State.sheetEnding (s : State) (x : Job) (i : Nat) (f : ShopFrame) (b : List Byte) (L : Nat) : FrameOutcome :=
  if field b 0 4 ≠ L then (s, some (.length, []))
  else if x.mediaSet.getLsbD (field b 4 1) = false then
    (if opensAt x i then s else s.discardOpen f.job.toNat, some (.badMedia, []))
  else if opensAt x i && decide (s.pool = 0) then (s, some (.noRecord, []))
  else (s.completeSheet f.job.toNat i (opensAt x i) b, some (.ok, []))

section
variable {s : State} {f : ShopFrame} {x : Job}

theorem sheetEndFrame_unknown (h : s.job? f.job.toNat = none) :
    s.jobFrame .sheetEnd f = (s, some (.unknownJob, [])) := by
  simp only [State.jobFrame, State.sheetEndFrame, h]

theorem sheetEndFrame_ended (h : s.job? f.job.toNat = some x) (hended : x.ingest = .closed ∨ jobKilled x = true) :
    s.jobFrame .sheetEnd f = (s, some (.jobEnded, [])) := by
  simp only [State.jobFrame, State.sheetEndFrame, h]
  exact if_pos hended

section
variable (h : s.job? f.job.toNat = some x) (hopened : x.ingest = .opened) (halive : jobKilled x = false)
include h hopened halive

theorem sheetEndFrame_order (hopen : isOpenIndex x f.sheet.toNat = false) (hnew : opensAt x f.sheet.toNat = false) :
    s.jobFrame .sheetEnd f = (s, some (if repeatsEnd x f.sheet.toNat (field (shopBody f) 0 4) then .duplicate else .order,
      [])) := by
  simp only [State.jobFrame, State.sheetEndFrame, h]
  refine (if_neg (not_ended_frame hopened halive)).trans (if_pos ?_)
  rw [hopen, hnew]
  rfl

theorem sheetEndFrame_ending (hat : isOpenIndex x f.sheet.toNat = true ∨ opensAt x f.sheet.toNat = true) :
    s.jobFrame .sheetEnd f = s.sheetEnding x f.sheet.toNat f (shopBody f)
      (if opensAt x f.sheet.toNat then 0 else s.receivedOf f.job.toNat f.sheet.toNat) := by
  simp only [State.jobFrame, State.sheetEndFrame, h]
  refine (if_neg (not_ended_frame hopened halive)).trans (if_neg ?_)
  obtain hopen | hnew := hat
  · rw [hopen]
    exact Bool.false_ne_true
  · rw [hnew, Bool.or_true]
    exact Bool.false_ne_true

end

section
variable {i L : Nat} {b : List Byte}

theorem sheetEnding_length (h : field b 0 4 ≠ L) : s.sheetEnding x i f b L = (s, some (.length, [])) := if_pos h

variable (h : field b 0 4 = L)
include h

theorem sheetEnding_badMedia (hm : x.mediaSet.getLsbD (field b 4 1) = false) : s.sheetEnding x i f b L =
    (if opensAt x i then s else s.discardOpen f.job.toNat, some (.badMedia, [])) :=
  (if_neg (not_not_intro h)).trans (if_pos hm)

variable (hm : x.mediaSet.getLsbD (field b 4 1) = true)
include hm

theorem sheetEnding_noRecord (hnew : opensAt x i = true) (hpool : s.pool = 0) :
    s.sheetEnding x i f b L = (s, some (.noRecord, [])) :=
  (if_neg (not_not_intro h)).trans ((if_neg (by rw [hm]; exact Bool.noConfusion)).trans
    (if_pos (by rw [hnew, decide_eq_true hpool]; rfl)))

theorem sheetEnding_completes (hpool : opensAt x i = true → 1 ≤ s.pool) : s.sheetEnding x i f b L =
    (s.completeSheet f.job.toNat i (opensAt x i) b, some (.ok, [])) := by
  refine (if_neg (not_not_intro h)).trans ((if_neg (by rw [hm]; exact Bool.noConfusion)).trans (if_neg ?_))
  rw [Bool.and_eq_true, decide_eq_true_eq]
  rintro ⟨hnew, hzero⟩
  exact absurd (hpool hnew) (by rw [hzero]; decide)

end

end

/-! ### The completed sheet -/

/-- The job of a sheet that has been completed. -/
def closedJob (j i : Nat) (opens : Bool) (b : List Byte) (x : Job) : Job :=
  modSheet i (completedSheet b) (openedJob j i opens x)

theorem closedJob_number (j i : Nat) (opens : Bool) (b : List Byte) (x : Job) :
    (closedJob j i opens b x).number = x.number := openedJob_number

theorem closedJob_run (j i : Nat) (opens : Bool) (b : List Byte) (x : Job) : (closedJob j i opens b x).run = x.run := by
  unfold closedJob modSheet
  rw [openedJob_only]

/-- The state with a sheet completed, before its job may go to the waiting list. -/
def State.sheetClosed (s : State) (j i : Nat) (opens : Bool) (b : List Byte) : State :=
  { s.modJob j (closedJob j i opens b) with pool := if opens = true then s.pool - 1 else s.pool }

section
variable {s : State} {j i : Nat} {opens : Bool} {b : List Byte} {x : Job}

theorem completeSheet_eq (s : State) (j i : Nat) (opens : Bool) (b : List Byte) : s.completeSheet j i opens b =
    if (s.sheetClosed j i opens b).runIs j (fun r => decide (r = .new)) then (s.sheetClosed j i opens b).enterWaiting j
    else s.sheetClosed j i opens b := by
  have hmod := congrArg State.jobs (s.modJob_modJob j (openedJob j i opens) (modSheet i (completedSheet b))
    fun _ => openedJob_number)
  have hclosed : (s.withSheet j i opens).modJob j (modSheet i (completedSheet b)) = s.sheetClosed j i opens b := by
    rw [State.withSheet_eq]
    exact congrArg (fun l : List Job => ({ s with
      jobs := l, pool := if opens = true then s.pool - 1 else s.pool } : State)) hmod
  rw [← hclosed]
  rfl

theorem sheetClosed_job? (h : s.job? j = some x) :
    (s.sheetClosed j i opens b).job? j = some (closedJob j i opens b x) :=
  s.job_modJob_self j _ x h fun _ => closedJob_number ..

theorem completeSheet_new (h : s.job? j = some x) (hrun : x.run = .new) :
    s.completeSheet j i opens b = (s.sheetClosed j i opens b).enterWaiting j := by
  rw [completeSheet_eq]
  refine if_pos ?_
  rw [State.runIs_some (sheetClosed_job? h), closedJob_run, hrun]
  rfl

theorem completeSheet_old (h : s.job? j = some x) (hrun : x.run ≠ .new) :
    s.completeSheet j i opens b = s.sheetClosed j i opens b := by
  rw [completeSheet_eq]
  refine if_neg ?_
  rw [State.runIs_some (sheetClosed_job? h), closedJob_run, decide_eq_true_eq]
  exact hrun

/-- What the completion of a sheet leaves unchanged. -/
theorem completeSheet_kept (s : State) (j i : Nat) (opens : Bool) (b : List Byte) :
    (s.completeSheet j i opens b).stores = s.stores ∧ (s.completeSheet j i opens b).held = s.held ∧
    (s.completeSheet j i opens b).pool = (if opens = true then s.pool - 1 else s.pool) ∧
    (s.completeSheet j i opens b).free = s.free ∧ (s.completeSheet j i opens b).lines = s.lines ∧
    (s.completeSheet j i opens b).accounts = s.accounts := by
  rw [completeSheet_eq]
  split <;> exact ⟨rfl, rfl, rfl, rfl, rfl, rfl⟩

theorem sheetOf_closedJob {h : Sheet} (hsheet : (opens = true ∧ sheetOf x i = none ∧ h = freshSheet j i) ∨
    (opens = false ∧ sheetOf x i = some h)) :
    sheetOf (closedJob j i opens b x) i = some (completedSheet b h) := by
  rw [closedJob, sheetOf_modSheet i i (completedSheet b) fun _ => rfl, if_pos rfl, sheetOf_openedJob hsheet]
  rfl

theorem completedSheet_eq (b : List Byte) (h : Sheet) : completedSheet b h =
    { h with
      state := .complete
      media := field b 4 1
      sides := max 1 (min 2 (field b 5 1))
      front := if field b 6 1 ≤ 3 then Fin.ofNat 4 (field b 6 1) else 2
      back := if field b 7 1 ≤ 3 then Fin.ofNat 4 (field b 7 1) else 2 } := by
  rw [completedSheet, keptSides, clamp_eq _ (by decide)]
  rfl

theorem waitingJob_sheets (x : Job) : (waitingJob x).sheets = x.sheets := by
  unfold waitingJob splitRule
  split <;> rfl

theorem waitingJob_run (x : Job) : (waitingJob x).run = .waiting := by
  unfold waitingJob splitRule
  split <;> rfl

end

/-- Settles O46. -/
theorem sheetEndCompletesASheet : Obligations.SheetEndCompletesASheet := by
  refine ⟨fun s f body htaken hlen hw hq => ?_, fun s j i opens body x h hx hsheet => ?_⟩
  · have hsize : bodyFits .sheetEnd body.length = true := by simp [bodyFits, hlen]
    have hbody := htaken.body
    have hrefused {st : Status} (hframe : s.jobFrame .sheetEnd f = (s, some (st, []))) :=
      congrArg (Host.Outcome.next (φ := Fault) (ρ := Refusal))
        (takeJobFrame_unchanged htaken hsize JobFrame.noConfusion hq hw hframe)
    refine ⟨fun h => hrefused (sheetEndFrame_unknown h), fun x h => ⟨fun hended => hrefused (sheetEndFrame_ended h hended),
      fun hopened halive => ⟨fun hopen hnew => ?_, fun hat => ?_⟩⟩⟩
    · have hframe := sheetEndFrame_order h hopened halive hopen hnew
      rw [hbody] at hframe
      exact hrefused hframe
    · have hframe := sheetEndFrame_ending h hopened halive hat
      rw [hbody] at hframe
      refine ⟨fun hne => hrefused (hframe.trans (sheetEnding_length hne)), fun heq hm => ?_, fun heq hm hnew hpool => ?_,
        fun heq hm hpool => ?_⟩
      · have hbad := hframe.trans (sheetEnding_badMedia heq hm)
        cases hnew : opensAt x f.sheet.toNat with
        | true =>
          rw [hnew] at hbad
          exact hrefused hbad
        | false =>
          rw [hnew] at hbad
          have hpasses : NoPassWanted (s.discardOpen f.job.toNat) := (s.discardOpen_passes _).trans hw
          exact congrArg _ (takeJobFrame_answered htaken hsize JobFrame.noConfusion hq hbad (steady_discardOpen s _)
            hpasses (s.discardOpen_held _))
      · exact hrefused (hframe.trans (sheetEnding_noRecord heq hm hnew hpool))
      · obtain ⟨hstores, hheld, -⟩ := completeSheet_kept s f.job.toNat f.sheet.toNat (opensAt x f.sheet.toNat) body
        exact congrArg _ (takeJobFrame_ended htaken hsize JobFrame.noConfusion hq
          (hframe.trans (sheetEnding_completes heq hm hpool)) (fun t ht => hstores ▸ ht) hheld)
  · obtain ⟨-, -, hpool, hfree, hlines, haccounts⟩ := completeSheet_kept s j i opens body
    have hclosed := sheetClosed_job? (i := i) (opens := opens) (b := body) hx
    have hsheetOf := sheetOf_closedJob (b := body) hsheet
    rw [completedSheet_eq] at hsheetOf
    by_cases hrun : x.run = .new
    · refine ⟨waitingJob (closedJob j i opens body x), ?_, ?_, ?_, fun _ => ?_, hpool, hfree, hlines, haccounts⟩
      · rw [completeSheet_new hx hrun, State.enterWaiting_job?, if_pos rfl, hclosed]
        rfl
      · rw [← hsheetOf]
        exact congrArg (fun l : List Sheet => l.find? fun h => decide (h.index = i)) (waitingJob_sheets _)
      · rw [waitingJob_run, if_pos hrun]
      · rw [completeSheet_new hx hrun]
        exact ⟨(State.mem_enterWaiting ..).mpr (.inl rfl), rfl⟩
    · refine ⟨closedJob j i opens body x, ?_, hsheetOf, ?_, fun hnew => absurd hnew hrun, hpool, hfree, hlines, haccounts⟩
      · rw [completeSheet_old hx hrun, hclosed]
      · rw [closedJob_run, if_neg hrun]

end Sys2Proof.Machine
end

-- O47: JOB CLOSE (R14, R45, R55).
section
namespace Sys2Proof.Machine

/-- A job whose ingest has closed. -/
def ingestClosed (n : Nat) (x : Job) : Job :=
  { x with ingest := .closed, dispatch := closeCursor n x.dispatch, confirm := closeCursor n x.confirm }

/-- A job that feeds no more. -/
def drainingJob (x : Job) : Job := { x with run := .draining }

/-- A job without its open sheet. -/
def sheetDropped (x : Job) : Job := { x with sheets := if (openSheet x).isSome = true then x.sheets.dropLast else x.sheets }

theorem closeCursor_eq (k : Nat) (c : Cursor) : closeCursor k c = if c = ⟨0, k⟩ then ⟨1, 0⟩ else c := by
  cases c
  simp only [closeCursor, Cursor.mk.injEq]

theorem openSheet_state {x : Job} {g : Sheet} (h : openSheet x = some g) : g.state = .opened := by
  unfold openSheet at h
  split at h
  · split at h
    · rename_i hopened
      exact Option.some.inj h ▸ hopened
    · exact absurd h (Option.some_ne_none g).symm
  · exact absurd h (Option.some_ne_none g).symm

/-- The open sheet is none of the complete ones. -/
theorem completeCount_sheetDropped (x : Job) : completeCount (sheetDropped x) = completeCount x := by
  unfold sheetDropped
  cases h : openSheet x with
  | none => rfl
  | some g =>
    have hsheets := openSheet_some h
    have hopened := openSheet_state h
    unfold completeCount
    conv => rhs; rw [hsheets]
    simp [List.filter_append, hopened]

section
variable {s : State} {f : ShopFrame} {x : Job}

theorem jobCloseFrame_unknown (h : s.job? f.job.toNat = none) :
    s.jobFrame .jobClose f = (s, some (.unknownJob, [])) := by
  simp only [State.jobFrame, State.jobCloseFrame, h]

variable (h : s.job? f.job.toNat = some x)
include h

theorem jobCloseFrame_ended (hk : jobKilled x = true) : s.jobFrame .jobClose f = (s, some (.jobEnded, [])) := by
  simp only [State.jobFrame, State.jobCloseFrame, h]
  exact if_pos hk

theorem jobCloseFrame_duplicate (hk : jobKilled x = false) (hc : x.ingest = .closed) :
    s.jobFrame .jobClose f = (s, some (.duplicate, [])) := by
  simp only [State.jobFrame, State.jobCloseFrame, h]
  exact (if_neg (by rw [hk]; exact Bool.false_ne_true)).trans (if_pos hc)

theorem jobCloseFrame_closes (hk : jobKilled x = false) (hopened : x.ingest = .opened) : s.jobFrame .jobClose f =
    (((s.discardOpen f.job.toNat).modJob f.job.toNat (ingestClosed (completeCount x))).afterClose f.job.toNat,
      some (.ok, be 1 (if (openSheet x).isSome then 1 else 0))) := by
  simp only [State.jobFrame, State.jobCloseFrame, h]
  exact (if_neg (by rw [hk]; exact Bool.false_ne_true)).trans (if_neg (by rw [hopened]; exact IngestState.noConfusion))

end

section
variable {s : State} {j : Nat} {x : Job} (h : s.job? j = some x)
include h

theorem afterClose_completes (hend : completeCount x = 0 ∨ (jobLive x = true ∧ atEnd x x.confirm = true)) :
    s.afterClose j = s.complete j := by
  unfold State.afterClose
  simp only [h]
  by_cases hzero : completeCount x = 0
  · exact if_pos hzero
  · refine (if_neg hzero).trans (if_pos ?_)
    obtain ⟨hlive, hat⟩ := hend.resolve_left hzero
    rw [hlive, hat]
    rfl

variable (hcount : completeCount x ≠ 0) (hend : ¬(jobLive x = true ∧ atEnd x x.confirm = true))
include hcount hend

theorem afterClose_drains {p : LineNo} (hrun : x.run = .feeding) (hat : atEnd x x.dispatch = true)
    (hb : x.bound = some p) : s.afterClose j = (s.modJob j drainingJob).rechoose p := by
  unfold State.afterClose
  simp only [h]
  refine (if_neg hcount).trans ((if_neg (by rwa [Bool.and_eq_true])).trans ((if_pos ⟨hrun, hat⟩).trans ?_))
  rw [hb]
  rfl

theorem afterClose_nothing (hno : ¬(x.run = .feeding ∧ atEnd x x.dispatch = true)) : s.afterClose j = s := by
  unfold State.afterClose
  simp only [h]
  exact (if_neg hcount).trans ((if_neg (by rwa [Bool.and_eq_true])).trans (if_neg hno))

end

theorem State.complete_job?_purged {s : State} {j : Nat} {x : Job} (h : s.job? j = some x) (hr : x.retain = false) :
    (s.complete j).job? j = none := by
  rw [State.complete_purged h hr, State.purge_job?, if_pos rfl]

theorem State.complete_job?_retained {s : State} {j : Nat} {x : Job} (h : s.job? j = some x) (hr : x.retain = true) :
    (s.complete j).job? j = some (doneJob (unboundJob x)) := by
  rw [State.complete_retained h hr, State.finished_job? h]

theorem steady_afterClose (s : State) (j : Nat) : Steady s (s.afterClose j) := by
  unfold State.afterClose
  cases s.job? j with
  | none => exact .refl s
  | some x =>
    dsimp only
    split
    · exact steady_complete s j
    · split
      · exact steady_complete s j
      · split
        · cases x.bound with
          | none => exact .refl s
          | some p => exact (Steady.modJob s j _).trans (steady_rechoose _ p)
        · exact .refl s

/-- Settles O47. -/
theorem jobCloseEndsIngest : Obligations.JobCloseEndsIngest := by
  intro s f htaken hw hq
  have hrefused {st : Status} (hframe : s.jobFrame .jobClose f = (s, some (st, []))) :=
    congrArg (Host.Outcome.next (φ := Fault) (ρ := Refusal))
      (takeJobFrame_unchanged htaken rfl JobFrame.noConfusion hq hw hframe)
  refine ⟨fun h => hrefused (jobCloseFrame_unknown h), fun x h => ⟨fun hk => hrefused (jobCloseFrame_ended h hk),
    fun hk hc => hrefused (jobCloseFrame_duplicate h hk hc), fun hk hopened => ?_⟩, closeCursor_eq⟩
  intro n y s1
  have hsteady : Steady s s1 := (steady_discardOpen s f.job.toNat).trans (.modJob _ _ _)
  have hstores : ∀ t ∈ (s1.afterClose f.job.toNat).stores, t ∈ s.stores :=
    (hsteady.trans (steady_afterClose s1 f.job.toNat)).stores
  have hheld : (s1.afterClose f.job.toNat).held = s.held :=
    (follows_afterClose s1 f.job.toNat).held.trans (s.discardOpen_held f.job.toNat)
  have hjob : s1.job? f.job.toNat = some y :=
    (s.discardOpen f.job.toNat).job_modJob_self f.job.toNat (ingestClosed n) _ (State.discardOpen_job? h) fun _ => rfl
  have hcount : completeCount y = n := completeCount_sheetDropped x
  have hlive : jobLive y = jobLive x := rfl
  refine ⟨congrArg _ (takeJobFrame_ended htaken rfl JobFrame.noConfusion hq (jobCloseFrame_closes h hk hopened) hstores hheld),
    hjob, fun hend => ⟨?_, fun hr => ?_, fun hr => ?_⟩, fun hne hend => ⟨fun p hrun hat hb => ?_, fun hno => ?_⟩⟩
  · exact afterClose_completes hjob (by rwa [hcount, hlive])
  · exact State.complete_job?_purged hjob hr
  · exact ⟨_, State.complete_job?_retained hjob hr, rfl, rfl⟩
  · rw [afterClose_drains hjob (by rwa [hcount]) (by rwa [hlive]) hrun hat hb]
    refine ⟨drainingJob y, State.rechoose_job?_unfed p ?_ rfl, rfl, hb⟩
    exact s1.job_modJob_self f.job.toNat drainingJob y hjob fun _ => rfl
  · exact afterClose_nothing hjob (by rwa [hcount]) (by rwa [hlive]) hno

end Sys2Proof.Machine
end

-- O45: the end of a store (R6, R7, R11, R41, R183).
section
namespace Sys2Proof.Machine

/-! ### The bytes in the spool -/

theorem blockAddress_inj {b c : Block} {k l : Nat} (hk : k < 4096) (hl : l < 4096)
    (h : blockAddress b k = blockAddress c l) : b = c ∧ k = l := by
  have hsum : b.val * 4096 + k = c.val * 4096 + l := h
  exact ⟨Fin.ext (by omega), by omega⟩

/-- A byte of a chain without repeats has its own address. -/
theorem chainAddress_inj {chain : List Block} {k l a : Nat} (hd : chain.Nodup) (hk : chainAddress chain k = some a)
    (hl : chainAddress chain l = some a) : k = l := by
  have hmod (n : Nat) : n % 4096 < 4096 := Nat.mod_lt n (by decide)
  obtain ⟨b, hb, hba⟩ := Option.map_eq_some_iff.mp hk
  obtain ⟨c, hc, hca⟩ := Option.map_eq_some_iff.mp hl
  obtain ⟨rfl, hoffset⟩ := blockAddress_inj (hmod k) (hmod l) (hba.trans hca.symm)
  have hplace : k / 4096 = l / 4096 := by
    obtain ⟨hlt, -⟩ := List.getElem?_eq_some_iff.mp hb
    exact (List.getElem?_inj hlt hd).mp (hb.trans hc.symm)
  omega

theorem writeChain_placed {chain : List Block} (hd : chain.Nodup) (bytes : List Byte) (o : Nat) (m : Memory)
    (hm : m.wf = true) {k a : Nat} {v : Byte} (hv : bytes[k]? = some v) (ha : chainAddress chain (o + k) = some a) :
    (writeChain chain o bytes m).read a = v := by
  induction bytes generalizing o m k with
  | nil => simp at hv
  | cons w bytes ih =>
    cases k with
    | zero =>
      obtain rfl : w = v := by simpa using hv
      have hothers : ∀ i, i < bytes.length → chainAddress chain (o + 1 + i) ≠ some a := fun i _ hi => by
        have hsame := chainAddress_inj hd ha hi
        omega
      rw [Nat.add_zero] at ha
      have hwrite : writeChain chain o (w :: bytes) m = writeChain chain (o + 1) bytes (m.write a w) := by
        simp only [writeChain, ha]
      rw [hwrite, writeChain_other chain bytes (o + 1) _ (Memory.wf_write a w hm) a hothers, Memory.read_write_self a w hm]
    | succ k =>
      have hv' : bytes[k]? = some v := by simpa using hv
      have ha' : chainAddress chain (o + 1 + k) = some a := by rwa [Nat.add_right_comm]
      unfold writeChain
      cases chainAddress chain o with
      | none => exact ih (o + 1) m hm hv' ha'
      | some b => exact ih (o + 1) (m.write b w) (Memory.wf_write b w hm) hv' ha'

/-! ### The store that has ended -/

section
variable {s : State} {j : Nat} {t : Store} {x : Job} {h : Sheet}

/-- The state with the bytes of a store in the spool and the store over. -/
def State.stored (s : State) (j : Nat) (t : Store) (h : Sheet) : State :=
  { s with
    dram := writeChain h.chain t.offset t.bytes s.dram
    stores := s.stores.filter fun t => decide (t.job ≠ j) }

theorem find?_store_job (hfind : s.stores.find? (fun t => decide (t.job = j)) = some t) : t.job = j :=
  of_decide_eq_true (List.find?_some (p := fun t : Store => decide (t.job = j)) hfind)

theorem writeStore_eq (hx : s.job? t.job = some x) (hh : sheetOf x t.sheet = some h) :
    s.writeStore t = { s with dram := writeChain h.chain t.offset t.bytes s.dram } := by
  unfold State.writeStore
  simp only [hx, hh]

theorem receivedBody_eq (hx : s.job? j = some x) {i : Nat} (hh : sheetOf x i = some h) :
    s.receivedBody j i = be 4 h.received := by
  unfold State.receivedBody State.receivedOf
  simp only [hx, hh]

/-- The state with the reply to a store that has ended. -/
def State.storeReplied (s : State) (j : Nat) (t : Store) (h : Sheet) : State :=
  (s.stored j t h).reply s.settings.port t.frame j .ok (be 4 h.received)

theorem storeEnd_none (hno : ∀ t ∈ s.stores, t.job ≠ j) : storeEnd j s = s := by
  have hfind : s.stores.find? (fun t => decide (t.job = j)) = none := by
    rw [List.find?_eq_none]
    intro t ht
    simpa using hno t ht
  unfold storeEnd
  rw [hfind]

/-- The part's follow-up of a store that has ended. -/
def State.storeFollowed (s : State) (j : Nat) (t : Store) (x : Job) (h : Sheet) : State :=
  let r := s.storeReplied j t h
  let v := if jobKilled x = true then r.discardOpen j else r
  if t.purge = true then v.purge j else v

variable (hfind : s.stores.find? (fun t => decide (t.job = j)) = some t) (hx : s.job? j = some x)
  (hh : sheetOf x t.sheet = some h)
include hfind hx hh

theorem storeEnd_some : storeEnd j s = (settleEvent s (s.storeFollowed j t x h)).drainHeld := by
  have hjob := find?_store_job hfind
  have hwrite : s.writeStore t = { s with dram := writeChain h.chain t.offset t.bytes s.dram } :=
    writeStore_eq (by rw [hjob]; exact hx) hh
  have hbody : (s.stored j t h).receivedBody j t.sheet = be 4 h.received := receivedBody_eq (s := s.stored j t h) hx hh
  have hafter : (s.storeReplied j t h).afterStore t = s.storeFollowed j t x h := by
    have hreplied : (s.storeReplied j t h).job? t.job = some x := by rw [hjob]; exact hx
    unfold State.afterStore
    rw [hreplied, hjob]
    rfl
  rw [← hafter, State.storeReplied, ← hbody]
  unfold storeEnd
  simp only [hfind, hwrite]
  rfl

end

section
variable {s : State} {j : Nat} {t : Store} {x : Job} {h : Sheet}

theorem storeFollowed_plain (hpurge : t.purge = false) : s.storeFollowed j t x h =
    if jobKilled x = true then (s.storeReplied j t h).discardOpen j else s.storeReplied j t h :=
  if_neg (by rw [hpurge]; exact Bool.false_ne_true)

theorem storeFollowed_purged (hpurge : t.purge = true) (hk : jobKilled x = true) :
    s.storeFollowed j t x h = ((s.storeReplied j t h).discardOpen j).purge j :=
  (if_pos hpurge).trans (congrArg (fun v : State => v.purge j) (if_pos hk))

/-- A purge that was taken during the store frees the record of the job with all its storage (R41). -/
theorem storeFollowed_purged_pool (hpurge : t.purge = true) (hk : jobKilled x = true) (hx : s.job? j = some x) :
    (s.storeFollowed j t x h).pool = s.pool + x.sheets.length := by
  have hreplied : (s.storeReplied j t h).job? j = some x := hx
  rw [storeFollowed_purged hpurge hk, State.purge_pool (State.discardOpen_job? hreplied), State.discardOpen_pool hreplied]
  have hpool : (s.storeReplied j t h).pool = s.pool := rfl
  rw [hpool]
  cases ho : openSheet x with
  | none => rfl
  | some g =>
    have hlen := congrArg List.length (openSheet_some ho)
    rw [List.length_append, List.length_singleton] at hlen
    simp only [Option.isSome_some, if_true]
    omega

theorem storeFollowed_purged_free (hpurge : t.purge = true) (hk : jobKilled x = true) (hx : s.job? j = some x) :
    (s.storeFollowed j t x h).free = s.free ++ (match openSheet x with
      | some o => o.chain ++ x.sheets.dropLast.flatMap fun (g : Sheet) => g.chain
      | none => x.sheets.flatMap fun (g : Sheet) => g.chain) := by
  have hreplied : (s.storeReplied j t h).job? j = some x := hx
  rw [storeFollowed_purged hpurge hk, State.purge_free (State.discardOpen_job? hreplied), State.discardOpen_free hreplied]
  have hfree : (s.storeReplied j t h).free = s.free := rfl
  rw [hfree]
  cases openSheet x with
  | none => exact congrArg (· ++ _) (List.append_nil _)
  | some g => exact List.append_assoc ..

end

theorem drainHeld_nil {s : State} (h : s.held = []) : s.drainHeld = s := by
  have hsame : ({ s with held := [] } : State) = s := by rw [← h]
  unfold State.drainHeld
  rw [h, hsame]
  rfl

theorem drainHeld_append {s : State} {hs : List Held} {h : Held} (hheld : s.held = hs ++ [h]) :
    s.drainHeld = ({ s with held := hs }).drainHeld.takeHeld h := by
  unfold State.drainHeld
  rw [hheld, List.foldl_append]
  rfl

/-! ### What waits -/

theorem queued_true {s : State} {j : Nat} (h : (∃ t ∈ s.stores, t.job = j) ∨ ∃ h ∈ s.held, heldJob h = j) :
    s.queued j = true := by
  simp only [State.queued, State.storing, Bool.or_eq_true, List.any_eq_true, decide_eq_true_eq]
  exact h

theorem queued_false {s : State} {j : Nat} (hs : ∀ t ∈ s.stores, t.job ≠ j) (hh : ∀ h ∈ s.held, heldJob h ≠ j) :
    s.queued j = false := by
  simp only [State.queued, State.storing, Bool.or_eq_false_iff, List.any_eq_false, decide_eq_true_eq]
  exact ⟨hs, hh⟩

section
variable {s : State} {f : ShopFrame}

theorem takeHeld_waits (hq : s.queued f.job.toNat = true) {h : Held}
    (hh : (∃ k, h = .frame k f) ∨ ∃ st body, h = .answer f st body) : s.takeHeld h = s.hold h := by
  obtain ⟨k, rfl⟩ | ⟨st, body, rfl⟩ := hh <;> exact if_pos hq

theorem takeHeld_frame (hq : s.queued f.job.toNat = false) (k : JobFrame) : s.takeHeld (.frame k f) = s.doJobFrame k f :=
  if_neg (by rw [hq]; exact Bool.false_ne_true)

theorem takeHeld_answer (hq : s.queued f.job.toNat = false) (st : Status) (body : List Byte) :
    s.takeHeld (.answer f st body) = s.reply s.settings.port f f.job.toNat st body :=
  if_neg (by rw [hq]; exact Bool.false_ne_true)

theorem takeJobFrame_takeHeld {body : List Byte} {k : JobFrame} (h : JobFrameTaken s f body)
    (hs : bodyFits k body.length = true) (hq : s.queued f.job.toNat = false) :
    takeJobFrame k f s = s.takeHeld (.frame k f) := by
  have hwait : s.mustWait k f.job.toNat = false := by
    cases k with
    | jobCancel =>
      refine State.mustWait_cancel.mpr fun x hx _ => ?_
      simp only [State.queued, Bool.or_eq_false_iff, List.any_eq_false, decide_eq_true_eq] at hq
      exact hq.2 x hx
    | sheetData | sheetEnd | jobClose => exact hq
  rw [takeHeld_frame hq, takeJobFrame_taken k h hs hwait]

theorem dataFits {body : List Byte} (h1 : 1 ≤ body.length) (h2 : body.length ≤ 1024) :
    bodyFits .sheetData body.length = true := by simp [bodyFits, h1, h2]

theorem endFits {body : List Byte} (h : body.length = 8) : bodyFits .sheetEnd body.length = true := by simp [bodyFits, h]

end

/-- Settles O45. -/
theorem storeEndPlacesTheBytes : Obligations.StoreEndPlacesTheBytes := by
  refine ⟨fun s j hno => congrArg _ (storeEnd_none hno), fun s j t x h hfind hheld hw hx hh hpurge => ?_,
    fun chain o bytes m hm => ⟨fun a ha => writeChain_other chain bytes o m hm a ha, fun hd k v a hv ha =>
      writeChain_placed hd bytes o m hm hv ha⟩, fun s j t x h hfind hx hh => ⟨congrArg _ (storeEnd_some hfind hx hh), ?_⟩,
    fun s => ⟨drainHeld_nil, fun hs h => drainHeld_append⟩, fun s f => ⟨fun hwaits => ?_, fun hstores hheld => ?_⟩⟩
  · have hend := storeEnd_some hfind hx hh
    rw [storeFollowed_plain hpurge] at hend
    have hdrain {u : State} (hu : (settleEvent s u).held = []) : (settleEvent s u).drainHeld = settleEvent s u :=
      drainHeld_nil hu
    refine ⟨fun halive => congrArg _ (hend.trans ?_), fun hkilled => congrArg _ (hend.trans ?_)⟩
    · rw [if_neg (by rw [halive]; exact Bool.false_ne_true)]
      have hcalm : settleEvent s (s.storeReplied j t h) = (s.storeReplied j t h).refreshIdle :=
        settleEvent_quiet rfl hw (zeroMove_none fun _ => rfl)
      rw [hcalm]
      exact drainHeld_nil hheld
    · rw [if_pos hkilled]
      have honly := State.discardOpen_only (s := s.storeReplied j t h) (j := j)
      have hcalm : settleEvent s ((s.storeReplied j t h).discardOpen j) =
          ((s.storeReplied j t h).discardOpen j).refreshIdle := by
        refine settleEvent_quiet ?_ ?_ (zeroMove_none fun _ => ?_)
        · rw [honly]
          rfl
        · rw [honly]
          exact hw
        · rw [honly]
          rfl
      rw [hcalm]
      exact drainHeld_nil (((s.storeReplied j t h).discardOpen_held j).trans hheld)
  · intro hpurge hk
    have hfollowed := storeFollowed_purged (s := s) (j := j) (h := h) hpurge hk
    refine ⟨?_, fun k hkj => ?_, storeFollowed_purged_pool hpurge hk hx, fun u hu => ?_, ?_,
      storeFollowed_purged_free hpurge hk hx⟩
    · exact (congrArg (fun v : State => v.job? j) hfollowed).trans ((State.purge_job? ..).trans (if_pos rfl))
    · exact (congrArg (fun v : State => v.job? k) hfollowed).trans ((State.purge_job? ..).trans
        ((if_neg hkj).trans (State.discardOpen_job?_ne _ j hkj)))
    · have hstores : (s.storeFollowed j t x h).stores =
          (s.stores.filter fun t => decide (t.job ≠ j)).filter fun t => decide (t.job ≠ j) := by
        rw [hfollowed, State.purge_stores, State.discardOpen_only]
        rfl
      have hmem : u ∈ (s.stores.filter fun t => decide (t.job ≠ j)).filter fun t => decide (t.job ≠ j) :=
        hstores ▸ (show u ∈ (s.storeFollowed j t x h).stores from hu)
      simp only [List.mem_filter, decide_eq_true_eq] at hmem
      exact hmem.1
    · have hheld : (((s.storeReplied j t h).discardOpen j).purge j).held = s.held :=
        (follows_purge _ j).held.trans ((s.storeReplied j t h).discardOpen_held j)
      exact (congrArg State.held hfollowed).trans hheld
  · have hq := queued_true hwaits
    refine ⟨fun body htaken => ⟨fun h1 h2 => ?_, fun h8 => ?_, fun h0 => ?_⟩, fun k => takeHeld_waits hq (.inl ⟨k, rfl⟩),
      fun st body => takeHeld_waits hq (.inr ⟨st, body, rfl⟩)⟩
    · exact congrArg _ (takeJobFrame_waits .sheetData htaken (dataFits h1 h2) hq)
    · exact congrArg _ (takeJobFrame_waits .sheetEnd htaken (endFits h8) hq)
    · exact congrArg _ (takeJobFrame_waits .jobClose htaken (by rw [h0]; rfl) hq)
  · have hq := queued_false hstores hheld
    refine ⟨takeHeld_answer hq, fun body htaken => ⟨fun h1 h2 => ?_, fun h8 => ?_, fun h0 => ⟨?_, ?_⟩⟩⟩
    · exact congrArg _ (takeJobFrame_takeHeld htaken (dataFits h1 h2) hq)
    · exact congrArg _ (takeJobFrame_takeHeld htaken (endFits h8) hq)
    · exact congrArg _ (takeJobFrame_takeHeld htaken (by rw [h0]; rfl) hq)
    · exact congrArg _ (takeJobFrame_takeHeld htaken (by rw [h0]; rfl) hq)

end Sys2Proof.Machine
end

-- What an operation on one job leaves of the other jobs and of the lines.
section
namespace Sys2Proof.Machine

/-! ### The other jobs -/

/-- The record of a job but for the feeding choice of its printer. -/
def Rerun (x y : Job) : Prop :=
  ∃ r, y = { x with run := r } ∧ (r = x.run ∨ (isFeedable x.run = true ∧ isFeedable r = true))

theorem Rerun.refl (x : Job) : Rerun x x := ⟨x.run, rfl, .inl rfl⟩

theorem Rerun.trans {x y z : Job} (h : Rerun x y) (k : Rerun y z) : Rerun x z := by
  obtain ⟨r, rfl, hr⟩ := h
  obtain ⟨q, rfl, hq⟩ := k
  refine ⟨q, rfl, ?_⟩
  obtain hq | ⟨hqr, hqf⟩ := hq
  · rw [hq]
    exact hr
  · refine .inr ⟨?_, hqf⟩
    obtain hr | ⟨hx, -⟩ := hr
    · rw [← hr]
      exact hqr
    · exact hx

/-- A job whose run the feeding choice does not touch keeps its whole record. -/
theorem Rerun.unfed {x y : Job} (h : Rerun x y) (hx : isFeedable x.run = false) : y = x := by
  obtain ⟨r, rfl, hr⟩ := h
  obtain rfl | ⟨hfed, -⟩ := hr
  · rfl
  · exact absurd hfed (by rw [hx]; exact Bool.false_ne_true)

theorem isFeedable_iff {r : RunState} : isFeedable r = true ↔ r = .queued ∨ r = .feeding := by
  cases r <;> simp [isFeedable]

theorem rerun_afterChoice {s : State} {p : LineNo} {j : Nat} {x : Job} (h : s.job? j = some x) :
    Rerun x (afterChoice (s.line p).queue (s.feedingChoice p) x) := by
  unfold afterChoice
  split
  · rename_i hchoice
    obtain ⟨-, y, hy, hfed⟩ := State.feedingChoice_feedable hchoice
    rw [job_number h, h] at hy
    exact ⟨_, rfl, .inr ⟨Option.some.inj hy ▸ hfed, rfl⟩⟩
  · split
    · rename_i hfeeding
      exact ⟨_, rfl, .inr ⟨by rw [hfeeding.2]; rfl, rfl⟩⟩
    · exact .refl x

/-- A job that an operation is not about: no more than its feeding choice changes, and it goes on waiting. -/
structure Spared (k : Nat) (s t : State) : Prop where
  job : ∀ x, s.job? k = some x → ∃ y, t.job? k = some y ∧ Rerun x y
  waiting : k ∈ s.waiting → k ∈ t.waiting

section
variable {k : Nat} {s t u : State}

theorem Spared.same (hj : t.job? k = s.job? k) (hw : t.waiting = s.waiting) : Spared k s t :=
  ⟨fun x hx => ⟨x, hj.trans hx, .refl x⟩, fun h => hw ▸ h⟩

theorem Spared.refl (k : Nat) (s : State) : Spared k s s := .same rfl rfl

theorem Spared.trans (h : Spared k s t) (g : Spared k t u) : Spared k s u := by
  refine ⟨fun x hx => ?_, fun hk => g.waiting (h.waiting hk)⟩
  obtain ⟨y, hy, hxy⟩ := h.job x hx
  obtain ⟨z, hz, hyz⟩ := g.job y hy
  exact ⟨z, hz, hxy.trans hyz⟩

theorem Spared.signals (h : Spared k s t) (v : State) : Spared k s (t.signalsOf v) := ⟨h.job, h.waiting⟩

variable (s)

theorem spared_modJob {j : Nat} (hk : k ≠ j) (f : Job → Job) (hf : ∀ y, (f y).number = y.number) :
    Spared k s (s.modJob j f) := .same (s.job_modJob_ne f hk hf) rfl

theorem spared_rechoose (k : Nat) (p : LineNo) : Spared k s (s.rechoose p) := by
  refine ⟨fun x hx => ⟨_, ?_, rerun_afterChoice (p := p) hx⟩, fun h => h⟩
  rw [State.rechoose_job?, hx]
  rfl

theorem spared_leaveWaiting {j : Nat} (hk : k ≠ j) : Spared k s (s.leaveWaiting j) :=
  ⟨fun x hx => ⟨x, hx, .refl x⟩, fun h => List.mem_filter.mpr ⟨h, decide_eq_true hk⟩⟩

theorem spared_leaveQuota (k : Nat) (a : AccountNo) (j : Nat) : Spared k s (s.leaveQuota a j) :=
  .same (s.leaveQuota_job? a j k) (s.leaveQuota_waiting a j)

theorem spared_enterWaiting {j : Nat} (hk : k ≠ j) : Spared k s (s.enterWaiting j) :=
  ⟨fun x hx => ⟨x, by rw [State.enterWaiting_job?, if_neg hk, hx], .refl x⟩, fun h => (s.mem_enterWaiting j k).mpr (.inr h)⟩

theorem spared_leaveQueue (k : Nat) (p : LineNo) (j : Nat) : Spared k s (s.leaveQueue p j) :=
  (Spared.same rfl rfl : Spared k s (s.modLine p fun l => { l with queue := without j l.queue })).trans
    (spared_rechoose _ k p)

theorem spared_unqueue {j : Nat} (hk : k ≠ j) : Spared k s (s.unqueue j) := by
  unfold State.unqueue
  split
  · split
    · exact (spared_modJob s hk unboundJob fun _ => rfl).trans (spared_leaveQueue _ k _ j)
    · exact .refl k s
  · exact .refl k s

theorem spared_unbind {j : Nat} (hk : k ≠ j) (p : LineNo) : Spared k s (s.unbind p j) :=
  ⟨fun x hx => ⟨x, by rw [State.unbind_job?, if_neg hk, hx], .refl x⟩, (s.unbind_waitingList p j).1 k⟩

theorem spared_purge {j : Nat} (hk : k ≠ j) : Spared k s (s.purge j) :=
  .same ((s.purge_job? j k).trans (if_neg hk)) (s.purge_waiting j)

theorem spared_releaseStorage {j : Nat} (hk : k ≠ j) : Spared k s (s.releaseStorage j) :=
  .same ((s.releaseStorage_job? j k).trans (if_neg hk)) (s.releaseStorage_waiting j)

theorem spared_finished {j : Nat} (hk : k ≠ j) (x : Job) : Spared k s (s.finished x j) :=
  (((spared_unqueue s hk).trans (spared_leaveWaiting _ hk)).trans (spared_modJob _ hk doneJob fun _ => rfl)).trans
    (spared_leaveQuota _ k x.account j)

theorem spared_complete {j : Nat} (hk : k ≠ j) : Spared k s (s.complete j) := by
  cases h : s.job? j with
  | none =>
    unfold State.complete
    rw [h]
    exact .refl k s
  | some x =>
    cases hr : x.retain with
    | true =>
      rw [State.complete_retained h hr]
      exact spared_finished s hk x
    | false =>
      rw [State.complete_purged h hr]
      exact (spared_finished s hk x).trans (spared_purge _ hk)

theorem spared_endLeaving {j : Nat} (hk : k ≠ j) : Spared k s (s.endLeaving j) := by
  unfold State.endLeaving
  split
  · exact .refl k s
  · split
    · split
      · exact spared_complete s hk
      · split
        · exact (spared_unbind s hk _).trans (spared_rechoose _ k _)
        · exact .refl k s
    · exact .refl k s

theorem spared_markLeaving {j : Nat} (hk : k ≠ j) (x : Job) (t : LeaveTarget) (r : Option HoldReason) :
    Spared k s (s.markLeaving x j t r) := by
  have hmark := spared_modJob s hk (leavingJob t r) fun _ => rfl
  unfold State.markLeaving
  split
  · exact hmark.trans (spared_rechoose _ k _)
  · exact hmark

theorem spared_startLeaving {j : Nat} (hk : k ≠ j) (t : LeaveTarget) (r : Option HoldReason) :
    Spared k s (s.startLeaving j t r) := by
  cases h : s.job? j with
  | none =>
    unfold State.startLeaving
    rw [h]
    exact .refl k s
  | some x =>
    rw [State.startLeaving_eq t r h]
    exact (spared_markLeaving s hk x t r).trans (spared_endLeaving _ hk)

/-- A LEAVING job whose target excludes the printer it leaves (R153). -/
def movedLeaving (x : Job) : Job := { x with leaveTarget := some .waitingExclude }

theorem spared_moveJobOff {j : Nat} (hk : k ≠ j) : Spared k s (s.moveJobOff j) := by
  unfold State.moveJobOff
  split
  · exact .refl k s
  · split
    · exact .refl k s
    · split
      · exact spared_startLeaving s hk _ _
      · split
        · exact spared_modJob s hk movedLeaving fun _ => rfl
        · exact .refl k s

end

theorem Spared.foldl {β : Type} {k : Nat} {f : State → β → State} (l : List β) (hf : ∀ b ∈ l, ∀ s, Spared k s (f s b))
    (s : State) : Spared k s (l.foldl f s) := by
  induction l generalizing s with
  | nil => exact .refl k s
  | cons b l ih =>
    rw [List.forall_mem_cons] at hf
    exact (hf.1 s).trans (ih hf.2 (f s b))

/-! ### The lines -/

/-- No line has changed but for its queue and its feeding choice. -/
def QueuesOnly (s t : State) : Prop := ∀ q, ∃ a b, t.line q = { s.line q with queue := a, feeding := b }

section
variable {s t u : State}

theorem QueuesOnly.same (h : t.lines = s.lines) : QueuesOnly s t := fun q => ⟨_, _, State.line_congr h q⟩

theorem QueuesOnly.refl (s : State) : QueuesOnly s s := .same rfl

theorem QueuesOnly.trans (h : QueuesOnly s t) (k : QueuesOnly t u) : QueuesOnly s u := by
  intro q
  obtain ⟨a, b, hab⟩ := h q
  obtain ⟨c, d, hcd⟩ := k q
  exact ⟨c, d, by rw [hcd, hab]⟩

theorem QueuesOnly.figure {α : Type} (h : QueuesOnly s t) (figureOf : Line → α)
    (hf : ∀ l a b, figureOf { l with queue := a, feeding := b } = figureOf l) (q : LineNo) :
    figureOf (t.line q) = figureOf (s.line q) := by
  obtain ⟨a, b, hab⟩ := h q
  rw [hab, hf]

theorem QueuesOnly.hasEntries (h : QueuesOnly s t) (j : Nat) : t.hasEntries j = s.hasEntries j :=
  State.hasEntries_congr (h.figure Line.inflight fun _ _ _ => rfl) j

theorem QueuesOnly.modLine (s : State) (p : LineNo) (f : Line → Line)
    (hf : ∀ l, ∃ a b, f l = { l with queue := a, feeding := b }) : QueuesOnly s (s.modLine p f) := by
  intro q
  by_cases hq : q = p
  · subst hq
    rw [State.line_modLine_self]
    exact hf _
  · rw [State.line_modLine_ne s f hq]
    exact ⟨_, _, rfl⟩

theorem QueuesOnly.foldl {β : Type} {f : State → β → State} (hf : ∀ s b, QueuesOnly s (f s b)) (l : List β) (s : State) :
    QueuesOnly s (l.foldl f s) := by
  induction l generalizing s with
  | nil => exact .refl s
  | cons b l ih => exact (hf s b).trans (ih (f s b))

variable (s)

theorem queuesOnly_rechoose (p : LineNo) : QueuesOnly s (s.rechoose p) := by
  intro q
  by_cases hq : q = p
  · subst hq
    exact ⟨_, _, s.rechoose_line_self q⟩
  · exact ⟨_, _, s.rechoose_line_ne p hq⟩

theorem queuesOnly_leaveQueue (p : LineNo) (j : Nat) : QueuesOnly s (s.leaveQueue p j) :=
  (QueuesOnly.modLine s p (fun l => { l with queue := without j l.queue }) fun _ => ⟨_, _, rfl⟩).trans
    (queuesOnly_rechoose _ p)

theorem queuesOnly_unqueue (j : Nat) : QueuesOnly s (s.unqueue j) := by
  unfold State.unqueue
  split
  · split
    · exact (QueuesOnly.same rfl : QueuesOnly s _).trans (queuesOnly_leaveQueue _ _ j)
    · exact .refl s
  · exact .refl s

theorem queuesOnly_unbind (p : LineNo) (j : Nat) : QueuesOnly s (s.unbind p j) := by
  cases h : s.job? j with
  | none =>
    rw [State.unbind_none p h]
    exact .refl s
  | some x =>
    intro q
    obtain ⟨a, b, hab⟩ := QueuesOnly.modLine s p (withoutJob j) (fun _ => ⟨_, _, rfl⟩) q
    exact ⟨a, b, (State.unbind_line h q).trans hab⟩

theorem queuesOnly_finished (x : Job) (j : Nat) : QueuesOnly s (s.finished x j) := by
  refine (queuesOnly_unqueue s j).trans (.same ?_)
  rw [State.finished, State.leaveQuota_lines]
  rfl

theorem queuesOnly_complete (j : Nat) : QueuesOnly s (s.complete j) := by
  cases h : s.job? j with
  | none =>
    unfold State.complete
    rw [h]
    exact .refl s
  | some x =>
    cases hr : x.retain with
    | true =>
      rw [State.complete_retained h hr]
      exact queuesOnly_finished s x j
    | false =>
      rw [State.complete_purged h hr]
      exact (queuesOnly_finished s x j).trans (.same (State.purge_lines _ j))

theorem queuesOnly_endLeaving (j : Nat) : QueuesOnly s (s.endLeaving j) := by
  unfold State.endLeaving
  split
  · exact .refl s
  · split
    · split
      · exact queuesOnly_complete s j
      · split
        · exact (queuesOnly_unbind s _ j).trans (queuesOnly_rechoose _ _)
        · exact .refl s
    · exact .refl s

theorem queuesOnly_markLeaving (x : Job) (j : Nat) (t : LeaveTarget) (r : Option HoldReason) :
    QueuesOnly s (s.markLeaving x j t r) := by
  unfold State.markLeaving
  split
  · exact (QueuesOnly.same rfl : QueuesOnly s _).trans (queuesOnly_rechoose _ _)
  · exact .same rfl

theorem queuesOnly_startLeaving (j : Nat) (t : LeaveTarget) (r : Option HoldReason) :
    QueuesOnly s (s.startLeaving j t r) := by
  cases h : s.job? j with
  | none =>
    unfold State.startLeaving
    rw [h]
    exact .refl s
  | some x =>
    rw [State.startLeaving_eq t r h]
    exact (queuesOnly_markLeaving s x j t r).trans (queuesOnly_endLeaving _ j)

theorem queuesOnly_moveJobOff (j : Nat) : QueuesOnly s (s.moveJobOff j) := by
  unfold State.moveJobOff
  split
  · exact .refl s
  · split
    · exact .refl s
    · split
      · exact queuesOnly_startLeaving s j _ _
      · split
        · exact .same rfl
        · exact .refl s

end

end Sys2Proof.Machine
end

-- O56: the stall expiry (R111) and the move delay expiry (R153).
section
namespace Sys2Proof.Machine

/-! ### The stall expiry -/

/-- The line whose stall timer has run out. -/
def stalledLine (l : Line) : Line := { l with stall := .stopped, stalled := true }

section
variable {s : State} {p : LineNo}

theorem State.stallExpiry_again (h : (s.line p).stalled = true) : s.stallExpiry p = s.modLine p stalledLine := if_pos h

theorem State.stallExpiry_first (h : (s.line p).stalled = false) :
    s.stallExpiry p = (s.modLine p stalledLine).openAlert .stall (.printer p)
      ⟨none, (s.line p).inflight.head?.map fun e => ⟨e.job, e.sheet, e.copy⟩, none, none⟩ :=
  if_neg (by rw [h]; exact Bool.false_ne_true)

theorem steady_stalled (s : State) (p : LineNo) : Steady s (s.modLine p stalledLine) :=
  .modLine s p stalledLine fun _ => ⟨rfl, rfl⟩

end

/-! ### The move of one job -/

/-- The run states of a job that a move takes off its printer. -/
def MovableRun (r : RunState) : Prop := r = .queued ∨ r = .feeding ∨ r = .draining

/-- A job that a move leaves as it is. -/
def Stays (x : Job) : Prop :=
  x.moveAllowed = false ∨ (¬MovableRun x.run ∧ ¬(x.run = .leaving ∧ x.leaveTarget = some .waiting))

theorem Stays.rerun {x y : Job} (h : Stays x) (k : Rerun x y) : Stays y := by
  obtain h | ⟨hrun, htarget⟩ := h
  · obtain ⟨r, rfl, -⟩ := k
    exact .inl h
  · have hunfed : isFeedable x.run = false := by
      rw [← Bool.not_eq_true, isFeedable_iff]
      exact fun hfed => hrun (hfed.imp id .inl)
    rw [k.unfed hunfed]
    exact .inr ⟨hrun, htarget⟩

theorem MovableRun.rerun {x y : Job} (h : MovableRun x.run) (k : Rerun x y) : MovableRun y.run := by
  obtain ⟨r, rfl, hr⟩ := k
  obtain rfl | ⟨-, hfed⟩ := hr
  · exact h
  · exact (isFeedable_iff.mp hfed).imp id .inl

theorem Rerun.rest {x y : Job} (h : Rerun x y) : y.moveAllowed = x.moveAllowed ∧ y.bound = x.bound ∧
    y.leaveTarget = x.leaveTarget ∧ y.excluded = x.excluded ∧ y.confirm = x.confirm ∧ y.copies = x.copies := by
  obtain ⟨r, rfl, -⟩ := h
  exact ⟨rfl, rfl, rfl, rfl, rfl, rfl⟩

section
variable {s : State} {j : Nat} {x : Job} (h : s.job? j = some x)
include h

theorem State.moveJobOff_stays (hs : Stays x) : s.moveJobOff j = s := by
  unfold State.moveJobOff
  simp only [h]
  obtain hbarred | ⟨hrun, htarget⟩ := hs
  · exact if_pos hbarred
  · rw [if_neg (show ¬(x.run = .queued ∨ x.run = .feeding ∨ x.run = .draining) from hrun), if_neg htarget]
    exact ite_self s

theorem State.moveJobOff_starts (ha : x.moveAllowed = true) (hrun : MovableRun x.run) :
    s.moveJobOff j = s.startLeaving j .waitingExclude none := by
  unfold State.moveJobOff
  simp only [h]
  exact (if_neg (by rw [ha]; exact Bool.noConfusion)).trans (if_pos hrun)

theorem State.moveJobOff_leaving (ha : x.moveAllowed = true) (hrun : x.run = .leaving)
    (ht : x.leaveTarget = some .waiting) : s.moveJobOff j = s.modJob j movedLeaving := by
  unfold State.moveJobOff
  simp only [h]
  refine (if_neg (by rw [ha]; exact Bool.noConfusion)).trans ((if_neg ?_).trans (if_pos ⟨hrun, ht⟩))
  rw [hrun]
  rintro (hc | hc | hc) <;> exact RunState.noConfusion hc

end

/-- Once a job stays, the moves of all others and of itself spare it. -/
theorem spared_stays {j : Nat} (l : List Nat) (s : State) {x : Job} (h : s.job? j = some x) (hs : Stays x) :
    Spared j s (l.foldl State.moveJobOff s) := by
  induction l generalizing s x with
  | nil => exact .refl j s
  | cons k l ih =>
    rw [List.foldl_cons]
    by_cases hk : j = k
    · subst hk
      rw [State.moveJobOff_stays h hs]
      exact ih s h hs
    · have hspared := spared_moveJobOff s hk
      obtain ⟨y, hy, hxy⟩ := hspared.job x h
      exact hspared.trans (ih _ hy (hs.rerun hxy))

/-! ### The moves of a queue -/

/-- The line whose move delay has stopped. -/
def undelayedLine (l : Line) : Line := { l with moveDelay := .stopped }

/-- The state after the moves of a queue, before the flush they may ask for. -/
def State.movedAll (s : State) (p : LineNo) : State :=
  (s.line p).queue.foldl State.moveJobOff (s.modLine p undelayedLine)

/-- The moves of a queue leave of a job what its own move leaves. -/
theorem State.movedAll_job {s : State} {p : LineNo} {j : Nat} {x : Job} (hj : j ∈ (s.line p).queue)
    (h : s.job? j = some x) : ∃ (u : State) (y : Job) (l : List Nat), QueuesOnly (s.modLine p undelayedLine) u ∧
      u.job? j = some y ∧ Rerun x y ∧ s.movedAll p = l.foldl State.moveJobOff (u.moveJobOff j) := by
  obtain ⟨l, m, hqueue, hnot⟩ := List.eq_append_cons_of_mem hj
  have hspared : Spared j (s.modLine p undelayedLine) (l.foldl State.moveJobOff (s.modLine p undelayedLine)) :=
    Spared.foldl l (fun k hk t => spared_moveJobOff t fun he : j = k => hnot (he ▸ hk)) _
  obtain ⟨y, hy, hxy⟩ := hspared.job x h
  refine ⟨_, y, m, .foldl queuesOnly_moveJobOff l _, hy, hxy, ?_⟩
  rw [State.movedAll, hqueue, List.foldl_append, List.foldl_cons]

section
variable {s : State} {p : LineNo}

theorem queuesOnly_movedAll (s : State) (p : LineNo) : QueuesOnly (s.modLine p undelayedLine) (s.movedAll p) :=
  .foldl queuesOnly_moveJobOff _ _

/-- The flush that the moves of a queue ask for. -/
def State.moveFlushes (s : State) (p : LineNo) : Prop :=
  ((s.movedAll p).line p).flushedDuringBlock = false ∧
    ((s.line p).queue.filter s.movable).any (s.movedAll p).hasEntries = true

theorem State.moveOff_flushes (h : s.moveFlushes p) : s.moveOff p = (s.movedAll p).requestFlush p .move := if_pos h

theorem State.moveOff_plain (h : ¬s.moveFlushes p) : s.moveOff p = s.movedAll p := if_neg h

theorem State.moveOff_job? (s : State) (p : LineNo) (j : Nat) : (s.moveOff p).job? j = (s.movedAll p).job? j := by
  by_cases h : s.moveFlushes p
  · rw [State.moveOff_flushes h, State.requestFlush_job?]
  · rw [State.moveOff_plain h]

theorem State.moveOff_waiting (s : State) (p : LineNo) : (s.moveOff p).waiting = (s.movedAll p).waiting := by
  by_cases h : s.moveFlushes p
  · rw [State.moveOff_flushes h, State.requestFlush_waiting]
  · rw [State.moveOff_plain h]

theorem State.movedAll_figure {α : Type} (figureOf : Line → α)
    (hf : ∀ l a b, figureOf { l with queue := a, feeding := b } = figureOf l) (s : State) (p : LineNo) :
    figureOf ((s.movedAll p).line p) = figureOf (undelayedLine (s.line p)) := by
  rw [(queuesOnly_movedAll s p).figure figureOf hf p, State.line_modLine_self]

theorem State.movedAll_hasEntries (s : State) (p : LineNo) (j : Nat) : (s.movedAll p).hasEntries j = s.hasEntries j := by
  rw [(queuesOnly_movedAll s p).hasEntries]
  exact State.hasEntries_congr (fun q => s.line_modLine_keeps Line.inflight p undelayedLine (fun _ => rfl) q) j

/-- A job stays after its own move when nothing is left of what moves it. -/
theorem moved_settled {u : State} {j : Nat} {y : Job} (l : List Nat) (h : (u.moveJobOff j).job? j = some y) (hs : Stays y) :
    ∃ z, (l.foldl State.moveJobOff (u.moveJobOff j)).job? j = some z ∧ Rerun y z ∧
      (j ∈ (u.moveJobOff j).waiting → j ∈ (l.foldl State.moveJobOff (u.moveJobOff j)).waiting) := by
  have hspared := spared_stays l (u.moveJobOff j) h hs
  obtain ⟨z, hz, hyz⟩ := hspared.job y h
  exact ⟨z, hz, hyz, hspared.waiting⟩

variable {j : Nat} {x : Job} (hj : j ∈ (s.line p).queue) (h : s.job? j = some x)
include hj h

theorem moveOff_barred (ha : x.moveAllowed = false) : ∃ y, (s.moveOff p).job? j = some y ∧ Rerun x y := by
  obtain ⟨u, y, l, -, hy, hxy, hmoved⟩ := State.movedAll_job hj h
  have hstays : Stays y := .inl (hxy.rest.1.trans ha)
  obtain ⟨z, hz, hyz, -⟩ := moved_settled l ((State.moveJobOff_stays hy hstays).symm ▸ hy) hstays
  exact ⟨z, by rw [State.moveOff_job?, hmoved, hz], hxy.trans hyz⟩

theorem moveOff_entries (ha : x.moveAllowed = true) (hrun : MovableRun x.run) (he : s.hasEntries j = true) :
    ∃ y, (s.moveOff p).job? j = some y ∧ y.run = .leaving ∧ y.leaveTarget = some .waitingExclude ∧ y.bound = x.bound := by
  obtain ⟨u, y, l, hu, hy, hxy, hmoved⟩ := State.movedAll_job hj h
  obtain ⟨hallowed, hbound, -⟩ := hxy.rest
  have hentries : u.hasEntries j = true := by
    rw [hu.hasEntries, ← he]
    exact State.hasEntries_congr (fun q => s.line_modLine_keeps Line.inflight p undelayedLine (fun _ => rfl) q) j
  have hleft : (u.moveJobOff j).job? j = some (leavingJob .waitingExclude none y) := by
    rw [State.moveJobOff_starts hy (hallowed.trans ha) (hrun.rerun hxy), State.startLeaving_entries _ _ hy hentries,
      State.markLeaving_job? _ _ hy]
  have hstays : Stays (leavingJob .waitingExclude none y) :=
    .inr ⟨by rintro (hc | hc | hc) <;> exact RunState.noConfusion hc, fun hc => by cases hc.2⟩
  obtain ⟨z, hz, hyz, -⟩ := moved_settled l hleft hstays
  refine ⟨z, by rw [State.moveOff_job?, hmoved, hz], ?_⟩
  rw [hyz.unfed rfl]
  exact ⟨rfl, rfl, hbound⟩

theorem moveOff_leaves {q : LineNo} (ha : x.moveAllowed = true) (hrun : MovableRun x.run) (he : s.hasEntries j = false)
    (hend : atEnd x x.confirm = false) (hb : x.bound = some q) : j ∈ (s.moveOff p).waiting ∧
      ∃ y, (s.moveOff p).job? j = some y ∧ y.run = .waiting ∧ y.excluded = some q ∧ y.bound = none := by
  obtain ⟨u, y, l, hu, hy, hxy, hmoved⟩ := State.movedAll_job hj h
  obtain ⟨hallowed, hbound, -, -, hconfirm, hcopies⟩ := hxy.rest
  have hentries : u.hasEntries j = false := by
    rw [hu.hasEntries, ← he]
    exact State.hasEntries_congr (fun q => s.line_modLine_keeps Line.inflight p undelayedLine (fun _ => rfl) q) j
  have hmark := State.markLeaving_job? .waitingExclude none hy
  have hleave := State.moveJobOff_starts hy (hallowed.trans ha) (hrun.rerun hxy)
  have hyend : atEnd y y.confirm = false := by
    unfold atEnd at hend ⊢
    rw [hconfirm, hcopies, hend]
  rw [State.startLeaving_bound _ _ hy hentries hyend (hbound.trans hb)] at hleave
  have hrecord : unboundRecord q (leavingJob .waitingExclude none y) =
      waitingJob { unboundJob (leavingJob .waitingExclude none y) with excluded := some q } :=
    (if_neg fun hc => by cases hc.2).trans (if_pos ⟨rfl, rfl⟩)
  have hleft : (u.moveJobOff j).job? j =
      some (waitingJob { unboundJob (leavingJob .waitingExclude none y) with excluded := some q }) := by
    rw [hleave, (State.leave_job? hmark).2, State.unbind_job?, if_pos rfl, hmark, Option.map_some, hrecord]
  have hwaits : j ∈ (u.moveJobOff j).waiting := by
    rw [hleave, State.rechoose_waiting]
    exact ((u.markLeaving y j .waitingExclude none).unbind_waitingList q j).2 _ hmark fun hc => by cases hc.2
  have hwaiting := waitingJob_run { unboundJob (leavingJob .waitingExclude none y) with excluded := some q }
  have hstays : Stays (waitingJob { unboundJob (leavingJob .waitingExclude none y) with excluded := some q }) := by
    refine .inr ⟨?_, ?_⟩ <;> rw [hwaiting]
    · rintro (hc | hc | hc) <;> exact RunState.noConfusion hc
    · exact fun hc => RunState.noConfusion hc.1
  obtain ⟨z, hz, hyz, hstill⟩ := moved_settled l hleft hstays
  refine ⟨by rw [State.moveOff_waiting, hmoved]; exact hstill hwaits, z, by rw [State.moveOff_job?, hmoved, hz], ?_⟩
  rw [hyz.unfed (by rw [hwaiting]; rfl)]
  refine ⟨hwaiting, ?_, ?_⟩ <;> (unfold waitingJob splitRule; split <;> rfl)

theorem moveOff_leaving (ha : x.moveAllowed = true) (hrun : x.run = .leaving) :
    ∃ y, (s.moveOff p).job? j = some y ∧ y.run = .leaving ∧ y.bound = x.bound ∧
      y.leaveTarget = if x.leaveTarget = some .waiting then some .waitingExclude else x.leaveTarget := by
  obtain ⟨u, y, l, -, hy, hxy, hmoved⟩ := State.movedAll_job hj h
  rw [hxy.unfed (by rw [hrun]; rfl)] at hy
  have hnot : ¬MovableRun x.run := by
    rw [hrun]
    rintro (hc | hc | hc) <;> exact RunState.noConfusion hc
  by_cases ht : x.leaveTarget = some .waiting
  · have hleft : (u.moveJobOff j).job? j = some (movedLeaving x) := by
      rw [State.moveJobOff_leaving hy ha hrun ht]
      exact u.job_modJob_self j movedLeaving x hy fun _ => rfl
    obtain ⟨z, hz, hyz, -⟩ := moved_settled l hleft (.inr ⟨hnot, fun hc => by cases hc.2⟩)
    refine ⟨z, by rw [State.moveOff_job?, hmoved, hz], ?_⟩
    rw [hyz.unfed (show isFeedable x.run = false by rw [hrun]; rfl), if_pos ht]
    exact ⟨hrun, rfl, rfl⟩
  · have hstays : Stays x := .inr ⟨hnot, fun hc => ht hc.2⟩
    obtain ⟨z, hz, hyz, -⟩ := moved_settled l ((State.moveJobOff_stays hy hstays).symm ▸ hy) hstays
    refine ⟨z, by rw [State.moveOff_job?, hmoved, hz], ?_⟩
    rw [hyz.unfed (by rw [hrun]; rfl), if_neg ht]
    exact ⟨hrun, rfl, rfl⟩

/-- The moves ask for a flush when one of the moved jobs has entries and none was flushed during the block. -/
theorem moveOff_flush (ha : x.moveAllowed = true) (hrun : MovableRun x.run) (he : s.hasEntries j = true)
    (hstate : (s.line p).state = .blocked) (hflushed : (s.line p).flushedDuringBlock = false) :
    ((s.moveOff p).line p).flush.move = true := by
  have hmovable : s.movable j = true := by
    unfold State.movable
    simp only [h, ha, Bool.true_and, Bool.or_eq_true, decide_eq_true_eq, or_assoc]
    exact hrun
  have hflushes : s.moveFlushes p := by
    refine ⟨?_, List.any_eq_true.mpr ⟨j, List.mem_filter.mpr ⟨hj, hmovable⟩, ?_⟩⟩
    · exact (State.movedAll_figure Line.flushedDuringBlock (fun _ _ _ => rfl) s p).trans hflushed
    · rw [State.movedAll_hasEntries, he]
  have hline : ((s.movedAll p).line p).state = .blocked :=
    (State.movedAll_figure Line.state (fun _ _ _ => rfl) s p).trans hstate
  have hflushable : Flushable ((s.movedAll p).line p) := by
    unfold Flushable
    rw [hline]
    decide
  rw [State.moveOff_flushes hflushes]
  cases hpending : flushPending ((s.movedAll p).line p).flush with
  | true =>
    rw [State.requestFlush_join .move hflushable hpending, State.line_modLine_self]
    rfl
  | false =>
    rw [State.requestFlush_start .move hflushable hpending, State.line_modLine_self]
    rfl

end

/-- Settles O56. -/
theorem stallAndMoveDelay : Obligations.StallAndMoveDelay := by
  refine ⟨fun s p hdue hw => ⟨fun h => ?_, fun h => ?_⟩, fun s p hdue => congrArg _ (expiry_due hdue), fun s p =>
    ⟨?_, ?_, fun j hj x hx => ⟨fun ha => ?_, fun ha hrun => ⟨fun he => ?_, fun q he hend hb => ?_⟩, fun ha hrun => ?_,
      fun ha hrun he hstate hflushed => ?_⟩, fun hflushed => ?_⟩⟩
  · exact congrArg _ ((expiry_due hdue).trans
      ((congrArg (settleEvent s) (State.stallExpiry_again h)).trans ((steady_stalled s p).settled hw)))
  · have hsteady := (steady_stalled s p).trans (steady_openAlert _ .stall (.printer p)
      ⟨none, (s.line p).inflight.head?.map fun e => ⟨e.job, e.sheet, e.copy⟩, none, none⟩)
    refine congrArg _ ((expiry_due hdue).trans ((congrArg (settleEvent s) (State.stallExpiry_first h)).trans
      (hsteady.settled ?_)))
    rw [State.openAlert_signals]
    exact hw
  · have hsteady := (steady_moveOff s p).lines p
    rw [State.line_modLine_self] at hsteady
    exact hsteady.2
  · have hsteady := (steady_moveOff s p).lines p
    rw [State.line_modLine_self] at hsteady
    exact hsteady.1
  · obtain ⟨y, hy, hxy⟩ := moveOff_barred hj hx ha
    obtain ⟨-, hbound, htarget, hexcluded, -⟩ := hxy.rest
    exact ⟨y, hy, hbound, htarget, hexcluded⟩
  · exact moveOff_entries hj hx ha hrun he
  · exact moveOff_leaves hj hx ha hrun he hend hb
  · exact moveOff_leaving hj hx ha hrun
  · exact moveOff_flush hj hx ha hrun he hstate hflushed
  · have hno : ¬s.moveFlushes p := fun hc => by
      have hkept : ((s.movedAll p).line p).flushedDuringBlock = (s.line p).flushedDuringBlock :=
        State.movedAll_figure Line.flushedDuringBlock (fun _ _ _ => rfl) s p
      rw [State.moveFlushes, hkept, hflushed] at hc
      exact absurd hc.1 Bool.noConfusion
    rw [State.moveOff_plain hno]
    exact State.movedAll_figure Line.flush (fun _ _ _ => rfl) s p

end Sys2Proof.Machine
end

-- The quota retry (R133, R134).
section
namespace Sys2Proof.Machine

/-! ### The accounts whose available amount has risen -/

/-- The rise of an available amount. -/
def Risen (before s : State) (a : AccountNo) : Prop := available (before.account a) < available (s.account a)

theorem risenAccounts_cons (a b : Account) (as bs : List Account) (n : Nat) : risenAccounts (a :: as) (b :: bs) n =
    if available a < available b then Fin.ofNat 256 n :: risenAccounts as bs (n + 1)
    else risenAccounts as bs (n + 1) := rfl

theorem mem_risenAccounts {as bs : List Account} {n : Nat} (hlen : as.length = bs.length) (hn : n + as.length ≤ 256)
    {c : AccountNo} : c ∈ risenAccounts as bs n ↔ ∃ i a b, as[i]? = some a ∧ bs[i]? = some b ∧ c.val = n + i ∧
      available a < available b := by
  induction as generalizing bs n with
  | nil => simp [risenAccounts]
  | cons a as ih =>
    cases bs with
    | nil => simp at hlen
    | cons b bs =>
      simp only [List.length_cons] at hlen hn
      have hrest := ih (bs := bs) (n := n + 1) (by omega) (by omega)
      have hval : (Fin.ofNat 256 n : AccountNo).val = n := Nat.mod_eq_of_lt (by omega)
      have hshift : (∃ i a' b', (a :: as)[i]? = some a' ∧ (b :: bs)[i]? = some b' ∧ c.val = n + i ∧
          available a' < available b') ↔ (c.val = n ∧ available a < available b) ∨
            ∃ i a' b', as[i]? = some a' ∧ bs[i]? = some b' ∧ c.val = n + 1 + i ∧ available a' < available b' := by
        constructor
        · rintro ⟨i, a', b', ha, hb, hc, hlt⟩
          cases i with
          | zero =>
            obtain rfl : a = a' := by simpa using ha
            obtain rfl : b = b' := by simpa using hb
            exact .inl ⟨hc, hlt⟩
          | succ i => exact .inr ⟨i, a', b', by simpa using ha, by simpa using hb, by omega, hlt⟩
        · rintro (⟨hc, hlt⟩ | ⟨i, a', b', ha, hb, hc, hlt⟩)
          · exact ⟨0, a, b, rfl, rfl, hc, hlt⟩
          · exact ⟨i + 1, a', b', by simpa using ha, by simpa using hb, by omega, hlt⟩
      rw [hshift, ← hrest, risenAccounts_cons]
      split
      · rename_i hlt
        rw [List.mem_cons, Fin.ext_iff, hval]
        simp [hlt]
      · rename_i hnot
        simp [hnot]

theorem risenAccounts_ge {as bs : List Account} {n : Nat} (hlen : as.length = bs.length) (hn : n + as.length ≤ 256)
    {c : AccountNo} (h : c ∈ risenAccounts as bs n) : n ≤ c.val := by
  obtain ⟨i, -, -, -, -, hc, -⟩ := (mem_risenAccounts hlen hn).mp h
  omega

theorem risenAccounts_nodup {as bs : List Account} {n : Nat} (hlen : as.length = bs.length) (hn : n + as.length ≤ 256) :
    (risenAccounts as bs n).Nodup := by
  induction as generalizing bs n with
  | nil => simp [risenAccounts]
  | cons a as ih =>
    cases bs with
    | nil => simp at hlen
    | cons b bs =>
      simp only [List.length_cons] at hlen hn
      have hrest := ih (bs := bs) (n := n + 1) (by omega) (by omega)
      have hval : (Fin.ofNat 256 n : AccountNo).val = n := Nat.mod_eq_of_lt (by omega)
      rw [risenAccounts_cons]
      split
      · refine List.nodup_cons.mpr ⟨fun hmem => ?_, hrest⟩
        have hge := risenAccounts_ge (by omega) (by omega) hmem
        omega
      · exact hrest

/-- The accounts whose available amount has risen over an event, ascending. -/
def State.risen (before s : State) : List AccountNo := risenAccounts before.accounts.toList s.accounts.toList 0

theorem mem_risen (before s : State) (a : AccountNo) : a ∈ State.risen before s ↔ Risen before s a := by
  have hat (t : State) (i : Nat) (x : Account) : t.accounts.toList[i]? = some x ↔
      ∃ hi : i < 256, t.account ⟨i, hi⟩ = x := by
    rw [List.getElem?_eq_some_iff]
    constructor
    · rintro ⟨hi, hx⟩
      have hlt : i < 256 := by simpa using hi
      exact ⟨hlt, by rw [← hx, Vector.getElem_toList]; rfl⟩
    · rintro ⟨hi, hx⟩
      exact ⟨by simpa using hi, by rw [Vector.getElem_toList, ← hx]; rfl⟩
  rw [State.risen, mem_risenAccounts (by simp) (by simp)]
  constructor
  · rintro ⟨i, x, y, hx, hy, hc, hlt⟩
    obtain ⟨hi, rfl⟩ := (hat before i x).mp hx
    obtain ⟨hi', rfl⟩ := (hat s i y).mp hy
    have ha : a = ⟨i, hi⟩ := Fin.ext (hc.trans (Nat.zero_add i))
    rw [ha]
    exact hlt
  · exact fun h => ⟨a.val, _, _, (hat before a.val _).mpr ⟨a.isLt, rfl⟩, (hat s a.val _).mpr ⟨a.isLt, rfl⟩, by omega, h⟩

theorem risen_nodup (before s : State) : (State.risen before s).Nodup := risenAccounts_nodup (by simp) (by simp)

/-! ### The retry of one job -/

/-- The record of a job that waited for quota and is tried again. -/
def retriedJob (x : Job) : Job :=
  if x.run = .held then waitingJob x
  else if x.run = .leaving then { x with leaveTarget := some .waiting, holdReason := none }
  else x

theorem retriedJob_number (x : Job) : (retriedJob x).number = x.number := by
  unfold retriedJob
  split
  · exact waitingJob_number x
  · split <;> rfl

theorem retriedJob_priority (x : Job) : (retriedJob x).priority = x.priority := by
  unfold retriedJob
  split
  · unfold waitingJob splitRule
    split <;> rfl
  · split <;> rfl

/-- The target of a LEAVING job that is tried again. -/
def retriedLeaving (x : Job) : Job := { x with leaveTarget := some .waiting, holdReason := none }

section
variable (s : State) (j k : Nat)

theorem State.retryJob_job? : (s.retryJob j).job? k = if k = j then (s.job? k).map retriedJob else s.job? k := by
  cases h : s.job? j with
  | none =>
    have hretry : s.retryJob j = s := by
      unfold State.retryJob
      simp only [h]
    rw [hretry]
    split
    · rename_i hk
      rw [hk, h]
      rfl
    · rfl
  | some x =>
    by_cases hheld : x.run = .held
    · have hretry : s.retryJob j = s.enterWaiting j := by
        unfold State.retryJob
        simp only [h]
        exact if_pos hheld
      rw [hretry, State.enterWaiting_job?]
      split
      · rename_i hk
        rw [hk, h, Option.map_some, Option.map_some, retriedJob, if_pos hheld]
      · rfl
    · by_cases hleaving : x.run = .leaving
      · have hretry : s.retryJob j = s.modJob j retriedLeaving := by
          unfold State.retryJob
          simp only [h]
          exact (if_neg hheld).trans (if_pos hleaving)
        rw [hretry, s.job?_modJob j k retriedLeaving fun _ => rfl]
        split
        · rename_i hk
          rw [hk, h, Option.map_some, Option.map_some, retriedJob, if_neg hheld, if_pos hleaving]
          rfl
        · rfl
      · have hretry : s.retryJob j = s := by
          unfold State.retryJob
          simp only [h]
          exact (if_neg hheld).trans (if_neg hleaving)
        rw [hretry]
        split
        · rename_i hk
          rw [hk, h, Option.map_some, retriedJob, if_neg hheld, if_neg hleaving]
        · rfl

theorem State.retryJob_held (h : s.runIs j (fun r => decide (r = .held)) = true) : s.retryJob j = s.enterWaiting j := by
  unfold State.runIs at h
  unfold State.retryJob
  split
  · rename_i x hx
    simp only [hx, decide_eq_true_eq] at h
    exact if_pos h
  · rename_i hx
    simp [hx] at h

theorem State.retryJob_waiting_other (h : s.runIs j (fun r => decide (r = .held)) = false) :
    (s.retryJob j).waiting = s.waiting ∧ (s.retryJob j).passesWanted = s.passesWanted := by
  unfold State.runIs at h
  unfold State.retryJob
  split
  · rename_i x hx
    simp only [hx, decide_eq_false_iff_not] at h
    rw [if_neg h]
    split <;> exact ⟨rfl, rfl⟩
  · exact ⟨rfl, rfl⟩

theorem State.retryJob_lists : ListsOnly s (s.retryJob j) := by
  unfold State.retryJob
  split
  · split
    · exact .enterWaiting s j
    · split
      · exact .modJob s j _
      · exact .refl s
  · exact .refl s

theorem State.retryJob_lines : (s.retryJob j).lines = s.lines := by
  unfold State.retryJob
  split
  · split
    · rfl
    · split <;> rfl
  · rfl

theorem State.priorityOf_congr {s t : State} (h : ∀ k, (t.job? k).map Job.priority = (s.job? k).map Job.priority) :
    t.priorityOf = s.priorityOf := by
  funext k
  have hpriority (u : State) : u.priorityOf k = ((u.job? k).map Job.priority).getD 0 := by
    unfold State.priorityOf
    cases u.job? k <;> rfl
  rw [hpriority, hpriority, h]

theorem waitingJob_priority (x : Job) : (waitingJob x).priority = x.priority := by
  unfold waitingJob splitRule
  split <;> rfl

theorem State.enterWaiting_waiting : (s.enterWaiting j).waiting =
    insertWaiting s.priorityOf j (s.priorityOf j) s.waiting := by
  have hprior : (s.modJob j waitingJob).priorityOf = s.priorityOf := State.priorityOf_congr fun k => by
    rw [s.job?_modJob j k waitingJob waitingJob_number]
    split
    · rw [Option.map_map]
      exact congrArg (fun g => Option.map g (s.job? k)) (funext waitingJob_priority)
    · rfl
  rw [← hprior]
  rfl

theorem State.retryJob_priorityOf : (s.retryJob j).priorityOf = s.priorityOf := State.priorityOf_congr fun k => by
  rw [State.retryJob_job?]
  split
  · rw [Option.map_map]
    exact congrArg (fun g => Option.map g (s.job? k)) (funext retriedJob_priority)
  · rfl

end

/-! ### The retry of an account -/

/-- A waiting list that some jobs enter one after the other. -/
def enteredWaiting (prio : Nat → Nat) (l w : List Nat) : List Nat :=
  l.foldl (fun w j => insertWaiting prio j (prio j) w) w

/-- The jobs of a list that are HELD. -/
def State.heldOf (s : State) (l : List Nat) : List Nat := l.filter fun j => s.runIs j fun r => decide (r = .held)

section
variable (s : State)

theorem State.retryJob_heldOf {j : Nat} {l : List Nat} (hj : j ∉ l) : (s.retryJob j).heldOf l = s.heldOf l := by
  refine List.filter_congr fun k hk => ?_
  have hkj : k ≠ j := fun he => hj (he ▸ hk)
  unfold State.runIs
  rw [State.retryJob_job?, if_neg hkj]

theorem State.retryJobs_waiting {l : List Nat} (hl : l.Nodup) :
    (l.foldl State.retryJob s).waiting = enteredWaiting s.priorityOf (s.heldOf l) s.waiting ∧
      (l.foldl State.retryJob s).passesWanted = s.passesWanted + (s.heldOf l).length := by
  induction l generalizing s with
  | nil => exact ⟨rfl, rfl⟩
  | cons j l ih =>
    obtain ⟨hj, hl⟩ := List.nodup_cons.mp hl
    obtain ⟨hwaiting, hpasses⟩ := ih (s.retryJob j) hl
    rw [State.retryJob_priorityOf, State.retryJob_heldOf s hj] at hwaiting
    rw [State.retryJob_heldOf s hj] at hpasses
    rw [List.foldl_cons, hwaiting, hpasses]
    cases h : s.runIs j (fun r => decide (r = .held)) with
    | true =>
      have hcons : s.heldOf (j :: l) = j :: s.heldOf l := List.filter_cons_of_pos h
      rw [hcons, State.retryJob_held s j h, State.enterWaiting_waiting, List.length_cons]
      refine ⟨rfl, ?_⟩
      show s.passesWanted + 1 + _ = _
      omega
    | false =>
      have hcons : s.heldOf (j :: l) = s.heldOf l := List.filter_cons_of_neg (by rw [h]; exact Bool.false_ne_true)
      obtain ⟨hw, hp⟩ := s.retryJob_waiting_other j h
      rw [hcons, hw, hp]
      exact ⟨rfl, rfl⟩

theorem State.retryJobs_job? {l : List Nat} (hl : l.Nodup) (k : Nat) :
    (l.foldl State.retryJob s).job? k = if k ∈ l then (s.job? k).map retriedJob else s.job? k := by
  induction l generalizing s with
  | nil => rfl
  | cons j l ih =>
    obtain ⟨hj, hl⟩ := List.nodup_cons.mp hl
    rw [List.foldl_cons, ih _ hl, State.retryJob_job?]
    by_cases hk : k = j
    · subst hk
      simp [hj]
    · simp [hk]

theorem State.retryJobs_lists (l : List Nat) : ListsOnly s (l.foldl State.retryJob s) := by
  induction l generalizing s with
  | nil => exact .refl s
  | cons j l ih => exact (s.retryJob_lists j).trans (ih _)

theorem State.retryJobs_lines (l : List Nat) : (l.foldl State.retryJob s).lines = s.lines := by
  induction l generalizing s with
  | nil => rfl
  | cons j l ih => exact (ih _).trans (s.retryJob_lines j)

/-- An account whose quota list has been taken. -/
def unheldAccount (a : Account) : Account := { a with quotaHeld := [] }

theorem State.quotaRetry_empty {s : State} {a : AccountNo} (h : (s.account a).quotaHeld = []) : s.quotaRetry a = s := by
  unfold State.quotaRetry
  rw [h]

theorem State.quotaRetry_some {s : State} {a : AccountNo} (h : (s.account a).quotaHeld ≠ []) : s.quotaRetry a =
    (((s.account a).quotaHeld.foldl State.retryJob s).modAccount a unheldAccount).clearAlert .quotaHold (.account a) := by
  unfold State.quotaRetry
  cases hq : (s.account a).quotaHeld with
  | nil => exact absurd hq h
  | cons j l => rfl

theorem State.quotaRetry_lines (a : AccountNo) : (s.quotaRetry a).lines = s.lines := by
  by_cases h : (s.account a).quotaHeld = []
  · rw [State.quotaRetry_empty h]
  · rw [State.quotaRetry_some h, State.clearAlert_signals]
    exact s.retryJobs_lines _

theorem State.quotaRetry_account (a b : AccountNo) :
    (s.quotaRetry a).account b = if b = a then unheldAccount (s.account b) else s.account b := by
  by_cases h : (s.account a).quotaHeld = []
  · rw [State.quotaRetry_empty h]
    split
    · rename_i hb
      rw [hb, unheldAccount, ← h]
    · rfl
  · have hlists := (s.retryJobs_lists (s.account a).quotaHeld).accounts
    rw [State.quotaRetry_some h, State.clearAlert_signals, State.signalsOf_account]
    split
    · rename_i hb
      rw [hb, State.account_modAccount_self, State.account_congr hlists]
    · rename_i hb
      rw [State.account_modAccount_ne _ _ hb, State.account_congr hlists]

/-- The retries of some accounts. -/
theorem State.quotaRetryList_account (l : List AccountNo) (b : AccountNo) : (l.foldl State.quotaRetry s).account b =
    if b ∈ l then unheldAccount (s.account b) else s.account b := by
  induction l generalizing s with
  | nil => rfl
  | cons a l ih =>
    rw [List.foldl_cons, ih, State.quotaRetry_account]
    by_cases hb : b = a
    · subst hb
      by_cases hl : b ∈ l <;> simp [hl, unheldAccount]
    · simp [hb]

theorem State.quotaRetryList_lines (l : List AccountNo) : (l.foldl State.quotaRetry s).lines = s.lines := by
  induction l generalizing s with
  | nil => rfl
  | cons a l ih => exact (ih _).trans (s.quotaRetry_lines a)

theorem State.quotaRetryList_empty (l : List AccountNo) (h : ∀ a ∈ l, (s.account a).quotaHeld = []) :
    l.foldl State.quotaRetry s = s := by
  induction l with
  | nil => rfl
  | cons a l ih =>
    rw [List.forall_mem_cons] at h
    rw [List.foldl_cons, State.quotaRetry_empty h.1, ih h.2]

end

section
variable (before s : State)

theorem State.quotaRetries_eq : State.quotaRetries before s = (State.risen before s).foldl State.quotaRetry s := rfl

theorem State.quotaRetries_lines : (State.quotaRetries before s).lines = s.lines := State.quotaRetryList_lines s _

theorem State.quotaRetries_quotaHeld (a : AccountNo) : ((State.quotaRetries before s).account a).quotaHeld =
    if available (before.account a) < available (s.account a) then [] else (s.account a).quotaHeld := by
  rw [State.quotaRetries_eq, State.quotaRetryList_account]
  have hmem := mem_risen before s a
  unfold Risen at hmem
  simp only [hmem]
  split <;> rfl

theorem State.quotaRetries_empty (h : ∀ a, available (before.account a) < available (s.account a) →
    (s.account a).quotaHeld = []) : State.quotaRetries before s = s :=
  s.quotaRetryList_empty _ fun a ha => h a ((mem_risen before s a).mp ha)

theorem State.quotaRetries_one (a : AccountNo)
    (h : ∀ b, available (before.account b) < available (s.account b) ↔ b = a) :
    State.quotaRetries before s = s.quotaRetry a := by
  have hmem (b : AccountNo) : b ∈ State.risen before s ↔ b = a := (mem_risen before s b).trans (h b)
  have hone : State.risen before s = [a] := by
    have hperm : (State.risen before s).Perm [a] := by
      rw [List.perm_ext_iff_of_nodup (risen_nodup before s) (List.pairwise_singleton _ a)]
      simpa using hmem
    exact List.perm_singleton.mp hperm
  rw [State.quotaRetries_eq, hone]
  rfl

end

/-- What the retry of an account leaves of the alert relay: that of the cleared alert. -/
theorem State.quotaRetry_signals {s : State} {a : AccountNo} (h : (s.account a).quotaHeld ≠ []) : s.quotaRetry a =
    (((s.account a).quotaHeld.foldl State.retryJob s).modAccount a unheldAccount).signalsOf
      (s.clearAlert .quotaHold (.account a)) := by
  have hrelay : SameRelay s (((s.account a).quotaHeld.foldl State.retryJob s).modAccount a unheldAccount) := by
    have hlists := s.retryJobs_lists (s.account a).quotaHeld
    generalize (s.account a).quotaHeld.foldl State.retryJob s = t at hlists
    unfold ListsOnly at hlists
    rw [hlists]
    rfl
  rw [State.quotaRetry_some h, hrelay.clearAlert]

end Sys2Proof.Machine
end

-- O57: the start of a sheet and the quota failure (R51, R52, R110, R124, R131).
section
namespace Sys2Proof.Machine

/-! ### When a sheet can start -/

theorem State.startable_iff (s : State) (p : LineNo) (x : Job) (h : Sheet) : s.startable p = some (x, h) ↔
    ((s.line p).state = .ready ∧ flushPending (s.line p).flush = false ∧ s.inTransmission p = none ∧
      (s.line p).inflight.length < (s.rosterOf p).maxInFlight ∧
      ∃ j, (s.line p).feeding = some j ∧ s.job? j = some x ∧ namedSheet x x.dispatch = some h) := by
  unfold State.startable
  constructor
  · intro hs
    dsimp only at hs
    split at hs
    · rename_i hmay
      obtain ⟨hstate, hflush, hnone, hlen⟩ := hmay
      refine ⟨hstate, hflush, Option.isNone_iff_eq_none.mp hnone, hlen, ?_⟩
      split at hs
      · exact absurd hs (Option.some_ne_none _).symm
      · rename_i j hj
        split at hs
        · exact absurd hs (Option.some_ne_none _).symm
        · rename_i y hy
          obtain ⟨g, hg, hpair⟩ := Option.map_eq_some_iff.mp hs
          obtain ⟨rfl, rfl⟩ := Prod.mk.inj hpair
          exact ⟨j, hj, hy, hg⟩
    · exact absurd hs (Option.some_ne_none _).symm
  · rintro ⟨hstate, hflush, hnone, hlen, j, hj, hx, hg⟩
    simp only [hstate, hflush, hnone, hlen, hj, hx, hg]
    rfl

theorem namedSheet_copy {x : Job} {c : Cursor} {h : Sheet} (hn : namedSheet x c = some h) : c.copy < x.copies := by
  unfold namedSheet at hn
  split at hn
  · rename_i hc
    exact hc.1
  · exact absurd hn (Option.some_ne_none _).symm

/-- The job of a sheet that can start. -/
theorem startable_job {s : State} {p : LineNo} {x : Job} {h : Sheet} (hs : s.startable p = some (x, h)) :
    s.job? x.number = some x ∧ x.dispatch.copy < x.copies := by
  obtain ⟨-, -, -, -, j, -, hx, hg⟩ := (s.startable_iff p x h).mp hs
  refine ⟨?_, namedSheet_copy hg⟩
  rw [job_number hx]
  exact hx

section
variable {s : State} {p : LineNo} {x : Job} {h : Sheet}

theorem sheetStart_none (hs : s.startable p = none) : s.sheetStart p = s := by
  unfold State.sheetStart
  rw [hs]

theorem sheetStart_fits (hs : s.startable p = some (x, h)) (hfits : (s.account x.account).chargedCost +
    (s.account x.account).reservedCost + s.sheetCost p x.account h ≤ ceiling (s.account x.account)) :
    s.sheetStart p = settleEvent s (s.startSheet p x h (s.sheetCost p x.account h)) := by
  unfold State.sheetStart
  rw [hs]
  exact congrArg (settleEvent s) (if_pos (decide_eq_true hfits))

theorem sheetStart_fails (hs : s.startable p = some (x, h)) (hover : ceiling (s.account x.account) <
    (s.account x.account).chargedCost + (s.account x.account).reservedCost + s.sheetCost p x.account h) :
    s.sheetStart p = settleEvent s (s.quotaFailure x) := by
  unfold State.sheetStart
  rw [hs]
  refine congrArg (settleEvent s) (if_neg ?_)
  rw [fits, decide_eq_true_eq]
  exact Nat.not_le.mpr hover

end

/-! ### A start -/

/-- The job whose sheet has started. -/
def startedJob (c : Cursor) (x : Job) : Job := { x with dispatch := c }

/-- The state with a sheet started, before its job may drain. -/
def State.started (s : State) (p : LineNo) (x : Job) (h : Sheet) (cost : Nat) : State :=
  ((s.modAccount x.account (reserve cost h.sides)).modLine p (startLine s.settings x h cost)).modJob x.number
    (startedJob (advance x x.dispatch))

section
variable {s : State} {p : LineNo} {x : Job} {h : Sheet} {cost : Nat}

theorem startSheet_atEnd (hend : atEnd x (advance x x.dispatch) = true) :
    s.startSheet p x h cost = ((s.started p x h cost).modJob x.number drainingJob).rechoose p := if_pos hend

theorem startSheet_goesOn (hend : atEnd x (advance x x.dispatch) = false) :
    s.startSheet p x h cost = s.started p x h cost := if_neg (by rw [hend]; exact Bool.false_ne_true)

/-- A start leaves of the rest what its first steps leave. -/
theorem startSheet_queues (s : State) (p : LineNo) (x : Job) (h : Sheet) (cost : Nat) :
    QueuesOnly (s.started p x h cost) (s.startSheet p x h cost) ∧
      (s.startSheet p x h cost).accounts = (s.started p x h cost).accounts ∧
      (s.startSheet p x h cost).meters = s.meters ∧
      ∀ q, q ≠ p → (s.startSheet p x h cost).line q = s.line q := by
  have hline (q : LineNo) (hq : q ≠ p) : (s.started p x h cost).line q = s.line q :=
    State.line_modLine_ne _ _ hq
  cases hend : atEnd x (advance x x.dispatch) with
  | true =>
    rw [startSheet_atEnd hend]
    refine ⟨(QueuesOnly.same rfl : QueuesOnly _ ((s.started p x h cost).modJob x.number drainingJob)).trans
      (queuesOnly_rechoose _ p), rfl, rfl, fun q hq => ?_⟩
    rw [State.rechoose_line_ne _ p hq]
    exact hline q hq
  | false =>
    rw [startSheet_goesOn hend]
    exact ⟨.refl _, rfl, rfl, hline⟩

theorem startSheet_line {α : Type} (figureOf : Line → α)
    (hf : ∀ l a b, figureOf { l with queue := a, feeding := b } = figureOf l) :
    figureOf ((s.startSheet p x h cost).line p) = figureOf (startLine s.settings x h cost (s.line p)) := by
  rw [(startSheet_queues s p x h cost).1.figure figureOf hf p]
  exact congrArg figureOf (State.line_modLine_self _ p _)

theorem startSheet_account_self : (s.startSheet p x h cost).account x.account =
    reserve cost h.sides (s.account x.account) := by
  rw [State.account_congr (startSheet_queues s p x h cost).2.1]
  exact s.account_modAccount_self x.account _

theorem startSheet_account_ne {b : AccountNo} (hb : b ≠ x.account) :
    (s.startSheet p x h cost).account b = s.account b := by
  rw [State.account_congr (startSheet_queues s p x h cost).2.1]
  exact s.account_modAccount_ne _ hb

theorem started_job? (hx : s.job? x.number = some x) :
    (s.started p x h cost).job? x.number = some (startedJob (advance x x.dispatch) x) :=
  State.job_modJob_self _ x.number (startedJob (advance x x.dispatch)) x hx fun _ => rfl

theorem startSheet_job (hx : s.job? x.number = some x) : ∃ y, (s.startSheet p x h cost).job? x.number = some y ∧
    y.dispatch = advance x x.dispatch ∧ (atEnd x (advance x x.dispatch) = true → y.run = .draining ∧
      ((s.startSheet p x h cost).line p).feeding ≠ some x.number) := by
  cases hend : atEnd x (advance x x.dispatch) with
  | false =>
    rw [startSheet_goesOn hend]
    exact ⟨_, started_job? hx, rfl, fun hc => absurd hc Bool.false_ne_true⟩
  | true =>
    have hdraining : ((s.started p x h cost).modJob x.number drainingJob).job? x.number =
        some (drainingJob (startedJob (advance x x.dispatch) x)) :=
      State.job_modJob_self _ x.number drainingJob _ (started_job? hx) fun _ => rfl
    rw [startSheet_atEnd hend]
    refine ⟨_, State.rechoose_job?_unfed p hdraining rfl, rfl, fun _ => ⟨rfl, fun hfeeding => ?_⟩⟩
    rw [State.rechoose_line_self] at hfeeding
    obtain ⟨-, y, hy, hfed⟩ := State.feedingChoice_feedable hfeeding
    rw [hdraining] at hy
    rw [← Option.some.inj hy] at hfed
    exact absurd hfed Bool.false_ne_true

end

/-! ### What a leaving does to the accounts -/

section
variable {s : State} {j : Nat} {x : Job}

theorem State.markLeaving_accounts (t : LeaveTarget) (r : Option HoldReason) (s : State) (x : Job) (j : Nat) :
    (s.markLeaving x j t r).accounts = s.accounts ∧ (s.markLeaving x j t r).meters = s.meters := by
  unfold State.markLeaving
  split <;> exact ⟨rfl, rfl⟩

theorem State.complete_meters (s : State) (j : Nat) : (s.complete j).meters = s.meters := by
  cases h : s.job? j with
  | none =>
    unfold State.complete
    rw [h]
  | some x =>
    have hfinished : (s.finished x j).meters = s.meters := by
      rw [State.finished, State.leaveQuota_meters]
      exact s.unqueue_meters j
    cases hr : x.retain with
    | true => rw [State.complete_retained h hr, hfinished]
    | false => rw [State.complete_purged h hr, State.purge_meters, hfinished]

/-- Beside the quota list of its account, a completed job leaves the accounts. -/
theorem State.complete_account_ne (h : s.job? j = some x) {b : AccountNo} (hb : b ≠ x.account) :
    (s.complete j).account b = s.account b := by
  have hfinished : (s.finished x j).account b = s.account b := by
    rw [State.finished, State.leaveQuota_account, if_neg hb]
    exact State.account_congr (s.unqueue_accounts j) b
  cases hr : x.retain with
  | true => rw [State.complete_retained h hr, hfinished]
  | false => rw [State.complete_purged h hr, State.account_congr (State.purge_accounts _ j), hfinished]

variable (t : LeaveTarget) (r : Option HoldReason)

theorem State.startLeaving_account_ne (h : s.job? j = some x) {b : AccountNo} (hb : b ≠ x.account) :
    (s.startLeaving j t r).account b = s.account b := by
  have hmark := State.account_congr (s.markLeaving_accounts t r x j).1 b
  cases he : s.hasEntries j with
  | true => rw [State.startLeaving_entries t r h he, hmark]
  | false =>
    cases hend : atEnd x x.confirm with
    | true =>
      rw [State.startLeaving_atEnd t r h he hend, State.complete_account_ne (State.markLeaving_job? t r h) hb, hmark]
    | false =>
      cases hbound : x.bound with
      | none => rw [State.startLeaving_unbound t r h hend hbound, hmark]
      | some q =>
        rw [State.startLeaving_bound t r h he hend hbound]
        exact (State.account_congr ((State.unbind_lists _ q j).trans (.rechoose _ q)).accounts b).trans hmark

theorem State.startLeaving_accounts (h : s.job? j = some x) (hend : atEnd x x.confirm = false) :
    (s.startLeaving j t r).accounts = s.accounts := by
  have hmark := (s.markLeaving_accounts t r x j).1
  cases he : s.hasEntries j with
  | true => rw [State.startLeaving_entries t r h he, hmark]
  | false =>
    cases hbound : x.bound with
    | none => rw [State.startLeaving_unbound t r h hend hbound, hmark]
    | some q =>
      rw [State.startLeaving_bound t r h he hend hbound]
      exact ((State.unbind_lists _ q j).trans (.rechoose _ q)).accounts.trans hmark

theorem State.startLeaving_meters (s : State) (j : Nat) : (s.startLeaving j t r).meters = s.meters := by
  cases h : s.job? j with
  | none =>
    unfold State.startLeaving
    rw [h]
  | some x =>
    have hmark := (s.markLeaving_accounts t r x j).2
    cases he : s.hasEntries j with
    | true => rw [State.startLeaving_entries t r h he, hmark]
    | false =>
      cases hend : atEnd x x.confirm with
      | true => rw [State.startLeaving_atEnd t r h he hend, State.complete_meters, hmark]
      | false =>
        cases hbound : x.bound with
        | none => rw [State.startLeaving_unbound t r h hend hbound, hmark]
        | some q =>
          rw [State.startLeaving_bound t r h he hend hbound]
          exact ((State.unbind_lists _ q j).trans (.rechoose _ q)).meters.trans hmark

end

/-! ### The quota failure -/

/-- An account with a job at the tail of its quota list. -/
def heldAccount (j : Nat) (a : Account) : Account := { a with quotaHeld := without j a.quotaHeld ++ [j] }

/-- The state with a job in the quota list and leaving its printer. -/
def State.quotaLeft (s : State) (x : Job) : State :=
  (s.joinQuota x.account x.number).startLeaving x.number .held (some .quota)

section
variable {s : State} {x : Job}

theorem quotaFailure_eq (s : State) (x : Job) : s.quotaFailure x = (s.quotaLeft x).openAlert .quotaHold
    (.account x.account) ⟨none, none, some (ceiling (s.account x.account) -
      ((s.account x.account).chargedCost + (s.account x.account).reservedCost)), none⟩ := rfl

theorem quotaFailure_signals (s : State) (x : Job) :
    s.quotaFailure x = (s.quotaLeft x).signalsOf (s.quotaFailure x) := State.openAlert_signals ..

theorem joinQuota_account_self (s : State) (a : AccountNo) (j : Nat) :
    (s.joinQuota a j).account a = heldAccount j (s.account a) := s.account_modAccount_self a (heldAccount j)

theorem quotaFailure_figures (s : State) (x : Job) :
    sameFigures (s.account x.account) ((s.quotaFailure x).account x.account) := by
  have hjoin : Steady s (s.joinQuota x.account x.number) := .modAccount s x.account (heldAccount x.number) fun _ => rfl
  have hsteady := (hjoin.trans (steady_startLeaving _ x.number .held (some .quota))).trans (steady_openAlert _ .quotaHold
    (.account x.account) ⟨none, none, some (ceiling (s.account x.account) -
      ((s.account x.account).chargedCost + (s.account x.account).reservedCost)), none⟩)
  exact hsteady.figures x.account

theorem quotaFailure_account_ne (h : s.job? x.number = some x) {b : AccountNo} (hb : b ≠ x.account) :
    (s.quotaFailure x).account b = s.account b := by
  have hjoin : (s.joinQuota x.account x.number).job? x.number = some x := h
  rw [quotaFailure_signals, State.signalsOf_account, State.quotaLeft,
    State.startLeaving_account_ne .held (some .quota) hjoin hb]
  exact s.account_modAccount_ne _ hb

theorem quotaFailure_line {α : Type} (figureOf : Line → α)
    (hf : ∀ l a b, figureOf { l with queue := a, feeding := b } = figureOf l) (s : State) (x : Job) (p : LineNo) :
    figureOf ((s.quotaFailure x).line p) = figureOf (s.line p) := by
  rw [quotaFailure_signals, State.signalsOf_line, State.quotaLeft,
    (queuesOnly_startLeaving _ x.number .held (some .quota)).figure figureOf hf p]
  rfl

theorem quotaFailure_meters (s : State) (x : Job) : (s.quotaFailure x).meters = s.meters := by
  rw [quotaFailure_signals, State.signalsOf_meters, State.quotaLeft, State.startLeaving_meters]
  rfl

variable (h : s.job? x.number = some x) (hend : atEnd x x.confirm = false)
include h hend

theorem quotaFailure_quotaHeld : ((s.quotaFailure x).account x.account).quotaHeld =
    without x.number (s.account x.account).quotaHeld ++ [x.number] := by
  have hjoin : (s.joinQuota x.account x.number).job? x.number = some x := h
  rw [quotaFailure_signals, State.signalsOf_account, State.quotaLeft,
    State.account_congr (State.startLeaving_accounts .held (some .quota) hjoin hend), joinQuota_account_self]
  rfl

omit hend in
theorem quotaFailure_entries (he : s.hasEntries x.number = true) : (s.quotaFailure x).job? x.number = some
    { x with run := .leaving, leaveTarget := some .held, holdReason := some .quota } := by
  have hjoin : (s.joinQuota x.account x.number).job? x.number = some x := h
  rw [quotaFailure_signals, State.signalsOf_job?, State.quotaLeft,
    State.startLeaving_entries .held (some .quota) hjoin he, State.markLeaving_job? _ _ hjoin]
  rfl

theorem quotaFailure_held {q : LineNo} (he : s.hasEntries x.number = false) (hb : x.bound = some q) :
    (s.quotaFailure x).job? x.number = some
        { x with run := .held, leaveTarget := none, holdReason := some .quota, bound := none } ∧
      x.number ∉ ((s.quotaFailure x).line q).queue := by
  have hjoin : (s.joinQuota x.account x.number).job? x.number = some x := h
  have hmark := State.markLeaving_job? .held (some .quota) hjoin
  obtain ⟨hqueue, hjob⟩ := State.leave_job? (p := q) hmark
  rw [quotaFailure_signals, State.signalsOf_job?, State.signalsOf_line, State.quotaLeft,
    State.startLeaving_bound .held (some .quota) hjoin he hend hb]
  refine ⟨?_, hqueue⟩
  rw [hjob, State.unbind_job?, if_pos rfl, hmark, Option.map_some, unboundRecord, if_pos ⟨rfl, rfl⟩]
  rfl

end

/-- Settles O57. -/
theorem sheetStartReservesAndEnters : Obligations.SheetStartReservesAndEnters := by
  refine ⟨State.startable_iff, fun s p => ⟨fun hs => congrArg _ (sheetStart_none hs), fun x h hs => ?_⟩, fun before s =>
    ⟨rfl, State.quotaRetries_lines before s, fun a => ⟨(steady_quotaRetries before s).figures a,
      State.quotaRetries_quotaHeld before s a⟩,
      State.quotaRetries_empty before s, State.quotaRetries_one before s⟩, fun s a hheld hnodup => ?_⟩
  · obtain ⟨hx, hcopy⟩ := startable_job hs
    refine ⟨fun hfits => ?_, fun hover => ?_⟩
    · obtain ⟨-, -, hmeters, hlines⟩ := startSheet_queues s p x h (s.sheetCost p x.account h)
      exact ⟨congrArg _ (sheetStart_fits hs hfits), startSheet_account_self, startSheet_line Line.inflight fun _ _ _ => rfl,
        startSheet_line Line.fifo fun _ _ _ => rfl, startSheet_line Line.tagCtr fun _ _ _ => rfl,
        startSheet_line Line.stall fun _ _ _ => rfl, startSheet_job hx, hlines, fun b hb => startSheet_account_ne hb, hmeters⟩
    · refine ⟨congrArg _ (sheetStart_fails hs hover), quotaFailure_figures s x, fun b hb => quotaFailure_account_ne hx hb,
        quotaFailure_line Line.inflight (fun _ _ _ => rfl) s x p, quotaFailure_line Line.fifo (fun _ _ _ => rfl) s x p,
        quotaFailure_line Line.tagCtr (fun _ _ _ => rfl) s x p, quotaFailure_meters s x, quotaFailure_eq s x, fun hle => ?_⟩
      have hend : atEnd x x.confirm = false := decide_eq_false (by omega)
      exact ⟨quotaFailure_quotaHeld hx hend, quotaFailure_entries hx, fun q he hb => quotaFailure_held hx hend he hb⟩
  · have hsignals := State.quotaRetry_signals hheld
    obtain ⟨hwaiting, hpasses⟩ := s.retryJobs_waiting hnodup
    intro held t
    have halerts : (s.quotaRetry a).alerts = (s.clearAlert .quotaHold (.account a)).alerts :=
      (congrArg State.alerts hsignals).trans rfl
    have hcleared : (s.quotaRetry a).cleared = (s.clearAlert .quotaHold (.account a)).cleared :=
      (congrArg State.cleared hsignals).trans rfl
    have hshop : (s.quotaRetry a).shopOut = (s.clearAlert .quotaHold (.account a)).shopOut :=
      (congrArg State.shopOut hsignals).trans rfl
    refine ⟨?_, halerts, hcleared, hshop,
      (congrArg State.waiting hsignals).trans hwaiting, (congrArg State.passesWanted hsignals).trans hpasses,
      fun j x hx => ?_⟩
    · have haccount := s.quotaRetry_account a a
      rw [if_pos rfl] at haccount
      exact congrArg Account.quotaHeld haccount
    · refine (congrArg (fun u : State => u.job? j) hsignals).trans ((s.retryJobs_job? hnodup j).trans ?_)
      rw [hx]
      by_cases hj : j ∈ held
      · simp only [show j ∈ (s.account a).quotaHeld from hj, hj, true_and, if_true]
        rfl
      · simp only [show j ∉ (s.account a).quotaHeld from hj, hj, false_and, if_false]

end Sys2Proof.Machine
end

-- The entries that a line gives up: their reservations, and the rewinding of their jobs.
section
namespace Sys2Proof.Machine

/-! ### The reservations that go back -/

theorem unreserve_unreserve (a b c d : Nat) (x : Account) :
    unreserve c d (unreserve a b x) = unreserve (a + c) (b + d) x := by
  simp [unreserve, Nat.sub_sub]

/-- Whether an entry's reservation stands on an account. -/
def State.ownedBy (s : State) (a : AccountNo) (e : Entry) : Bool :=
  (s.job? e.job).any fun x => decide (x.account = a)

/-- An account after the reservations of some entries have gone back. -/
def State.returned (s : State) (es : List Entry) (a : AccountNo) : Account :=
  unreserve ((es.filter (s.ownedBy a)).map fun e => e.cost).sum ((es.filter (s.ownedBy a)).map fun e => e.sides).sum
    (s.account a)

theorem State.returned_nil (s : State) (a : AccountNo) : s.returned [] a = s.account a := rfl

theorem State.returned_cons (s : State) (e : Entry) (es : List Entry) (a : AccountNo) :
    s.returned (e :: es) a =
      unreserve ((es.filter (s.ownedBy a)).map fun e => e.cost).sum ((es.filter (s.ownedBy a)).map fun e => e.sides).sum
        (if s.ownedBy a e = true then unreserve e.cost e.sides (s.account a) else s.account a) := by
  unfold State.returned
  by_cases h : s.ownedBy a e = true
  · rw [List.filter_cons_of_pos h, if_pos h, unreserve_unreserve]
    rfl
  · rw [List.filter_cons_of_neg h, if_neg h]

theorem State.returned_perm {s : State} {es fs : List Entry} (h : es.Perm fs) (a : AccountNo) :
    s.returned es a = s.returned fs a := by
  have hfilter := h.filter (s.ownedBy a)
  unfold State.returned
  rw [(hfilter.map fun e => e.cost).sum_nat, (hfilter.map fun e => e.sides).sum_nat]

theorem State.ownedBy_congr {s t : State} (h : ∀ k, (t.job? k).map Job.account = (s.job? k).map Job.account)
    (a : AccountNo) : t.ownedBy a = s.ownedBy a := by
  funext e
  have hk := h e.job
  unfold State.ownedBy
  cases hs : s.job? e.job with
  | none =>
    cases ht : t.job? e.job with
    | none => rfl
    | some y =>
      rw [hs, ht] at hk
      exact absurd hk (by simp)
  | some x =>
    cases ht : t.job? e.job with
    | none =>
      rw [hs, ht] at hk
      exact absurd hk (by simp)
    | some y =>
      rw [hs, ht] at hk
      have haccount : y.account = x.account := Option.some.inj hk
      show decide (y.account = a) = decide (x.account = a)
      rw [haccount]

theorem State.returnEntry_account (s : State) (e : Entry) (a : AccountNo) :
    (s.returnEntry e).account a =
      if s.ownedBy a e = true then unreserve e.cost e.sides (s.account a) else s.account a := by
  unfold State.returnEntry State.ownedBy
  cases s.job? e.job with
  | none => rfl
  | some x =>
    by_cases hx : x.account = a
    · subst hx
      simp
    · simp [hx, State.account_modAccount_ne s (unreserve e.cost e.sides) (Ne.symm hx)]

theorem State.returnEntry_only (s : State) (e : Entry) :
    s.returnEntry e = { s with accounts := (s.returnEntry e).accounts } := by
  unfold State.returnEntry
  cases s.job? e.job <;> rfl

/-- Some entries give their reservations back. -/
def State.returnEntries (s : State) (es : List Entry) : State := es.foldl State.returnEntry s

theorem State.returnEntries_only (s : State) (es : List Entry) :
    s.returnEntries es = { s with accounts := (s.returnEntries es).accounts } := by
  induction es generalizing s with
  | nil => rfl
  | cons e es ih =>
    have hbase (v : Vector Account 256) : ({ s.returnEntry e with accounts := v } : State) = { s with accounts := v } := by
      rw [s.returnEntry_only e]
    exact (ih (s.returnEntry e)).trans (hbase _)

section
variable (s : State) (es : List Entry)

@[simp] theorem State.returnEntries_lines : (s.returnEntries es).lines = s.lines := by
  rw [State.returnEntries_only]

@[simp] theorem State.returnEntries_line (p : LineNo) : (s.returnEntries es).line p = s.line p :=
  State.line_congr (s.returnEntries_lines es) p

@[simp] theorem State.returnEntries_job? (k : Nat) : (s.returnEntries es).job? k = s.job? k := by
  rw [State.returnEntries_only]
  rfl

theorem State.returnEntries_account (a : AccountNo) : (s.returnEntries es).account a = s.returned es a := by
  induction es generalizing s with
  | nil => rfl
  | cons e es ih =>
    have howned : (s.returnEntry e).ownedBy a = s.ownedBy a :=
      State.ownedBy_congr (fun k => by rw [s.returnEntry_only e]; rfl) a
    show ((s.returnEntry e).returnEntries es).account a = _
    rw [ih, State.returned, howned, State.returned_cons, State.returnEntry_account]

end

/-! ### A line gives entries up -/

/-- Some entries have left the list of a line, and their reservations have gone back. Beside that, only lines, job
records and alerts have changed, and no job has changed its account. -/
structure GivesUp (p : LineNo) (es : List Entry) (s t : State) : Prop where
  entries : (es ++ (t.line p).inflight).Perm (s.line p).inflight
  account : ∀ a, t.account a = s.returned es a
  owner : ∀ k, (t.job? k).map Job.account = (s.job? k).map Job.account
  rest : t = ({ s with accounts := t.accounts, lines := t.lines, jobs := t.jobs } : State).signalsOf t

section
variable {p : LineNo} {es fs : List Entry} {s t u : State}

theorem GivesUp.refl (p : LineNo) (s : State) : GivesUp p [] s s := ⟨.refl _, fun _ => rfl, fun _ => rfl, rfl⟩

theorem GivesUp.trans (h : GivesUp p es s t) (g : GivesUp p fs t u) : GivesUp p (es ++ fs) s u := by
  refine ⟨?_, fun a => ?_, fun k => (g.owner k).trans (h.owner k), ?_⟩
  · rw [List.append_assoc]
    exact (g.entries.append_left es).trans h.entries
  · rw [g.account, State.returned, State.ownedBy_congr h.owner a, h.account]
    unfold State.returned
    rw [unreserve_unreserve, List.filter_append, List.map_append, List.map_append, List.sum_append, List.sum_append]
  · rw [g.rest, h.rest]
    rfl

/-- A change that takes no entry off the line. -/
theorem GivesUp.none (hline : (t.line p).inflight = (s.line p).inflight) (haccounts : t.accounts = s.accounts)
    (howner : ∀ k, (t.job? k).map Job.account = (s.job? k).map Job.account)
    (hrest : t = ({ s with accounts := t.accounts, lines := t.lines, jobs := t.jobs } : State).signalsOf t) :
    GivesUp p [] s t :=
  ⟨hline ▸ .refl _, fun a => State.account_congr haccounts a, howner, hrest⟩

theorem givesUp_modJob (p : LineNo) (s : State) (j : Nat) (f : Job → Job) (hnumber : ∀ x, (f x).number = x.number)
    (haccount : ∀ x, (f x).account = x.account) : GivesUp p [] s (s.modJob j f) := by
  refine .none rfl rfl (fun k => ?_) rfl
  rw [State.job?_modJob s j k f hnumber]
  split
  · rw [Option.map_map, show Job.account ∘ f = Job.account from funext haccount]
  · rfl

/-- When the list of the line is empty at the end, every entry has given its reservation back. -/
theorem GivesUp.all (h : GivesUp p es s t) (hnil : (t.line p).inflight = []) (a : AccountNo) :
    t.account a = s.returned (s.line p).inflight a := by
  have hperm := h.entries
  rw [hnil, List.append_nil] at hperm
  rw [h.account, State.returned_perm hperm]

end

/-! ### The entries of a predicate -/

/-- The line with some of its entries. -/
def keepEntries (P : Entry → Bool) (l : Line) : Line := { l with inflight := l.inflight.filter P }

theorem keepEntries_keepEntries (P Q : Entry → Bool) (l : Line) :
    keepEntries Q (keepEntries P l) = keepEntries (fun e => P e && Q e) l := by
  unfold keepEntries
  simp only [List.filter_filter, Bool.and_comm]

theorem givesUp_keepEntries (s : State) (p : LineNo) (P : Entry → Bool) :
    GivesUp p ((s.line p).inflight.filter fun e => !P e) s
      ((s.modLine p (keepEntries P)).returnEntries ((s.line p).inflight.filter fun e => !P e)) := by
  refine ⟨?_, fun a => ?_, fun k => ?_, ?_⟩
  · rw [State.returnEntries_line, State.line_modLine_self]
    exact List.perm_append_comm.trans (List.filter_append_perm P _)
  · exact State.returnEntries_account _ _ a
  · rw [State.returnEntries_job?]
    rfl
  · rw [State.returnEntries_only]
    rfl

section
variable (s : State) (p : LineNo) (P : Entry → Bool)

theorem State.discardEntries_eq : s.discardEntries p P =
    (s.modLine p (keepEntries fun e => !(P e && s.entryKilled e))).returnEntries
      ((s.line p).inflight.filter fun e => P e && s.entryKilled e) := rfl

theorem givesUp_discardEntries : GivesUp p ((s.line p).inflight.filter fun e => P e && s.entryKilled e) s
    (s.discardEntries p P) := by
  have h := givesUp_keepEntries s p fun e => !(P e && s.entryKilled e)
  simp only [Bool.not_not] at h
  exact h

theorem State.discardEntries_line_self :
    (s.discardEntries p P).line p = keepEntries (fun e => !(P e && s.entryKilled e)) (s.line p) := by
  rw [State.discardEntries_eq, State.returnEntries_line, State.line_modLine_self]

theorem State.discardEntries_line_ne {q : LineNo} (h : q ≠ p) : (s.discardEntries p P).line q = s.line q := by
  rw [State.discardEntries_eq, State.returnEntries_line, State.line_modLine_ne _ _ h]

theorem State.discardEntries_job? (k : Nat) : (s.discardEntries p P).job? k = s.job? k := by
  rw [State.discardEntries_eq, State.returnEntries_job?]
  rfl

end

/-! ### Rewinding jobs -/

/-- The job with its dispatch cursor at its confirm cursor (R60). -/
def rewound (x : Job) : Job := { x with dispatch := x.confirm }

theorem rewound_rewound (x : Job) : rewound (rewound x) = rewound x := rfl

section
variable (s : State) (p : LineNo) (j : Nat) (js : List Nat)

theorem State.rewind_eq : State.rewind p s j =
    ((s.modLine p (keepEntries fun e => decide (e.job ≠ j))).returnEntries (s.entriesOn p j)).modJob j rewound := rfl

theorem givesUp_rewind : GivesUp p (s.entriesOn p j) s (State.rewind p s j) := by
  have hgone : s.entriesOn p j = (s.line p).inflight.filter fun e => !decide (e.job ≠ j) := by
    unfold State.entriesOn
    simp
  have hkeep := givesUp_keepEntries s p fun e => decide (e.job ≠ j)
  rw [← hgone] at hkeep
  have h := hkeep.trans (givesUp_modJob p _ j rewound (fun _ => rfl) fun _ => rfl)
  rw [List.append_nil] at h
  exact h

theorem State.rewind_line_self :
    (State.rewind p s j).line p = keepEntries (fun e => decide (e.job ≠ j)) (s.line p) := by
  have h := State.line_modLine_self s p (keepEntries fun e => decide (e.job ≠ j))
  rw [← State.returnEntries_line _ (s.entriesOn p j)] at h
  exact h

theorem State.rewind_line_ne {q : LineNo} (h : q ≠ p) : (State.rewind p s j).line q = s.line q := by
  have hline := State.line_modLine_ne s (keepEntries fun e => decide (e.job ≠ j)) h
  rw [← State.returnEntries_line _ (s.entriesOn p j)] at hline
  exact hline

theorem State.rewind_job? (k : Nat) :
    (State.rewind p s j).job? k = if k = j then (s.job? k).map rewound else s.job? k := by
  rw [State.rewind_eq, State.job?_modJob _ j k rewound fun _ => rfl, State.returnEntries_job?]
  rfl

/-- Jobs rewound one after the other. -/
def State.rewinds : State := js.foldl (State.rewind p) s

theorem keepEntries_all (l : Line) : keepEntries (fun e => decide (e.job ∉ ([] : List Nat))) l = l := by
  have hall : (l.inflight.filter fun e => decide (e.job ∉ ([] : List Nat))) = l.inflight :=
    List.filter_eq_self.mpr fun _ _ => decide_eq_true List.not_mem_nil
  unfold keepEntries
  rw [hall]

theorem State.rewinds_line_self :
    (s.rewinds p js).line p = keepEntries (fun e => decide (e.job ∉ js)) (s.line p) := by
  induction js generalizing s with
  | nil => exact (keepEntries_all _).symm
  | cons j js ih =>
    show ((State.rewind p s j).rewinds p js).line p = _
    rw [ih, State.rewind_line_self, keepEntries_keepEntries]
    simp only [List.mem_cons, not_or, Bool.decide_and]

theorem State.rewinds_line_ne {q : LineNo} (h : q ≠ p) : (s.rewinds p js).line q = s.line q := by
  induction js generalizing s with
  | nil => rfl
  | cons j js ih => exact (ih _).trans (s.rewind_line_ne p j h)

theorem State.rewinds_job? (k : Nat) :
    (s.rewinds p js).job? k = if k ∈ js then (s.job? k).map rewound else s.job? k := by
  induction js generalizing s with
  | nil => rfl
  | cons j js ih =>
    show ((State.rewind p s j).rewinds p js).job? k = _
    rw [ih, State.rewind_job?]
    by_cases hj : k = j
    · rw [if_pos hj, if_pos (List.mem_cons.mpr (.inl hj))]
      split
      · rw [Option.map_map]
        rfl
      · rfl
    · rw [if_neg hj]
      simp only [List.mem_cons, hj, false_or]

theorem givesUp_rewinds : ∃ es, GivesUp p es s (s.rewinds p js) := by
  induction js generalizing s with
  | nil => exact ⟨[], .refl p s⟩
  | cons j js ih =>
    obtain ⟨es, h⟩ := ih (State.rewind p s j)
    exact ⟨_, (givesUp_rewind s p j).trans h⟩

end

/-! ### An emptied list -/

/-- What an emptied list changes on its line: no deadline and no stall. -/
def emptiedList (l : Line) : Line :=
  if l.inflight = [] then { l with armed := false, stall := .stopped, stalled := false } else l

theorem emptiedList_inflight (l : Line) : (emptiedList l).inflight = l.inflight := by
  unfold emptiedList
  split <;> rfl

theorem State.clearStall_signals (s : State) (p : LineNo) :
    s.clearStall p = (s.modLine p fun l => { l with stalled := false }).signalsOf (s.clearStall p) := by
  unfold State.clearStall
  split
  · exact State.clearAlert_signals ..
  · rename_i h
    have hsame := s.modLine_same p (fun l => { l with stalled := false }) (by rw [← Bool.eq_false_iff.mpr h])
    rw [hsame]
    rfl

section
variable (s : State) (p : LineNo)

theorem State.listEmptied_signals :
    s.listEmptied p = (s.modLine p emptiedList).signalsOf (s.listEmptied p) := by
  by_cases h : (s.line p).inflight = []
  · have hempty : s.listEmptied p = (s.modLine p fun l => { l with armed := false, stall := .stopped }).clearStall p :=
      if_pos h
    rw [hempty, State.clearStall_signals, State.modLine_modLine]
    exact State.signals_self (congrArg (fun u : State => u.signalsOf _) (s.modLine_congr p (if_pos h).symm))
  · have hsame : s.modLine p emptiedList = s := s.modLine_same p _ (if_neg h)
    have hfull : s.listEmptied p = s := if_neg h
    rw [hsame, hfull]
    rfl

theorem State.listEmptied_line_self : (s.listEmptied p).line p = emptiedList (s.line p) := by
  rw [State.listEmptied_signals, State.signalsOf_line, State.line_modLine_self]

theorem State.listEmptied_line_ne {q : LineNo} (h : q ≠ p) : (s.listEmptied p).line q = s.line q := by
  rw [State.listEmptied_signals, State.signalsOf_line, State.line_modLine_ne _ _ h]

theorem State.listEmptied_job? (k : Nat) : (s.listEmptied p).job? k = s.job? k := by
  rw [State.listEmptied_signals]
  rfl

theorem givesUp_listEmptied : GivesUp p [] s (s.listEmptied p) := by
  refine .none ?_ ?_ (fun k => by rw [State.listEmptied_job?]) ?_
  · rw [State.listEmptied_line_self, emptiedList_inflight]
  · rw [State.listEmptied_signals]
    rfl
  · rw [State.listEmptied_signals]
    rfl

end

/-! ### The clearing of the entries of a line -/

section
variable (s : State) (p : LineNo) (P : Entry → Bool)

/-- The jobs that the clearing of entries rewinds. -/
def State.rewoundJobs : List Nat := (s.discardEntries p P).jobsOf p P

/-- The entries that stay when those of a predicate are cleared. -/
def State.stays (e : Entry) : Bool := !(P e && s.entryKilled e) && decide (e.job ∉ s.rewoundJobs p P)

theorem State.mem_rewoundJobs {j : Nat} : j ∈ s.rewoundJobs p P ↔
    ∃ e ∈ (s.line p).inflight, P e = true ∧ s.entryKilled e = false ∧ e.job = j := by
  unfold State.rewoundJobs State.jobsOf entryJobs
  rw [mem_dedup, State.discardEntries_line_self]
  simp only [keepEntries, List.mem_map, List.mem_filter]
  constructor
  · rintro ⟨e, ⟨⟨he, hlive⟩, hP⟩, hj⟩
    simp only [hP, Bool.true_and, Bool.not_eq_true'] at hlive
    exact ⟨e, he, hP, hlive, hj⟩
  · rintro ⟨e, he, hP, hlive, hj⟩
    exact ⟨e, ⟨⟨he, by simp [hlive]⟩, hP⟩, hj⟩

theorem State.clearEntries_eq :
    s.clearEntries p P = ((s.discardEntries p P).rewinds p (s.rewoundJobs p P)).listEmptied p := rfl

theorem State.clearEntries_line_self :
    (s.clearEntries p P).line p = emptiedList (keepEntries (s.stays p P) (s.line p)) := by
  rw [State.clearEntries_eq, State.listEmptied_line_self, State.rewinds_line_self, State.discardEntries_line_self,
    keepEntries_keepEntries]
  rfl

theorem State.clearEntries_line_ne {q : LineNo} (h : q ≠ p) : (s.clearEntries p P).line q = s.line q := by
  rw [State.clearEntries_eq, State.listEmptied_line_ne _ p h, State.rewinds_line_ne _ p _ h,
    State.discardEntries_line_ne s p P h]

theorem State.clearEntries_job? (k : Nat) :
    (s.clearEntries p P).job? k = if k ∈ s.rewoundJobs p P then (s.job? k).map rewound else s.job? k := by
  rw [State.clearEntries_eq, State.listEmptied_job?, State.rewinds_job?, State.discardEntries_job?]

theorem givesUp_clearEntries : ∃ es, GivesUp p es s (s.clearEntries p P) := by
  obtain ⟨es, h⟩ := givesUp_rewinds (s.discardEntries p P) p (s.rewoundJobs p P)
  exact ⟨_, ((givesUp_discardEntries s p P).trans h).trans (givesUp_listEmptied _ p)⟩

theorem State.stays_not {e : Entry} (he : e ∈ (s.line p).inflight) (hP : P e = true) : s.stays p P e = false := by
  unfold State.stays
  cases hkilled : s.entryKilled e with
  | true => simp [hP]
  | false =>
    have hmem := (s.mem_rewoundJobs p P).mpr ⟨e, he, hP, hkilled, rfl⟩
    simp [hmem]

/-- Nothing stays when every entry is of the predicate. -/
theorem State.clearEntries_empty (h : ∀ e ∈ (s.line p).inflight, P e = true) :
    ((s.clearEntries p P).line p) = { s.line p with inflight := [], armed := false, stall := .stopped, stalled := false } := by
  have hnil : (s.line p).inflight.filter (s.stays p P) = [] :=
    List.filter_eq_nil_iff.mpr fun e he => by simp [s.stays_not p P he (h e he)]
  rw [State.clearEntries_line_self]
  unfold emptiedList keepEntries
  rw [if_pos hnil, hnil]

end

end Sys2Proof.Machine
end

-- O55: what the loss of a line leaves of the line and of its jobs.
section
namespace Sys2Proof.Machine

/-! ### A killed job without entries gives its storage up (R17) -/

section
variable (s : State) (j : Nat) (js : List Nat)

theorem State.releaseIfKilled_cases (P : State → Prop) (hsame : P s) (hrelease : P (s.releaseStorage j)) :
    P (s.releaseIfKilled j) := by
  unfold State.releaseIfKilled
  split
  · split
    · exact hrelease
    · exact hsame
  · exact hsame

/-- Killed jobs without entries give their storage up. -/
def State.releasesIfKilled : State := js.foldl State.releaseIfKilled s

theorem State.releasesIfKilled_lines : (s.releasesIfKilled js).lines = s.lines := by
  induction js generalizing s with
  | nil => rfl
  | cons j js ih => exact (ih _).trans (s.releaseIfKilled_cases j (fun t => t.lines = s.lines) rfl
      (s.releaseStorage_lines j))

theorem State.releasesIfKilled_meters : (s.releasesIfKilled js).meters = s.meters := by
  induction js generalizing s with
  | nil => rfl
  | cons j js ih => exact (ih _).trans (s.releaseIfKilled_cases j (fun t => t.meters = s.meters) rfl
      (s.releaseStorage_meters j))

theorem State.releasesIfKilled_accounts : (s.releasesIfKilled js).accounts = s.accounts := by
  induction js generalizing s with
  | nil => rfl
  | cons j js ih => exact (ih _).trans (s.releaseIfKilled_cases j (fun t => t.accounts = s.accounts) rfl
      (s.releaseStorage_accounts j))

/-- No more than the sheets of a job's record have changed. -/
def SheetsOnly (k : Nat) (s t : State) : Prop :=
  (t.job? k = none ↔ s.job? k = none) ∧
    ∀ y, t.job? k = some y → ∃ x, s.job? k = some x ∧ y = { x with sheets := y.sheets }

theorem SheetsOnly.refl (k : Nat) (s : State) : SheetsOnly k s s := ⟨.rfl, fun y hy => ⟨y, hy, rfl⟩⟩

theorem SheetsOnly.trans {k : Nat} {s t u : State} (h : SheetsOnly k s t) (g : SheetsOnly k t u) : SheetsOnly k s u := by
  refine ⟨g.1.trans h.1, fun z hz => ?_⟩
  obtain ⟨y, hy, hzy⟩ := g.2 z hz
  obtain ⟨x, hx, hyx⟩ := h.2 y hy
  refine ⟨x, hx, ?_⟩
  rw [hzy, hyx]

theorem sheetsOnly_releaseStorage (k : Nat) : SheetsOnly k s (s.releaseStorage j) := by
  have hjob := s.releaseStorage_job? j k
  by_cases hk : k = j
  · rw [if_pos hk] at hjob
    refine ⟨by rw [hjob, Option.map_eq_none_iff], fun y hy => ?_⟩
    rw [hjob, Option.map_eq_some_iff] at hy
    obtain ⟨x, hx, rfl⟩ := hy
    exact ⟨x, hx, rfl⟩
  · rw [if_neg hk] at hjob
    exact ⟨by rw [hjob], fun y hy => ⟨y, hjob ▸ hy, rfl⟩⟩

theorem sheetsOnly_releasesIfKilled (k : Nat) : SheetsOnly k s (s.releasesIfKilled js) := by
  induction js generalizing s with
  | nil => exact .refl k s
  | cons j js ih => exact (s.releaseIfKilled_cases j (SheetsOnly k s) (.refl k s)
      (sheetsOnly_releaseStorage s j k)).trans (ih _)

end

/-! ### The jobs of a queue that is given up -/

theorem unboundRecord_bound (p : LineNo) (x : Job) : (unboundRecord p x).bound = none :=
  (unboundRecord_facts p x).1

theorem State.unbind_bound_kept (s : State) (p : LineNo) (j : Nat) {k : Nat}
    (h : ∀ x, s.job? k = some x → x.bound = none) (y : Job) (hy : (s.unbind p j).job? k = some y) : y.bound = none := by
  rw [State.unbind_job?] at hy
  split at hy
  · obtain ⟨x, -, rfl⟩ := Option.map_eq_some_iff.mp hy
    exact unboundRecord_bound p x
  · exact h y hy

theorem State.unbindList_bound_kept (s : State) (p : LineNo) (l : List Nat) {k : Nat}
    (h : ∀ x, s.job? k = some x → x.bound = none) (y : Job) (hy : (s.unbindList p l).job? k = some y) :
    y.bound = none := by
  induction l generalizing s with
  | nil => exact h y hy
  | cons j l ih => exact ih _ (s.unbind_bound_kept p j h) hy

theorem State.unbindList_bound (s : State) (p : LineNo) {l : List Nat} {k : Nat} (hk : k ∈ l) (y : Job)
    (hy : (s.unbindList p l).job? k = some y) : y.bound = none := by
  induction l generalizing s with
  | nil => exact absurd hk List.not_mem_nil
  | cons j l ih =>
    obtain rfl | hmem := List.mem_cons.mp hk
    · refine State.unbindList_bound_kept _ p l (fun x hx => ?_) y hy
      rw [State.unbind_job?, if_pos rfl] at hx
      obtain ⟨z, -, rfl⟩ := Option.map_eq_some_iff.mp hx
      exact unboundRecord_bound p z
    · exact ih _ hmem hy

/-! ### What is left of the line -/

/-- What a line that goes out of service keeps. -/
def droppedLine (l : Line) : Line :=
  emptiedLine (lossFlags (unqueuedLine
    { lossLine l with inflight := [], armed := false, stall := .stopped, stalled := false }))

/-- The state in which a line has lost its entries. -/
def State.lost (s : State) (p : LineNo) : State := (s.modLine p lossLine).clearEntries p everyEntry

section
variable (s : State) (p : LineNo)

theorem State.dropLine_eq : s.dropLine p =
    ((((s.lost p).unbindAll p).releasesIfKilled (s.jobsOf p everyEntry)).modLine p lossFlags).emptyConditions p := rfl

/-- The state in which a line has lost its entries, its queue and its conditions. -/
def State.dropped (s : State) (p : LineNo) : State :=
  (((s.lost p).unbindAll p).releasesIfKilled (s.jobsOf p everyEntry)).modLine p fun l => emptiedLine (lossFlags l)

theorem State.dropLine_signals : s.dropLine p = (s.dropped p).signalsOf (s.dropLine p) := by
  refine State.signals_self (t := s.dropLine p) ?_
  rw [State.dropped, ← State.modLine_modLine, State.dropLine_eq]
  exact State.emptyConditions_signals _ p

theorem State.lost_line_self : (s.lost p).line p =
    { lossLine (s.line p) with inflight := [], armed := false, stall := .stopped, stalled := false } := by
  unfold State.lost
  rw [State.clearEntries_empty _ p everyEntry fun _ _ => rfl, State.line_modLine_self]

theorem State.lost_line_ne {q : LineNo} (h : q ≠ p) : (s.lost p).line q = s.line q := by
  unfold State.lost
  rw [State.clearEntries_line_ne _ p everyEntry h, State.line_modLine_ne _ _ h]

theorem State.lost_job? (k : Nat) : (s.lost p).job? k =
    if k ∈ (s.modLine p lossLine).rewoundJobs p everyEntry then (s.job? k).map rewound else s.job? k := by
  unfold State.lost
  rw [State.clearEntries_job?]
  rfl

theorem State.lost_rest : (s.lost p).meters = s.meters := by
  obtain ⟨es, hgives⟩ := givesUp_clearEntries (s.modLine p lossLine) p everyEntry
  have hrest := congrArg State.meters hgives.rest
  exact hrest

variable {s p}

theorem State.lost_queue (h : ∀ j ∈ (s.line p).queue, (s.job? j).isSome = true) :
    ∀ j ∈ ((s.lost p).line p).queue, ((s.lost p).job? j).isSome = true := by
  intro j hj
  rw [State.lost_line_self] at hj
  have hsome := h j hj
  rw [State.lost_job?]
  split
  · rw [Option.isSome_map]
    exact hsome
  · exact hsome

theorem State.dropLine_line_self (h : ∀ j ∈ (s.line p).queue, (s.job? j).isSome = true) :
    (s.dropLine p).line p = droppedLine (s.line p) := by
  rw [State.dropLine_signals, State.signalsOf_line, State.dropped, State.line_modLine_self, State.line_congr (State.releasesIfKilled_lines _ _),
    State.unbindAll_line_self _ p (State.lost_queue h), State.lost_line_self]
  rfl

variable (s)

theorem State.dropLine_line_ne {q : LineNo} (h : q ≠ p) : (s.dropLine p).line q = s.line q := by
  rw [State.dropLine_signals, State.signalsOf_line, State.dropped, State.line_modLine_ne _ _ h, State.line_congr (State.releasesIfKilled_lines _ _), State.unbindAll_line_ne _ p h,
    s.lost_line_ne p h]

theorem State.dropLine_meters : (s.dropLine p).meters = s.meters := by
  have hdropped : (s.dropped p).meters = (((s.lost p).unbindAll p).releasesIfKilled (s.jobsOf p everyEntry)).meters := rfl
  rw [State.dropLine_signals, State.signalsOf_meters, hdropped, State.releasesIfKilled_meters,
    ((s.lost p).unbindAll_lists p).meters, s.lost_rest p]

variable {s}

theorem State.dropLine_bound (h : ∀ j ∈ (s.line p).queue, (s.job? j).isSome = true) {j : Nat}
    (hj : j ∈ (s.line p).queue) (y : Job) (hy : (s.dropLine p).job? j = some y) : y.bound = none := by
  have hdropped : (s.dropped p).jobs = (((s.lost p).unbindAll p).releasesIfKilled (s.jobsOf p everyEntry)).jobs := rfl
  rw [State.dropLine_signals, State.signalsOf_job?, State.job?_congr hdropped] at hy
  obtain ⟨x, hx, hyx⟩ := (sheetsOnly_releasesIfKilled ((s.lost p).unbindAll p) (s.jobsOf p everyEntry) j).2 y hy
  have hmem : j ∈ ((s.lost p).line p).queue := by
    rw [State.lost_line_self]
    exact hj
  rw [State.unbindAll_job? _ p (State.lost_queue h)] at hx
  rw [hyx]
  exact State.unbindList_bound _ p hmem x hx

end

/-! ### The two ways a line is lost -/

/-- The line after its loss (R96, R98). -/
def lostLine (resync lost : Bool) (l : Line) : Line :=
  { droppedLine l with
    state := .down
    lineDown := lost || l.lineDown
    control := if resync then [.resync] else [] }

/-- The line after its loss has ended its retirement (R73). -/
def lostRetired (l : Line) : Line := retiredLine (unqueuedLine (droppedLine l))

section
variable {s : State} {p : LineNo} {resync : Bool}

/-- The state in which a line that was not RETIRING is down. -/
def State.wentDown (s : State) (p : LineNo) (resync lost : Bool) : State :=
  (s.dropLine p).modLine p fun l =>
    { l with
      state := .down
      lineDown := lost || l.lineDown
      control := l.control ++ if resync then [.resync] else [] }

theorem State.loseLine_live (h : (s.line p).state ≠ .retiring) : s.loseLine p resync =
    (s.wentDown p resync true).openAlert .lineDown (.printer p) ⟨none, none, none, none⟩ := by
  have hdown : (s.dropLine p).modLine p (fun l => { downLine resync l with lineDown := true }) =
      s.wentDown p resync true := by
    cases resync <;> exact State.modLine_congr _ p (by simp [downLine])
  exact (if_neg h).trans (congrArg (fun t : State => t.openAlert .lineDown (.printer p) Detail.none) hdown)

theorem State.wakeLimitExpiry_eq : s.wakeLimitExpiry p =
    (s.wentDown p true false).openAlert .noWake (.printer p) ⟨none, none, none, none⟩ := by
  have hdown : (s.dropLine p).modLine p (downLine true) = s.wentDown p true false :=
    State.modLine_congr _ p (by simp [downLine])
  exact congrArg (fun t : State => t.openAlert .noWake (.printer p) Detail.none) hdown

/-- What the loss of a line leaves of the line and of the jobs in its queue, whatever the line's state was. -/
structure EmptiesLine (s : State) (p : LineNo) (f : Line → Line) (t : State) : Prop where
  line : t.line p = f (s.line p)
  others : ∀ q, q ≠ p → t.line q = s.line q
  meters : t.meters = s.meters
  bound : ∀ j ∈ (s.line p).queue, ∀ y, t.job? j = some y → y.bound = none

section
variable (h : ∀ j ∈ (s.line p).queue, (s.job? j).isSome = true)
include h

theorem emptiesLine_wentDown (lost : Bool) {k : AlertKind} :
    EmptiesLine s p (lostLine resync lost) ((s.wentDown p resync lost).openAlert k (.printer p) ⟨none, none, none, none⟩) := by
  rw [State.openAlert_signals]
  refine ⟨?_, fun q hq => ?_, ?_, fun j hj y hy => ?_⟩
  · rw [State.signalsOf_line, State.wentDown, State.line_modLine_self, State.dropLine_line_self h]
    cases resync <;> rfl
  · rw [State.signalsOf_line, State.wentDown, State.line_modLine_ne _ _ hq, s.dropLine_line_ne hq]
  · rw [State.signalsOf_meters, State.wentDown, State.modLine_meters, s.dropLine_meters]
  · rw [State.signalsOf_job?, State.wentDown, State.job?_congr (State.modLine_jobs ..)] at hy
    exact State.dropLine_bound h hj y hy

theorem emptiesLine_enterRetired : EmptiesLine s p lostRetired ((s.dropLine p).enterRetired p) := by
  have hline := State.dropLine_line_self h
  have hqueue : ((s.dropLine p).line p).queue = [] := by
    rw [hline]
    rfl
  have hjobs : ((s.dropLine p).enterRetired p).jobs = (s.dropLine p).jobs := by
    rw [State.enterRetired_jobs, (State.unbindAll_empty _ p hqueue).1]
  refine ⟨?_, fun q hq => ?_, ?_, fun j hj y hy => ?_⟩
  · rw [State.enterRetired_line_self (by rw [hqueue]; exact fun j hj => absurd hj List.not_mem_nil), hline]
    rfl
  · rw [State.enterRetired_line, if_neg hq, s.dropLine_line_ne hq]
  · rw [State.enterRetired_meters, State.dropLine_meters]
  · rw [State.job?_congr hjobs] at hy
    exact State.dropLine_bound h hj y hy

end

end

/-- Settles O55. -/
theorem lineLossEmptiesTheLine : Obligations.LineLossEmptiesTheLine := by
  refine ⟨fun s p => ⟨fun hdue => congrArg _ (expiry_due hdue), fun hdue => congrArg _ (expiry_due hdue),
    fun hdue => congrArg _ (expiry_due hdue)⟩, fun s p resync h t ht => ?_, fun s p => ⟨State.wakeLimitExpiry_eq,
      fun resync hstate => ⟨State.loseLine_live hstate, ?_⟩⟩⟩
  · by_cases hstate : (s.line p).state = .retiring
    · obtain ht | ⟨-, -, hnot⟩ := ht
      · rw [ht, State.loseLine_retiring hstate]
        obtain ⟨hline, hothers, hmeters, hbound⟩ := emptiesLine_enterRetired h
        rw [hline]
        exact ⟨rfl, rfl, rfl, rfl, rfl, rfl, rfl, rfl, rfl, rfl, rfl, rfl, rfl, rfl, rfl, rfl, rfl, rfl, rfl,
          fun _ => ⟨rfl, rfl⟩, fun hnot => absurd hstate hnot, hbound, hothers, hmeters⟩
      · exact absurd hstate hnot
    · obtain ⟨lost, hlost⟩ : ∃ lost, EmptiesLine s p (lostLine resync lost) t := by
        obtain ht | ⟨ht, hresync, -⟩ := ht
        · rw [ht, State.loseLine_live hstate]
          exact ⟨true, emptiesLine_wentDown h true⟩
        · rw [ht, hresync, State.wakeLimitExpiry_eq]
          exact ⟨false, emptiesLine_wentDown h false⟩
      obtain ⟨hline, hothers, hmeters, hbound⟩ := hlost
      rw [hline]
      exact ⟨rfl, rfl, rfl, rfl, rfl, rfl, rfl, rfl, rfl, rfl, rfl, rfl, rfl, rfl, rfl, rfl, rfl, rfl, rfl,
        fun hretiring => absurd hretiring hstate, fun _ => ⟨rfl, rfl⟩, hbound, hothers, hmeters⟩
  · rw [State.loseLine_live hstate, State.openAlert_signals, State.signalsOf_line, State.wentDown, State.line_modLine_self]
    rfl

end Sys2Proof.Machine
end

-- O59: the end of a burst.
section
namespace Sys2Proof.Machine

/-! ### The quarantine -/

section
variable (s : State) (n : Block)

theorem State.quarantineBlock_only : s.quarantineBlock n =
    ({ s with quarantine := (s.quarantineBlock n).quarantine, free := (s.quarantineBlock n).free : State }).signalsOf
      (s.quarantineBlock n) := by
  unfold State.quarantineBlock
  split
  · rfl
  · split
    · rfl
    · rw [State.returnBlocks_signals]
      rfl

/-- The block is in the quarantine, which is no longer than its size (R18). -/
theorem State.quarantineBlock_mem : n ∈ (s.quarantineBlock n).quarantine ∧
    (s.quarantineBlock n).quarantine.length ≤ max 64 s.quarantine.length := by
  by_cases hroom : s.quarantine.length < Config.quarantineSize
  · have hquarantine : s.quarantineBlock n = { s with quarantine := s.quarantine ++ [n] } := if_pos hroom
    have hsize : Config.quarantineSize = 64 := rfl
    rw [hquarantine]
    refine ⟨by simp, ?_⟩
    show (s.quarantine ++ [n]).length ≤ _
    rw [List.length_append, List.length_singleton]
    omega
  · cases hlist : s.quarantine with
    | nil => exact absurd (by rw [hlist]; exact Nat.succ_pos _) hroom
    | cons o rest =>
      have hquarantine : (s.quarantineBlock n).quarantine = rest ++ [n] := by
        unfold State.quarantineBlock
        rw [if_neg hroom]
        simp only [hlist]
        rw [State.returnBlocks_signals]
        rfl
      rw [hquarantine]
      refine ⟨by simp, ?_⟩
      simp only [List.length_append, List.length_cons, List.length_nil]
      omega

end

/-! ### The withdrawal of a block from its sheet -/

/-- The sheet without one of its blocks. -/
def unchained (n : Block) (h : Sheet) : Sheet := { h with chain := h.chain.filter fun m => decide (m ≠ n) }

section
variable (s : State) (j i : Nat) (n : Block)

theorem State.withdrawBlock_eq :
    s.withdrawBlock j i n = (s.modJob j (modSheet i (unchained n))).quarantineBlock n := rfl

theorem State.withdrawBlock_lines : (s.withdrawBlock j i n).lines = s.lines := by
  rw [State.withdrawBlock_eq, State.quarantineBlock_only]
  rfl

theorem State.withdrawBlock_job? {s : State} {j : Nat} {x : Job} (h : s.job? j = some x) :
    (s.withdrawBlock j i n).job? j = some (modSheet i (unchained n) x) := by
  rw [State.withdrawBlock_eq, State.quarantineBlock_only]
  exact s.job_modJob_self j (modSheet i (unchained n)) x h fun _ => rfl

theorem State.withdrawBlock_mem : n ∈ (s.withdrawBlock j i n).quarantine ∧
    (s.withdrawBlock j i n).quarantine.length ≤ max 64 s.quarantine.length :=
  (s.modJob j (modSheet i (unchained n))).quarantineBlock_mem n

theorem State.inChain_iff : s.inChain j i n = true ↔
    ∃ x h, s.job? j = some x ∧ sheetOf x i = some h ∧ n ∈ h.chain := by
  unfold State.inChain
  cases hx : s.job? j with
  | none => simp
  | some x => cases hh : sheetOf x i <;> simp [hh]

end

/-! ### The failure of a read -/

/-- The reference of a burst's sheet (R75). -/
def burstDetail (b : Burst) : Detail := ⟨none, some ⟨b.job, b.sheet, b.copy⟩, none, none⟩

/-- The job of a burst has failed, and the two alerts are open. -/
def State.readFailed (s : State) (b : Burst) : State :=
  ((s.kill b.job .failed).openAlert .jobFailed (.job b.job) (burstDetail b)).openAlert .dataError (.job b.job)
    (burstDetail b)

@[simp] theorem State.killed_quarantine (s : State) (x : Job) (j : Nat) (run : RunState) :
    (s.killed x j run).quarantine = s.quarantine := by
  rw [State.killed, State.leaveQuota_signals, State.unqueue_only]
  rfl

theorem State.kill_quarantine (s : State) (j : Nat) (run : RunState) : (s.kill j run).quarantine = s.quarantine := by
  cases h : s.job? j with
  | none => rw [State.kill_none run h]
  | some x =>
    rw [State.kill_only run h]
    exact s.killed_quarantine x j run

section
variable (s : State) (b : Burst)

theorem State.readFailed_signals : s.readFailed b = (s.kill b.job .failed).signalsOf (s.readFailed b) := by
  refine State.signals_self (t := s.readFailed b) ?_
  unfold State.readFailed
  rw [State.openAlert_signals, State.openAlert_signals]
  rfl

theorem State.readFailed_line (q : LineNo) : (s.readFailed b).line q = (s.kill b.job .failed).line q := by
  rw [State.readFailed_signals, State.signalsOf_line]

theorem State.readFailed_entryLine : (s.readFailed b).entryLine b.job = s.entryLine b.job := by
  rw [← s.kill_entryLine b.job .failed b.job]
  exact State.entryLine_congr (fun q => by rw [State.readFailed_line]) _

theorem State.failRead_release (h : s.entryLine b.job = none) :
    s.failRead b = (s.readFailed b).releaseStorage b.job := by
  have hfailed : s.failRead b = match (s.readFailed b).entryLine b.job with
      | some p => (s.readFailed b).requestFlush p .fail
      | none => (s.readFailed b).releaseStorage b.job := rfl
  rw [hfailed, State.readFailed_entryLine, h]

theorem State.failRead_flush {q : LineNo} (h : s.entryLine b.job = some q) :
    s.failRead b = (s.readFailed b).requestFlush q .fail := by
  have hfailed : s.failRead b = match (s.readFailed b).entryLine b.job with
      | some p => (s.readFailed b).requestFlush p .fail
      | none => (s.readFailed b).releaseStorage b.job := rfl
  rw [hfailed, State.readFailed_entryLine, h]

theorem State.failRead_cases (P : State → Prop) (hflush : ∀ q, P ((s.readFailed b).requestFlush q .fail))
    (hrelease : P ((s.readFailed b).releaseStorage b.job)) : P (s.failRead b) := by
  cases h : s.entryLine b.job with
  | none =>
    rw [s.failRead_release b h]
    exact hrelease
  | some q =>
    rw [s.failRead_flush b h]
    exact hflush q

theorem State.failRead_quarantine : (s.failRead b).quarantine = s.quarantine := by
  have hfailed : (s.readFailed b).quarantine = s.quarantine := by
    rw [State.readFailed_signals]
    exact s.kill_quarantine b.job .failed
  refine s.failRead_cases b (fun t => t.quarantine = s.quarantine) (fun q => ?_) ?_
  · rw [State.requestFlush_only]
    exact hfailed
  · rw [State.releaseStorage_quarantine]
    exact hfailed

theorem State.failRead_outside : sameOutside s (s.failRead b) := (follows_failRead s b).outside

theorem State.failRead_burst {p : LineNo} (h : (s.line p).burst = none) : ((s.failRead b).line p).burst = none := by
  have hfailed : ((s.readFailed b).line p).burst = none := by
    rw [State.readFailed_line, State.kill_line_keeps Line.burst s b.job .failed (fun _ _ _ => rfl) p, h]
  refine s.failRead_cases b (fun t => (t.line p).burst = none) (fun q => ?_) ?_
  · by_cases hq : p = q
    · subst hq
      by_cases hf : Flushable ((s.readFailed b).line p)
      · cases hp : flushPending ((s.readFailed b).line p).flush with
        | false =>
          rw [State.requestFlush_start _ hf hp, State.line_modLine_self]
          exact congrArg discardBurst hfailed
        | true =>
          rw [State.requestFlush_join _ hf hp, State.line_modLine_self]
          exact hfailed
      · rw [State.requestFlush_off _ hf]
        exact hfailed
    · rw [State.requestFlush_line_ne _ _ _ hq]
      exact hfailed
  · rw [State.line_congr (State.releaseStorage_lines _ _)]
    exact hfailed

theorem State.failRead_job {x : Job} (h : s.job? b.job = some x) (y : Job) (hy : (s.failRead b).job? b.job = some y) :
    y.run = .failed ∧ y.bound = none := by
  have hfailed : ∀ z, (s.readFailed b).job? b.job = some z → z.run = .failed ∧ z.bound = none := by
    intro z hz
    rw [State.readFailed_signals, State.signalsOf_job?, State.kill_job? _ h] at hz
    obtain rfl := Option.some.inj hz
    exact ⟨rfl, rfl⟩
  refine s.failRead_cases b (fun t => t.job? b.job = some y → y.run = .failed ∧ y.bound = none) (fun q hq => ?_)
    (fun hr => ?_) hy
  · rw [State.requestFlush_job?] at hq
    exact hfailed y hq
  · rw [State.releaseStorage_job?, if_pos rfl] at hr
    obtain ⟨z, hz, rfl⟩ := Option.map_eq_some_iff.mp hr
    exact hfailed z hz

/-- The flush that a failed read asks of the line of its job's entries. -/
theorem State.failRead_flush_line {q : LineNo} (he : s.entryLine b.job = some q) (hq : Flushable (s.line q)) :
    (flushPending (s.line q).flush = false →
      ((s.failRead b).line q).flush = ⟨false, false, true, false, false, false⟩ ∧
        ((s.failRead b).line q).inflight = (s.line q).inflight.map (fun e => { e with flushing := true }) ∧
        ((s.failRead b).line q).fifo = [] ∧
        ((s.failRead b).line q).control = (s.line q).control ++ [.cancelSheets] ∧
        ((s.failRead b).line q).flushLimit = timerStart s.settings.flushLimit) ∧
      (flushPending (s.line q).flush = true →
        ((s.failRead b).line q).flush = { (s.line q).flush with fail := true } ∧
          ((s.failRead b).line q).inflight = (s.line q).inflight ∧
          ((s.failRead b).line q).fifo = (s.line q).fifo ∧
          ((s.failRead b).line q).control = (s.line q).control) := by
  have hkeeps {α : Type} (figureOf : Line → α)
      (hf : ∀ (l : Line) (c : Option Nat) (k : Nat), figureOf { withoutJob k l with feeding := c } = figureOf l) :
      figureOf ((s.readFailed b).line q) = figureOf (s.line q) := by
    rw [State.readFailed_line]
    exact State.kill_line_keeps figureOf s b.job .failed hf q
  have hstate := hkeeps Line.state fun _ _ _ => rfl
  have hflush := hkeeps Line.flush fun _ _ _ => rfl
  have hinflight := hkeeps Line.inflight fun _ _ _ => rfl
  have hfifo := hkeeps Line.fifo fun _ _ _ => rfl
  have hcontrol := hkeeps Line.control fun _ _ _ => rfl
  have hsettings : (s.readFailed b).settings = s.settings := by
    rw [State.readFailed_signals]
    exact State.kill_settings s b.job .failed
  have hq' : Flushable ((s.readFailed b).line q) := by
    unfold Flushable at hq ⊢
    rw [hstate]
    exact hq
  rw [s.failRead_flush b he, ← hflush, ← hinflight, ← hfifo, ← hcontrol, ← hsettings]
  refine ⟨fun hf => ?_, fun hf => ?_⟩
  · rw [State.requestFlush_start _ hq' hf, State.line_modLine_self]
    exact ⟨rfl, rfl, rfl, rfl, rfl⟩
  · rw [State.requestFlush_join _ hq' hf, State.line_modLine_self]
    exact ⟨rfl, rfl, rfl, rfl⟩

end

/-! ### The end of a burst -/

section
variable {s : State} {p : LineNo} {b : Burst}

/-- The state with the engine of a burst free. -/
def State.freed (s : State) (b : Burst) : State :=
  { s with
    engine0 := if b.engine = 0 then none else s.engine0
    engine1 := if b.engine = 0 then s.engine1 else none }

theorem State.setEngine_freed (s : State) (b : Burst) : s.setEngine b.engine none = s.freed b := by
  unfold State.setEngine State.freed
  by_cases h : b.engine = 0
  · simp only [h, if_true]
  · simp only [h, if_false]

theorem burstEnd_none (h : (s.line p).burst = none) (e : Bool) : s.burstEnd p e = s := by
  unfold State.burstEnd
  rw [h]

theorem burstEnd_some (h : (s.line p).burst = some b) (e : Bool) :
    s.burstEnd p e = settleEvent s (s.completeBurst p b e) := by
  unfold State.burstEnd
  rw [h]

theorem completeBurst_discarded (h : b.discarded = true) :
    s.completeBurst p b false = (s.freed b).modLine p noBurst := by
  unfold State.completeBurst
  rw [State.setEngine_freed]
  simp [h]

theorem completeBurst_placed (h : b.discarded = false) :
    s.completeBurst p b false = (s.freed b).placeBurst p b := by
  unfold State.completeBurst
  rw [State.setEngine_freed]
  simp [h]

theorem completeBurst_error : s.completeBurst p b true = ((s.freed b).modLine p noBurst).readError b := by
  unfold State.completeBurst
  rw [State.setEngine_freed]
  rfl

/-- What a burst with a block puts on the line: the bytes of the block. -/
def placedLine (s : State) (b : Burst) (n : Block) (l : Line) : Line :=
  { l with
    burst := none
    fifo := l.fifo ++ [.data b.tag ((List.range b.count).map fun k => s.dram.read (n.val * 4096 + (b.offset % 4096 + k)))]
    inflight := l.inflight.map fun e => if e.tag = b.tag then { e with moved := e.moved + b.count } else e }

theorem placeBurst_block {n : Block} (h : b.block = some n) : s.placeBurst p b = s.modLine p (placedLine s b n) := by
  have hbytes : s.burstBytes b =
      (List.range b.count).map fun k => s.dram.read (n.val * 4096 + (b.offset % 4096 + k)) := by
    unfold State.burstBytes
    simp only [h]
    rfl
  unfold State.placeBurst
  rw [hbytes]
  simp only [h, Option.isNone_some]
  rfl

theorem steady_freedLine (f : Line → Line) (hf : ∀ l, (f l).state = l.state ∧ (f l).moveDelay = l.moveDelay) :
    Steady s ((s.freed b).modLine p f) := by
  have hfreed : Steady s (s.freed b) := .same rfl rfl rfl
  exact hfreed.trans (.modLine (s.freed b) p f hf)

theorem readError_none (h : b.block = none ∨ ∃ n, b.block = some n ∧ s.inChain b.job b.sheet n = false) :
    s.readError b = s := by
  unfold State.readError
  obtain h | ⟨n, h, hout⟩ := h
  · rw [h]
  · simp only [h, hout]
    rfl

section
variable {n : Block} {x : Job} (hblock : b.block = some n) (hin : s.inChain b.job b.sheet n = true)
  (hx : s.job? b.job = some x)
include hblock hin hx

theorem readError_eq : s.readError b = if jobKilled x = true then s.withdrawBlock b.job b.sheet n
    else (s.withdrawBlock b.job b.sheet n).failRead b := by
  have hrun : s.runIs b.job (fun r => decide (r = .failed) || decide (r = .cancelled)) = jobKilled x :=
    State.runIs_some hx _
  have herror : s.readError b = if s.inChain b.job b.sheet n = true then
      (if s.runIs b.job (fun r => decide (r = .failed) || decide (r = .cancelled)) = true
        then s.withdrawBlock b.job b.sheet n else (s.withdrawBlock b.job b.sheet n).failRead b) else s := by
    unfold State.readError
    simp only [hblock]
  rw [herror, if_pos hin, hrun]

theorem readError_quarantine : n ∈ (s.readError b).quarantine ∧
    (s.readError b).quarantine.length ≤ max 64 s.quarantine.length := by
  rw [readError_eq hblock hin hx]
  split
  · exact s.withdrawBlock_mem b.job b.sheet n
  · rw [State.failRead_quarantine]
    exact s.withdrawBlock_mem b.job b.sheet n

theorem readError_burst (h : (s.line p).burst = none) : ((s.readError b).line p).burst = none := by
  have hwithdrawn : ((s.withdrawBlock b.job b.sheet n).line p).burst = none := by
    rw [State.line_congr (s.withdrawBlock_lines b.job b.sheet n)]
    exact h
  rw [readError_eq hblock hin hx]
  split
  · exact hwithdrawn
  · exact State.failRead_burst _ b hwithdrawn

end

end

/-- The line of a failed job's entries, with no flush pending and with one (R75, R57). -/
def FailFlushed (t : Settings) (l m : Line) : Prop :=
  (flushPending l.flush = false → m.flush = ⟨false, false, true, false, false, false⟩ ∧
    m.inflight = l.inflight.map (fun e => { e with flushing := true }) ∧
    m.fifo = [] ∧ m.control = l.control ++ [.cancelSheets] ∧ m.flushLimit = timerStart t.flushLimit) ∧
  (flushPending l.flush = true → m.flush = { l.flush with fail := true } ∧
    m.inflight = l.inflight ∧ m.fifo = l.fifo ∧ m.control = l.control)

/-- The state in which a burst has ended without placing anything. -/
def State.burstGone (s : State) (p : LineNo) (b : Burst) : State := (s.freed b).modLine p noBurst

section
variable {s : State} {p : LineNo} {b : Burst}

theorem burstGone_line_keeps {α : Type} (figureOf : Line → α) (hf : ∀ l, figureOf (noBurst l) = figureOf l) (n : Block)
    (q : LineNo) : figureOf (((s.burstGone p b).withdrawBlock b.job b.sheet n).line q) = figureOf (s.line q) := by
  rw [State.line_congr (State.withdrawBlock_lines _ _ _ _)]
  exact (s.freed b).line_modLine_keeps figureOf p noBurst hf q

theorem burstGone_entryLine (n : Block) :
    ((s.burstGone p b).withdrawBlock b.job b.sheet n).entryLine b.job = s.entryLine b.job :=
  State.entryLine_congr (burstGone_line_keeps Line.inflight (fun _ => rfl) n) _

theorem burstGone_settings (n : Block) : ((s.burstGone p b).withdrawBlock b.job b.sheet n).settings = s.settings := by
  rw [State.withdrawBlock_eq, State.quarantineBlock_only]
  rfl

theorem burstGone_release (n : Block) (he : s.hasEntries b.job = false) :
    ((s.burstGone p b).withdrawBlock b.job b.sheet n).failRead b =
      (((s.burstGone p b).withdrawBlock b.job b.sheet n).readFailed b).releaseStorage b.job :=
  State.failRead_release _ b ((burstGone_entryLine n).trans (State.entryLine_none he))

theorem burstGone_flush (n : Block) {q : LineNo} (he : s.entryLine b.job = some q) :
    ((s.burstGone p b).withdrawBlock b.job b.sheet n).failRead b =
      (((s.burstGone p b).withdrawBlock b.job b.sheet n).readFailed b).requestFlush q .fail :=
  State.failRead_flush _ b ((burstGone_entryLine n).trans he)

/-- The flush that the failure of a read asks for, seen from the state before the burst's end. -/
theorem burstGone_failFlushed {n : Block} {q : LineNo} (he : s.entryLine b.job = some q) (hq : Flushable (s.line q)) :
    FailFlushed s.settings (s.line q)
      ((((s.burstGone p b).withdrawBlock b.job b.sheet n).failRead b).line q) := by
  have hstate := burstGone_line_keeps (s := s) (p := p) (b := b) Line.state (fun _ => rfl) n q
  have hflush := burstGone_line_keeps (s := s) (p := p) (b := b) Line.flush (fun _ => rfl) n q
  have hinflight := burstGone_line_keeps (s := s) (p := p) (b := b) Line.inflight (fun _ => rfl) n q
  have hfifo := burstGone_line_keeps (s := s) (p := p) (b := b) Line.fifo (fun _ => rfl) n q
  have hcontrol := burstGone_line_keeps (s := s) (p := p) (b := b) Line.control (fun _ => rfl) n q
  have hflushable : Flushable (((s.burstGone p b).withdrawBlock b.job b.sheet n).line q) := by
    unfold Flushable at hq ⊢
    rw [hstate]
    exact hq
  have h := State.failRead_flush_line _ b ((burstGone_entryLine n).trans he) hflushable
  rw [hflush, hinflight, hfifo, hcontrol, burstGone_settings] at h
  exact h

variable {n : Block} {x : Job} {h : Sheet} (hb : (s.line p).burst = some b) (hblock : b.block = some n)
  (hx : s.job? b.job = some x) (hh : sheetOf x b.sheet = some h) (hn : n ∈ h.chain)

theorem State.burstGone_jobs : (s.burstGone p b).jobs = s.jobs := rfl

section
include hx

theorem burstGone_job? : (s.burstGone p b).job? b.job = some x := (State.job?_congr State.burstGone_jobs _).trans hx

theorem burstGone_withdrawn (n : Block) :
    ((s.burstGone p b).withdrawBlock b.job b.sheet n).job? b.job = some (modSheet b.sheet (unchained n) x) :=
  State.withdrawBlock_job? b.sheet n (burstGone_job? hx)

include hh hn

theorem burstGone_inChain : (s.burstGone p b).inChain b.job b.sheet n = true :=
  (State.inChain_iff _ _ _ _).mpr ⟨x, h, burstGone_job? hx, hh, hn⟩

include hblock

theorem burstGone_live (hlive : jobKilled x = false) :
    (s.burstGone p b).readError b = ((s.burstGone p b).withdrawBlock b.job b.sheet n).failRead b := by
  rw [readError_eq hblock (burstGone_inChain hx hh hn) (burstGone_job? hx), if_neg (by rw [hlive]; exact Bool.false_ne_true)]

theorem burstGone_killed (hkilled : jobKilled x = true) :
    (s.burstGone p b).readError b = (s.burstGone p b).withdrawBlock b.job b.sheet n := by
  rw [readError_eq hblock (burstGone_inChain hx hh hn) (burstGone_job? hx), if_pos hkilled]

end

end

/-- Settles O59. -/
theorem burstCompletionPlacesTheBytes : Obligations.BurstCompletionPlacesTheBytes := by
  refine fun s p => ⟨fun h e => congrArg _ (burstEnd_none h e), fun b hb hw => ?_⟩
  have hcalm (f : Line → Line) (hf : ∀ l, (f l).state = l.state ∧ (f l).moveDelay = l.moveDelay) {e : Bool}
      (hend : s.completeBurst p b e = (s.freed b).modLine p f) :
      exec (.burstCompletion p e) s = .next ((s.freed b).modLine p f).refreshIdle :=
    congrArg _ ((burstEnd_some hb e).trans (by rw [hend]; exact (steady_freedLine f hf).settled hw))
  refine ⟨fun hd => hcalm noBurst (fun _ => ⟨rfl, rfl⟩) (completeBurst_discarded hd), fun n hd hblock => ?_,
    fun n x h hblock hx hh hn => ?_, fun hnone => ?_⟩
  · exact hcalm (placedLine s b n) (fun _ => ⟨rfl, rfl⟩) ((completeBurst_placed hd).trans (placeBurst_block hblock))
  · have hin := burstGone_inChain (p := p) hx hh hn
    have hjob := burstGone_job? (p := p) hx
    have hline : ((s.burstGone p b).line p).burst = none := by
      rw [State.burstGone, State.line_modLine_self]
      rfl
    obtain ⟨hmem, hlength⟩ := readError_quarantine hblock hin hjob
    obtain ⟨-, -, -, -, -, -, hdram, -, hengine0, hengine1, -⟩ := (follows_readError (s.burstGone p b) b).outside
    have hend : exec (.burstCompletion p true) s = .next (settleEvent s ((s.burstGone p b).readError b)) :=
      congrArg _ ((burstEnd_some hb true).trans (by rw [completeBurst_error, State.burstGone]))
    refine ⟨(s.burstGone p b).readError b, hend, readError_burst hblock hin hjob hline, hengine0, hengine1, hmem, hlength,
      hdram, fun hlive y hy => ?_, fun hlive => ?_, fun hkilled => ?_⟩
    · rw [burstGone_live hblock hx hh hn hlive] at hy
      exact State.failRead_job _ b (burstGone_withdrawn hx n) y hy
    · rw [burstGone_live hblock hx hh hn hlive]
      refine ⟨fun he => ?_, fun q he => ⟨?_, fun hdown hstandby hretired => ?_⟩⟩
      · exact burstGone_release n he
      · exact burstGone_flush n he
      · exact burstGone_failFlushed he ⟨hdown, hstandby, hretired⟩
    · rw [burstGone_killed hblock hx hh hn hkilled]
      refine ⟨modSheet b.sheet (unchained n) x, burstGone_withdrawn hx n, rfl, ?_⟩
      rw [sheetOf_modSheet b.sheet b.sheet (unchained n) fun _ => rfl, if_pos rfl, hh]
      rfl
  · refine hcalm noBurst (fun _ => ⟨rfl, rfl⟩) ?_
    rw [completeBurst_error]
    refine readError_none (hnone.imp id fun ⟨n, hblock, hout⟩ => ⟨n, hblock, ?_⟩)
    refine Bool.eq_false_iff.mpr fun hin => ?_
    obtain ⟨x, h, hx, hh, hn⟩ := (State.inChain_iff _ _ _ _).mp hin
    exact hout x h hx hh hn

end Sys2Proof.Machine
end

-- O52: the reports of a printer, the conditions they raise and clear.
section
namespace Sys2Proof.Machine

/-! ### The pattern of a row -/

theorem take_eq_take_iff {n : Nat} {r : List Byte} {v : Vector Byte 8} (hn : n ≤ 8) :
    r.take n = v.toList.take n ↔ ∀ i : Fin 8, i.val < n → r[i.val]? = some v[i] := by
  constructor
  · intro h i hi
    have hat := congrArg (fun l : List Byte => l[i.val]?) h
    rw [List.getElem?_take_of_lt hi, List.getElem?_take_of_lt hi, Vector.getElem?_toList] at hat
    rw [hat]
    exact Vector.getElem?_eq_getElem i.isLt
  · intro h
    refine List.ext_getElem? fun k => ?_
    by_cases hk : k < n
    · rw [List.getElem?_take_of_lt hk, List.getElem?_take_of_lt hk, Vector.getElem?_toList]
      exact (h ⟨k, by omega⟩ hk).trans (Vector.getElem?_eq_getElem (by omega)).symm
    · rw [List.getElem?_take_eq_none (by omega), List.getElem?_take_eq_none (by omega)]

theorem patternMatches_iff {p : LineNo} {report : List Byte} {r : PatternRow} (h : r.length ≤ 8) :
    patternMatches p report r = true ↔ (r.valid = true ∧ r.scope.getLsbD p = true ∧ r.length ≤ report.length ∧
      ∀ i : Fin 8, i.val < r.length → report[i.val]? = some r.bytes[i]) := by
  unfold patternMatches
  simp only [Bool.and_eq_true, decide_eq_true_eq, and_assoc]
  exact and_congr_right fun _ => and_congr_right fun _ => and_congr_right fun _ => take_eq_take_iff h

/-! ### A flush request, seen on the line -/

/-- A line after a flush request (R57). -/
def requestedLine (t : Settings) (u : Purpose) (l : Line) : Line :=
  if l.state = .down ∨ l.state = .standby ∨ l.state = .retired then l
  else if flushPending l.flush then flushJoinLine u l
  else flushStartLine t u l

theorem State.requestFlush_line_self (s : State) (p : LineNo) (u : Purpose) :
    (s.requestFlush p u).line p = requestedLine s.settings u (s.line p) := by
  unfold State.requestFlush requestedLine
  split
  · rfl
  · split <;> exact s.line_modLine_self p _

/-- What a flush request leaves as it is. -/
theorem requestedLine_keeps {α : Type} (figureOf : Line → α) (t : Settings) (u : Purpose) (l : Line)
    (hstart : figureOf (flushStartLine t u l) = figureOf l) (hjoin : figureOf (flushJoinLine u l) = figureOf l) :
    figureOf (requestedLine t u l) = figureOf l := by
  unfold requestedLine
  split
  · rfl
  · split
    · exact hjoin
    · exact hstart

section
variable {t : Settings} {u : Purpose} {l : Line} (h : Flushable l)
include h

theorem requestedLine_join (hf : flushPending l.flush = true) : requestedLine t u l = flushJoinLine u l := by
  obtain ⟨hdown, hstandby, hretired⟩ := h
  exact (if_neg (by simp [hdown, hstandby, hretired])).trans (if_pos hf)

theorem requestedLine_start (hf : flushPending l.flush = false) : requestedLine t u l = flushStartLine t u l := by
  obtain ⟨hdown, hstandby, hretired⟩ := h
  exact (if_neg (by simp [hdown, hstandby, hretired])).trans (if_neg (by rw [hf]; exact Bool.false_ne_true))

theorem requestedLine_flush : (requestedLine t u l).flush =
    addPurpose u (if flushPending l.flush = true then l.flush else Purposes.none) := by
  cases hf : flushPending l.flush with
  | true =>
    rw [requestedLine_join h hf]
    rfl
  | false =>
    rw [requestedLine_start h hf]
    rfl

theorem requestedLine_block (hb : l.state = .blocked) : (requestedLine t u l).flushedDuringBlock = true := by
  have hblocked : (l.flushedDuringBlock || decide (l.state = .blocked)) = true := by simp [hb]
  cases hf : flushPending l.flush with
  | true =>
    rw [requestedLine_join h hf]
    exact hblocked
  | false =>
    rw [requestedLine_start h hf]
    exact hblocked

end

/-! ### The effect of a raised condition (R145, R146) -/

/-- What a raised condition does to its line. -/
def effectLine (t : Settings) (k : Condition) (l : Line) : Line :=
  match k, l.state with
  | .supplyLow, _ => l
  | .jam, .ready => requestedLine t .block (blockedLine t .ready l)
  | .jam, .waking => requestedLine t .block (blockedLine t .waking l)
  | .jam, .blocked => requestedLine t .block l
  | _, .retiring => requestedLine t .retire l
  | _, .ready => blockedLine t .ready l
  | _, .waking => blockedLine t .waking l
  | _, _ => l

/-- The effect of a raised condition on the state. -/
def State.conditionEffect (s : State) (p : LineNo) : Condition → State
  | .jam => s.jamEffect p
  | .doorOpen => s.stopEffect p
  | .mediaOut => s.stopEffect p
  | .supplyLow => s

/-- Whether a raised condition blocks the line, which counts. -/
def blocks (k : Condition) (l : Line) : Prop := k ≠ .supplyLow ∧ (l.state = .ready ∨ l.state = .waking)

section
variable (s : State) (p : LineNo) (k : Condition)

theorem State.enterBlocked_line_self (o : BlockOrigin) :
    (s.enterBlocked p o).line p = blockedLine s.settings o (s.line p) := s.line_modLine_self p _

theorem State.enterBlocked_line_ne (o : BlockOrigin) {q : LineNo} (h : q ≠ p) : (s.enterBlocked p o).line q = s.line q :=
  s.line_modLine_ne (blockedLine s.settings o) h

theorem State.enterBlocked_meters (o : BlockOrigin) :
    (s.enterBlocked p o).meters = (s.modMeter p countBlock).meters := rfl

/-- The ways a line can take a condition that stops it. -/
theorem State.stopEffect_state :
    ((s.line p).state = .ready → s.stopEffect p = s.enterBlocked p .ready) ∧
      ((s.line p).state = .waking → s.stopEffect p = s.enterBlocked p .waking) ∧
      ((s.line p).state = .retiring → s.stopEffect p = s.requestFlush p .retire) ∧
      ((s.line p).state ≠ .ready → (s.line p).state ≠ .waking → (s.line p).state ≠ .retiring → s.stopEffect p = s) := by
  unfold State.stopEffect
  cases (s.line p).state <;> simp

theorem State.jamEffect_state :
    ((s.line p).state = .ready → s.jamEffect p = (s.enterBlocked p .ready).requestFlush p .block) ∧
      ((s.line p).state = .waking → s.jamEffect p = (s.enterBlocked p .waking).requestFlush p .block) ∧
      ((s.line p).state = .blocked → s.jamEffect p = s.requestFlush p .block) ∧
      ((s.line p).state = .retiring → s.jamEffect p = s.requestFlush p .retire) ∧
      ((s.line p).state = .standby ∨ (s.line p).state = .down ∨ (s.line p).state = .retired → s.jamEffect p = s) := by
  unfold State.jamEffect
  cases (s.line p).state <;> simp

theorem State.stopEffect_line_self (hk : k = .doorOpen ∨ k = .mediaOut) :
    (s.stopEffect p).line p = effectLine s.settings k (s.line p) := by
  unfold State.stopEffect effectLine
  obtain rfl | rfl := hk <;> cases (s.line p).state <;> simp only [State.enterBlocked_line_self, State.requestFlush_line_self]

theorem State.jamEffect_line_self : (s.jamEffect p).line p = effectLine s.settings .jam (s.line p) := by
  unfold State.jamEffect effectLine
  cases (s.line p).state <;> simp only [State.enterBlocked_line_self, State.requestFlush_line_self] <;> rfl

theorem State.conditionEffect_line_self :
    (s.conditionEffect p k).line p = effectLine s.settings k (s.line p) := by
  cases k with
  | jam => exact s.jamEffect_line_self p
  | doorOpen => exact s.stopEffect_line_self p .doorOpen (.inl rfl)
  | mediaOut => exact s.stopEffect_line_self p .mediaOut (.inr rfl)
  | supplyLow => rfl

theorem State.stopEffect_cases (P : State → Prop) (hsame : P s) (hblock : ∀ o, P (s.enterBlocked p o))
    (hflush : ∀ u, P (s.requestFlush p u)) : P (s.stopEffect p) := by
  unfold State.stopEffect
  cases (s.line p).state with
  | ready => exact hblock .ready
  | waking => exact hblock .waking
  | retiring => exact hflush .retire
  | blocked => exact hsame
  | standby => exact hsame
  | down => exact hsame
  | retired => exact hsame

theorem State.jamEffect_cases (P : State → Prop) (hsame : P s)
    (hblock : ∀ o, P ((s.enterBlocked p o).requestFlush p .block)) (hflush : ∀ u, P (s.requestFlush p u)) :
    P (s.jamEffect p) := by
  unfold State.jamEffect
  cases (s.line p).state with
  | ready => exact hblock .ready
  | waking => exact hblock .waking
  | blocked => exact hflush .block
  | retiring => exact hflush .retire
  | standby => exact hsame
  | down => exact hsame
  | retired => exact hsame

theorem State.conditionEffect_cases (P : State → Prop) (hsame : P s) (hblock : ∀ o, P (s.enterBlocked p o))
    (hflushed : ∀ o, P ((s.enterBlocked p o).requestFlush p .block)) (hflush : ∀ u, P (s.requestFlush p u)) :
    P (s.conditionEffect p k) := by
  cases k with
  | jam => exact s.jamEffect_cases p P hsame hflushed hflush
  | doorOpen => exact s.stopEffect_cases p P hsame hblock hflush
  | mediaOut => exact s.stopEffect_cases p P hsame hblock hflush
  | supplyLow => exact hsame

theorem State.conditionEffect_line_ne {q : LineNo} (h : q ≠ p) : (s.conditionEffect p k).line q = s.line q := by
  refine s.conditionEffect_cases p k (fun t => t.line q = s.line q) rfl (fun o => s.enterBlocked_line_ne p o h)
    (fun o => ?_) fun u => s.requestFlush_line_ne p u h
  rw [State.requestFlush_line_ne _ p _ h, s.enterBlocked_line_ne p o h]

theorem State.conditionEffect_only : s.conditionEffect p k =
    { s with lines := (s.conditionEffect p k).lines, meters := (s.conditionEffect p k).meters } := by
  refine s.conditionEffect_cases p k (fun t => t = { s with lines := t.lines, meters := t.meters }) rfl (fun _ => rfl)
    (fun o => ?_) fun u => ?_
  · rw [State.requestFlush_only]
    rfl
  · rw [State.requestFlush_only]

/-- A line that a condition blocks counts the block, and no other does (R145). -/
theorem State.conditionEffect_meters :
    (blocks k (s.line p) → (s.conditionEffect p k).meters = (s.modMeter p countBlock).meters) ∧
      (¬blocks k (s.line p) → (s.conditionEffect p k).meters = s.meters) := by
  obtain ⟨hready, hwaking, hretiring, hother⟩ := s.stopEffect_state p
  obtain ⟨jready, jwaking, jblocked, jretiring, jother⟩ := s.jamEffect_state p
  have hstop : ((s.line p).state = .ready ∨ (s.line p).state = .waking →
        (s.stopEffect p).meters = (s.modMeter p countBlock).meters) ∧
      (¬((s.line p).state = .ready ∨ (s.line p).state = .waking) → (s.stopEffect p).meters = s.meters) := by
    refine ⟨fun h => ?_, fun h => ?_⟩
    · obtain h | h := h
      · rw [hready h, State.enterBlocked_meters]
      · rw [hwaking h, State.enterBlocked_meters]
    · by_cases hr : (s.line p).state = .retiring
      · rw [hretiring hr, State.requestFlush_meters]
      · rw [hother (fun hc => h (.inl hc)) (fun hc => h (.inr hc)) hr]
  have hjam : ((s.line p).state = .ready ∨ (s.line p).state = .waking →
        (s.jamEffect p).meters = (s.modMeter p countBlock).meters) ∧
      (¬((s.line p).state = .ready ∨ (s.line p).state = .waking) → (s.jamEffect p).meters = s.meters) := by
    refine ⟨fun h => ?_, fun h => ?_⟩
    · obtain h | h := h
      · rw [jready h, State.requestFlush_meters, State.enterBlocked_meters]
      · rw [jwaking h, State.requestFlush_meters, State.enterBlocked_meters]
    · cases hs : (s.line p).state with
      | ready => exact absurd (.inl hs) h
      | waking => exact absurd (.inr hs) h
      | blocked => rw [jblocked hs, State.requestFlush_meters]
      | retiring => rw [jretiring hs, State.requestFlush_meters]
      | standby => rw [jother (.inl hs)]
      | down => rw [jother (.inr (.inl hs))]
      | retired => rw [jother (.inr (.inr hs))]
  unfold blocks
  cases k with
  | jam => exact ⟨fun h => hjam.1 h.2, fun h => hjam.2 fun hc => h ⟨Condition.noConfusion, hc⟩⟩
  | doorOpen => exact ⟨fun h => hstop.1 h.2, fun h => hstop.2 fun hc => h ⟨Condition.noConfusion, hc⟩⟩
  | mediaOut => exact ⟨fun h => hstop.1 h.2, fun h => hstop.2 fun hc => h ⟨Condition.noConfusion, hc⟩⟩
  | supplyLow => exact ⟨fun h => absurd rfl h.1, fun _ => rfl⟩

end

end Sys2Proof.Machine
end

-- O52: the statement.
section
namespace Sys2Proof.Machine

/-! ### The line that a raised condition leaves -/

theorem requestedLine_state (t : Settings) (u : Purpose) (l : Line) : (requestedLine t u l).state = l.state :=
  requestedLine_keeps Line.state t u l rfl rfl

theorem effectLine_conditions (t : Settings) (k : Condition) (l : Line) :
    (effectLine t k l).conditions = l.conditions ∧ (effectLine t k l).jamTag = l.jamTag := by
  have hrequested (u : Purpose) (m : Line) : (requestedLine t u m).conditions = m.conditions ∧
      (requestedLine t u m).jamTag = m.jamTag :=
    ⟨requestedLine_keeps Line.conditions t u m rfl rfl, requestedLine_keeps Line.jamTag t u m rfl rfl⟩
  unfold effectLine
  split
  · exact ⟨rfl, rfl⟩
  · exact hrequested .block (blockedLine t .ready l)
  · exact hrequested .block (blockedLine t .waking l)
  · exact hrequested _ l
  · exact hrequested _ l
  · exact ⟨rfl, rfl⟩
  · exact ⟨rfl, rfl⟩
  · exact ⟨rfl, rfl⟩

section
variable (t : Settings) {k : Condition} {l : Line}

/-- The line that a jam has just blocked: what the flush request makes of it. -/
theorem blockedLine_flushable (o : BlockOrigin) (l : Line) : Flushable (blockedLine t o l) :=
  ⟨LineState.noConfusion, LineState.noConfusion, LineState.noConfusion⟩

theorem effectLine_blocks {o : BlockOrigin} (hk : k ≠ .supplyLow)
    (hl : (l.state = .ready ∧ o = .ready) ∨ (l.state = .waking ∧ o = .waking)) :
    effectLine t k l = if k = .jam then requestedLine t .block (blockedLine t o l) else blockedLine t o l := by
  obtain ⟨h, rfl⟩ | ⟨h, rfl⟩ := hl <;>
  · unfold effectLine
    cases k with
    | jam => simp only [h, if_true]
    | doorOpen => simp [h]
    | mediaOut => simp [h]
    | supplyLow => exact absurd rfl hk

theorem effectLine_ready (hk : k ≠ .supplyLow) (h : l.state = .ready) :
    (effectLine t k l).state = .blocked ∧ (effectLine t k l).blockOrigin = some .ready ∧
      (k = .jam → flushPending l.flush = false →
        (effectLine t k l).flush = addPurpose .block Purposes.none ∧ (effectLine t k l).fifo = [] ∧
          (effectLine t k l).control = l.control ++ [.cancelSheets] ∧ (effectLine t k l).flushedDuringBlock = true ∧
          (effectLine t k l).inflight = l.inflight.map fun e => { e with flushing := true }) ∧
      (k ≠ .jam → (effectLine t k l).flush = l.flush ∧ (effectLine t k l).fifo = l.fifo ∧
        (effectLine t k l).inflight = l.inflight ∧ (effectLine t k l).control = l.control) := by
  rw [effectLine_blocks t hk (.inl ⟨h, rfl⟩)]
  by_cases hjam : k = .jam
  · rw [if_pos hjam]
    refine ⟨requestedLine_state t .block _, requestedLine_keeps Line.blockOrigin t .block _ rfl rfl, fun _ hf => ?_,
      fun hnot => absurd hjam hnot⟩
    rw [requestedLine_start (blockedLine_flushable t .ready l) hf]
    exact ⟨rfl, rfl, rfl, by simp [flushStartLine, blockedLine], rfl⟩
  · rw [if_neg hjam]
    exact ⟨rfl, rfl, fun hk => absurd hk hjam, fun _ => ⟨rfl, rfl, rfl, rfl⟩⟩

theorem addPurpose_block (q : Purposes) : (addPurpose .block q).block = true := rfl

theorem effectLine_waking (hk : k ≠ .supplyLow) (h : l.state = .waking) :
    (effectLine t k l).state = .blocked ∧ (effectLine t k l).blockOrigin = some .waking ∧
      (effectLine t k l).settle = .stopped ∧ (effectLine t k l).wakeLimit = .stopped ∧
      (effectLine t k l).moveDelay = .running t.moveDelay ∧
      (k = .jam → (effectLine t k l).flush.block = true ∧ (effectLine t k l).flushedDuringBlock = true) ∧
      (k ≠ .jam → (effectLine t k l).flush = l.flush) := by
  rw [effectLine_blocks t hk (.inr ⟨h, rfl⟩)]
  by_cases hjam : k = .jam
  · rw [if_pos hjam]
    refine ⟨requestedLine_state t .block _, requestedLine_keeps Line.blockOrigin t .block _ rfl rfl,
      requestedLine_keeps Line.settle t .block _ rfl rfl, requestedLine_keeps Line.wakeLimit t .block _ rfl rfl,
      requestedLine_keeps Line.moveDelay t .block _ rfl rfl, fun _ => ⟨?_, ?_⟩, fun hnot => absurd hjam hnot⟩
    · rw [requestedLine_flush (blockedLine_flushable t .waking l)]
      exact addPurpose_block _
    · exact requestedLine_block (blockedLine_flushable t .waking l) rfl
  · rw [if_neg hjam]
    exact ⟨rfl, rfl, rfl, rfl, rfl, fun hk => absurd hk hjam, fun _ => rfl⟩

theorem effectLine_blocked (h : l.state = .blocked) :
    (effectLine t k l).state = .blocked ∧ (effectLine t k l).blockOrigin = l.blockOrigin ∧
      (effectLine t k l).moveDelay = l.moveDelay ∧
      (k = .jam → (effectLine t k l).flush =
          addPurpose .block (if flushPending l.flush = true then l.flush else Purposes.none) ∧
        (effectLine t k l).flushedDuringBlock = true) ∧
      (k ≠ .jam → (effectLine t k l).flush = l.flush ∧
        (effectLine t k l).flushedDuringBlock = l.flushedDuringBlock) := by
  by_cases hjam : k = .jam
  · have hflushable : Flushable l := by
      unfold Flushable
      simp [h]
    have hline : effectLine t k l = requestedLine t .block l := by
      unfold effectLine
      simp only [h, hjam]
    rw [hline]
    exact ⟨(requestedLine_state t .block l).trans h, requestedLine_keeps Line.blockOrigin t .block l rfl rfl,
      requestedLine_keeps Line.moveDelay t .block l rfl rfl,
      fun _ => ⟨requestedLine_flush hflushable, requestedLine_block hflushable h⟩, fun hnot => absurd hjam hnot⟩
  · have hline : effectLine t k l = l := by
      unfold effectLine
      cases k with
      | jam => exact absurd rfl hjam
      | doorOpen => simp only [h]
      | mediaOut => simp only [h]
      | supplyLow => rfl
    rw [hline]
    exact ⟨h, rfl, rfl, fun hk => absurd hk hjam, fun _ => ⟨rfl, rfl⟩⟩

theorem effectLine_standby (h : l.state = .standby) : effectLine t k l = l := by
  unfold effectLine
  cases k <;> simp only [h]

theorem effectLine_retiring (hk : k ≠ .supplyLow) (h : l.state = .retiring) :
    effectLine t k l = requestedLine t .retire l := by
  unfold effectLine
  cases k with
  | jam => simp only [h]
  | doorOpen => simp only [h]
  | mediaOut => simp only [h]
  | supplyLow => exact absurd rfl hk

theorem effectLine_supplyLow : effectLine t .supplyLow l = l := by
  unfold effectLine
  cases l.state <;> rfl

end

/-! ### A raise -/

/-- The sheet a raised condition names (R144). -/
def raisedRef (k : Condition) (l : Line) (tag : Option Byte) : Option Entry :=
  let named := match tag with
    | some g => l.inflight.find? fun e => decide (e.tag = g)
    | none => none
  match k, named with
  | .jam, some e => some e
  | .jam, none => l.inflight.head?
  | _, _ => none

/-- The detail of the alert that a raised condition opens (R142, R144). -/
def raisedDetail (k : Condition) (l : Line) (tag : Option Byte) (report : List Byte) : Detail :=
  ⟨some report, (raisedRef k l tag).map fun e => ⟨e.job, e.sheet, e.copy⟩, none, none⟩

/-- The line with a condition raised on it. -/
def raisedLine (r : PatternRow) (report : List Byte) (l : Line) : Line :=
  { l with
    conditions := setCondition l.conditions r.kind true
    jamTag := if r.kind = .jam then namedTag r report else l.jamTag }

section
variable {s : State} {p : LineNo} {r : PatternRow} {report : List Byte}

theorem jamRef_raised (h : r.kind = .jam) :
    jamRef (raisedLine r report (s.line p)) =
      (raisedRef .jam (s.line p) (namedTag r report)).map fun e => ⟨e.job, e.sheet, e.copy⟩ := by
  have htag : (raisedLine r report (s.line p)).jamTag = namedTag r report := if_pos h
  unfold jamRef raisedRef
  rw [htag]
  show (match (match namedTag r report with
    | some t => (s.line p).inflight.find? fun e => decide (e.tag = t)
    | none => none) with
    | some e => some (entryRef e)
    | none => (s.line p).inflight.head?.map entryRef) = _
  cases namedTag r report with
  | none => rfl
  | some g => cases hfind : (s.line p).inflight.find? (fun e => decide (e.tag = g)) <;> simp only [hfind] <;> rfl

theorem raiseCondition_eq : s.raiseCondition p r report =
    ((s.modLine p (raisedLine r report)).openAlert (conditionAlert r.kind) (.printer p)
      (raisedDetail r.kind (s.line p) (namedTag r report) report)).conditionEffect p r.kind := by
  unfold State.raiseCondition
  cases h : r.kind with
  | jam =>
    have hline : ((s.modLine p fun l => { l with conditions := setCondition l.conditions .jam true }).modLine p fun l =>
        { l with jamTag := namedTag r report }) = s.modLine p (raisedLine r report) := by
      rw [State.modLine_modLine]
      exact State.modLine_congr s p (by simp [raisedLine, h])
    simp only [hline, State.line_modLine_self, jamRef_raised h]
    rfl
  | doorOpen =>
    have hline : (s.modLine p fun l => { l with conditions := setCondition l.conditions .doorOpen true }) =
        s.modLine p (raisedLine r report) := State.modLine_congr s p (by simp [raisedLine, h])
    simp only [hline]
    rfl
  | mediaOut =>
    have hline : (s.modLine p fun l => { l with conditions := setCondition l.conditions .mediaOut true }) =
        s.modLine p (raisedLine r report) := State.modLine_congr s p (by simp [raisedLine, h])
    simp only [hline]
    rfl
  | supplyLow =>
    have hline : (s.modLine p fun l => { l with conditions := setCondition l.conditions .supplyLow true }) =
        s.modLine p (raisedLine r report) := State.modLine_congr s p (by simp [raisedLine, h])
    simp only [hline]
    rfl

/-- The state in which the alert of a raised condition is open. -/
def State.raisedAlert (s : State) (p : LineNo) (r : PatternRow) (report : List Byte) : State :=
  (s.modLine p (raisedLine r report)).openAlert (conditionAlert r.kind) (.printer p)
    (raisedDetail r.kind (s.line p) (namedTag r report) report)

theorem raisedAlert_signals : s.raisedAlert p r report = (s.modLine p (raisedLine r report)).signalsOf
    (s.openAlert (conditionAlert r.kind) (.printer p) (raisedDetail r.kind (s.line p) (namedTag r report) report)) := by
  have hrelay : SameRelay s (s.modLine p (raisedLine r report)) := rfl
  exact hrelay.openAlert ..

theorem raisedAlert_line_self : (s.raisedAlert p r report).line p = raisedLine r report (s.line p) := by
  rw [raisedAlert_signals, State.signalsOf_line, State.line_modLine_self]

theorem raiseCondition_line_self : (s.raiseCondition p r report).line p =
    effectLine s.settings r.kind (raisedLine r report (s.line p)) := by
  have hsettings : (s.raisedAlert p r report).settings = s.settings := by
    rw [raisedAlert_signals]
    rfl
  rw [raiseCondition_eq, ← State.raisedAlert, State.conditionEffect_line_self, raisedAlert_line_self, hsettings]

theorem raiseCondition_line_ne {q : LineNo} (hq : q ≠ p) : (s.raiseCondition p r report).line q = s.line q := by
  rw [raiseCondition_eq, ← State.raisedAlert, State.conditionEffect_line_ne _ p _ hq, raisedAlert_signals,
    State.signalsOf_line, State.line_modLine_ne _ _ hq]

theorem raiseCondition_meters :
    (r.kind ≠ .supplyLow → (s.line p).state = .ready ∨ (s.line p).state = .waking →
      (s.raiseCondition p r report).meters[p] =
        { s.meters[p] with blocks := min (2 ^ 48 - 1) (s.meters[p].blocks + 1) }) ∧
      (¬((s.line p).state = .ready ∨ (s.line p).state = .waking) →
        (s.raiseCondition p r report).meters = s.meters) := by
  have hmeters : (s.raisedAlert p r report).meters = s.meters := by
    rw [raisedAlert_signals]
    rfl
  have hstate : ((s.raisedAlert p r report).line p).state = (s.line p).state := by
    rw [raisedAlert_line_self]
    rfl
  obtain ⟨hblocks, hnot⟩ := (s.raisedAlert p r report).conditionEffect_meters p r.kind
  rw [raiseCondition_eq, ← State.raisedAlert]
  refine ⟨fun hk h => ?_, fun h => ?_⟩
  · rw [hblocks ⟨hk, by rw [hstate]; exact h⟩, State.modMeter_self, hmeters]
    unfold countBlock
    rw [saturate_eq]
    rfl
  · rw [hnot fun hc => h (by rw [← hstate]; exact hc.2), hmeters]

theorem raiseCondition_jobs : (s.raiseCondition p r report).jobs = s.jobs := by
  rw [raiseCondition_eq, ← State.raisedAlert, State.conditionEffect_only, raisedAlert_signals]
  rfl

theorem raiseCondition_alerts : sameAlerts (s.openAlert (conditionAlert r.kind) (.printer p)
    (raisedDetail r.kind (s.line p) (namedTag r report) report)) (s.raiseCondition p r report) := by
  rw [raiseCondition_eq, ← State.raisedAlert, State.conditionEffect_only, raisedAlert_signals]
  exact ⟨rfl, rfl, rfl, rfl⟩

end

/-! ### A clear -/

/-- The line that leaves its block. -/
def unblockedLine (l : Line) : Line :=
  { l with moveDelay := .stopped, blockOrigin := none, flushedDuringBlock := false }

section
variable {s : State} {p : LineNo} {k : Condition}

theorem hasCondition_set (c : Conditions) (k : Condition) (b : Bool) : hasCondition (setCondition c k b) k = b := by
  cases k <;> rfl

theorem State.leaveBlocked_stays (h : blockingPresent (s.line p).conditions = true) : s.leaveBlocked p = s := if_pos h

theorem State.leaveBlocked_leaves (h : blockingPresent (s.line p).conditions = false) :
    s.leaveBlocked p = if (s.line p).flushedDuringBlock = true ∨ (s.line p).blockOrigin = some .waking then
      (s.modLine p unblockedLine).enterWaking p true else (s.modLine p unblockedLine).enterReady p := by
  have hleaves : s.leaveBlocked p =
      if ((s.line p).flushedDuringBlock || decide ((s.line p).blockOrigin = some .waking)) = true then
        (s.modLine p unblockedLine).enterWaking p true else (s.modLine p unblockedLine).enterReady p :=
    if_neg (by rw [h]; exact Bool.false_ne_true)
  rw [hleaves]
  simp only [Bool.or_eq_true, decide_eq_true_eq]

theorem State.leaveBlocked_alerts : sameAlerts s (s.leaveBlocked p) := by
  cases h : blockingPresent (s.line p).conditions with
  | true =>
    rw [State.leaveBlocked_stays h]
    exact ⟨rfl, rfl, rfl, rfl⟩
  | false =>
    rw [State.leaveBlocked_leaves h]
    split
    · exact State.enterWaking_alerts (s.modLine p unblockedLine) p true
    · exact ⟨rfl, rfl, rfl, rfl⟩

/-- The line after its block, when no condition blocks it (R145). -/
theorem State.leaveBlocked_line (h : blockingPresent (s.line p).conditions = false) :
    ((s.leaveBlocked p).line p).conditions = (s.line p).conditions ∧
      ((s.leaveBlocked p).line p).state =
        (if (s.line p).flushedDuringBlock = true ∨ (s.line p).blockOrigin = some .waking then .waking else .ready) ∧
      ((s.leaveBlocked p).line p).moveDelay = .stopped ∧ ((s.leaveBlocked p).line p).blockOrigin = none ∧
      (s.leaveBlocked p).passesWanted = s.passesWanted + 1 := by
  have hline : (s.modLine p unblockedLine).line p = unblockedLine (s.line p) := s.line_modLine_self p _
  have hopen : blockingPresent ((s.modLine p unblockedLine).line p).conditions = false := by
    rw [hline]
    exact h
  rw [State.leaveBlocked_leaves h]
  split
  · rw [State.enterWaking_clear true hopen, State.line_startWaking_self, hline]
    exact ⟨rfl, rfl, rfl, rfl, rfl⟩
  · rw [State.enterReady_line_self, hline]
    exact ⟨rfl, rfl, rfl, rfl, rfl⟩

theorem State.dropCondition_has (h : hasCondition (s.line p).conditions k = true) :
    s.dropCondition p k = (s.modLine p (withoutCondition k)).signalsOf (s.clearAlert (conditionAlert k) (.printer p)) := by
  have hrelay : SameRelay s (s.modLine p (withoutCondition k)) := rfl
  exact (if_pos h).trans (hrelay.clearAlert ..)

theorem State.dropCondition_line_self :
    (s.dropCondition p k).line p = withoutCondition k (s.line p) := by
  rw [State.dropCondition_signals, State.signalsOf_line, State.line_modLine_self]

theorem clearCondition_alerts (h : hasCondition (s.line p).conditions k = true) :
    sameAlerts (s.clearAlert (conditionAlert k) (.printer p)) (s.clearCondition p k) := by
  have hdrop : sameAlerts (s.clearAlert (conditionAlert k) (.printer p)) (s.dropCondition p k) := by
    rw [State.dropCondition_has h]
    exact ⟨rfl, rfl, rfl, rfl⟩
  unfold State.clearCondition
  dsimp only
  split
  · obtain ⟨h1, h2, h3, h4⟩ := hdrop
    obtain ⟨g1, g2, g3, g4⟩ := State.leaveBlocked_alerts (s := s.dropCondition p k) (p := p)
    exact ⟨g1.trans h1, g2.trans h2, g3.trans h3, g4.trans h4⟩
  · exact hdrop

/-- A clear that does not end a block. -/
theorem clearCondition_stays (h : (s.line p).state ≠ .blocked ∨ k = .supplyLow ∨
    blockingPresent (setCondition (s.line p).conditions k false) = true) : s.clearCondition p k = s.dropCondition p k := by
  have hline := State.dropCondition_line_self (s := s) (p := p) (k := k)
  unfold State.clearCondition
  dsimp only
  split
  · rename_i hc
    obtain ⟨hk, hblocked⟩ := hc
    refine State.leaveBlocked_stays ?_
    rw [hline] at hblocked ⊢
    exact (h.resolve_left (absurd hblocked)).resolve_left hk
  · rfl

/-- A clear that ends a block. -/
theorem clearCondition_leaves (hb : (s.line p).state = .blocked) (hk : k ≠ .supplyLow) :
    s.clearCondition p k = (s.dropCondition p k).leaveBlocked p := by
  refine if_pos ⟨hk, ?_⟩
  rw [State.dropCondition_line_self]
  exact hb

end

end Sys2Proof.Machine
end

-- O52: the events.
section
namespace Sys2Proof.Machine

section
variable {s : State} {p : LineNo} {r : PatternRow} {report : List Byte}

theorem statusReport_ignored (h : (s.line p).state = .down ∨ (s.line p).state = .retired) :
    s.statusReport p report = s := by
  have htakes : takesFrames (s.line p) = false := by
    unfold takesFrames
    obtain h | h := h <;> simp [h]
  exact if_neg (by rw [htakes]; exact Bool.false_ne_true)

/-- The line with the text of a report (R141). -/
def textLine (report : List Byte) (l : Line) : Line := { l with statusText := report }

theorem statusReport_taken (hdown : (s.line p).state ≠ .down) (hretired : (s.line p).state ≠ .retired) :
    s.statusReport p report = match s.pattern.toList.find? (patternMatches p report) with
      | some r => (s.modLine p (textLine report)).decideReport p r report
      | none => s.modLine p (textLine report) := by
  have htakes : takesFrames (s.line p) = true := by
    unfold takesFrames
    simp [hdown, hretired]
  exact (if_pos htakes).trans rfl

theorem exec_status (hlo : 1 ≤ report.length) (hhi : report.length ≤ 32) :
    exec (.status p report) s = .next (lineEvent p (fun t => t.statusReport p report) s) := by
  have hsized : reportSized report = true := by
    unfold reportSized
    simp [hlo, hhi]
  have hact : (fun t : State => if reportSized report = true then t.statusReport p report else t) =
      fun t => t.statusReport p report := by
    funext t
    exact if_pos hsized
  exact congrArg (fun act => Host.Outcome.next (φ := Fault) (ρ := Refusal) (lineEvent p act s)) hact

theorem decideReport_raise (hs : r.sense = .raise) (h : hasCondition (s.line p).conditions r.kind = false) :
    s.decideReport p r report = s.raiseCondition p r report := by
  unfold State.decideReport
  simp [hs, h]

theorem decideReport_clear (hs : r.sense = .clear) (h : hasCondition (s.line p).conditions r.kind = true) :
    s.decideReport p r report = s.clearCondition p r.kind := by
  unfold State.decideReport
  simp [hs, h]

theorem decideReport_same (h : (r.sense = .raise ∧ hasCondition (s.line p).conditions r.kind = true) ∨
    (r.sense = .clear ∧ hasCondition (s.line p).conditions r.kind = false)) : s.decideReport p r report = s := by
  unfold State.decideReport
  obtain ⟨hs, h⟩ | ⟨hs, h⟩ := h <;> simp [hs, h]

/-- What a raise leaves, by the state of the line (R143, R145, R146, R98). -/
theorem raise_by_state :
    let t := s.raiseCondition p r report
    hasCondition (t.line p).conditions r.kind = true ∧
      (r.kind = .supplyLow → t.lines = (s.modLine p fun l =>
        { l with conditions := setCondition l.conditions .supplyLow true }).lines) ∧
      (r.kind = .jam → (t.line p).jamTag = namedTag r report) := by
  intro t
  have hline : t.line p = effectLine s.settings r.kind (raisedLine r report (s.line p)) := raiseCondition_line_self
  obtain ⟨hconditions, htag⟩ := effectLine_conditions s.settings r.kind (raisedLine r report (s.line p))
  rw [hline]
  refine ⟨?_, fun hk => ?_, fun hk => ?_⟩
  · rw [hconditions]
    exact hasCondition_set _ r.kind true
  · have hraised : s.modLine p (raisedLine r report) =
        s.modLine p fun l => { l with conditions := setCondition l.conditions .supplyLow true } :=
      State.modLine_congr s p (by simp [raisedLine, hk])
    have heffect : s.raiseCondition p r report = s.raisedAlert p r report := by
      rw [raiseCondition_eq, ← State.raisedAlert, hk]
      rfl
    show (s.raiseCondition p r report).lines = _
    rw [heffect, raisedAlert_signals, State.signalsOf_lines, hraised]
  · rw [htag]
    exact if_pos hk

end

/-- Settles O52. -/
theorem statusRaisesAndClears : Obligations.StatusRaisesAndClears := by
  refine ⟨fun s p report hlive hlo hhi => ?_, fun p report r h => patternMatches_iff h, fun r report => ?_,
    fun s p r report => ⟨decideReport_same, ⟨rfl, rfl, rfl, rfl⟩, fun hs h => ?_, fun hs h => ?_, fun hs h => ?_,
      fun hs h => ?_⟩⟩
  · have hstate : ((s.modLine p heard).line p).state = (s.line p).state := by rw [State.line_heard, heard_state]
    rw [exec_status hlo hhi]
    refine ⟨fun h hw => ?_, fun hdown hretired => ?_⟩
    · exact congrArg _ (lineEvent_nothing hlive hw (statusReport_ignored (by rw [hstate]; exact h)))
    · have htaken := statusReport_taken (s := s.modLine p heard) (p := p) (report := report) (by rw [hstate]; exact hdown)
        (by rw [hstate]; exact hretired)
      have hpattern : (s.modLine p heard).pattern = s.pattern := rfl
      rw [hpattern] at htaken
      refine ⟨fun hnone hw => ?_, fun r hr => ?_⟩
      · rw [hnone] at htaken
        have hsteady : Steady s ((s.modLine p heard).modLine p (textLine report)) :=
          (Steady.modLine s p heard fun _ => ⟨heard_state _, rfl⟩).trans (.modLine _ p _ fun _ => ⟨rfl, rfl⟩)
        refine congrArg _ ((lineEvent_live hlive).trans ?_)
        rw [htaken]
        exact hsteady.settled hw
      · rw [hr] at htaken
        exact congrArg _ ((lineEvent_live hlive).trans (congrArg (settleEvent s) htaken))
  · unfold namedTag
    cases r.tagPos <;> rfl
  · rw [decideReport_raise hs h]
    exact raiseCondition_alerts
  · rw [decideReport_clear hs h]
    exact clearCondition_alerts h
  · rw [decideReport_raise hs h]
    obtain ⟨hhas, hsupply, htag⟩ := raise_by_state (s := s) (p := p) (r := r) (report := report)
    obtain ⟨hcounted, huncounted⟩ := raiseCondition_meters (s := s) (p := p) (r := r) (report := report)
    have hline := raiseCondition_line_self (s := s) (p := p) (r := r) (report := report)
    refine ⟨hhas, hsupply, htag, fun hk hst => ?_, fun hk hst => ?_, fun hst => ?_, fun hst => ?_, fun hk hst => ?_,
      fun q hq => raiseCondition_line_ne hq, raiseCondition_jobs⟩
    · rw [hline, hcounted hk (.inl hst)]
      obtain ⟨hstate, horigin, hjam, hother⟩ := effectLine_ready s.settings hk (l := raisedLine r report (s.line p)) hst
      exact ⟨hstate, horigin, rfl, hjam, hother⟩
    · rw [hline, hcounted hk (.inr hst)]
      obtain ⟨hstate, horigin, hsettle, hwake, hmove, hjam, hother⟩ :=
        effectLine_waking s.settings hk (l := raisedLine r report (s.line p)) hst
      exact ⟨hstate, horigin, hsettle, hwake, hmove, rfl, hjam, hother⟩
    · rw [hline, huncounted (by rw [hst]; simp)]
      obtain ⟨hstate, horigin, hmove, hjam, hother⟩ :=
        effectLine_blocked s.settings (k := r.kind) (l := raisedLine r report (s.line p)) hst
      exact ⟨hstate, horigin, hmove, rfl, hjam, hother⟩
    · rw [hline, huncounted (by rw [hst]; simp),
        effectLine_standby s.settings (k := r.kind) (l := raisedLine r report (s.line p)) hst]
      exact ⟨hst, rfl, rfl, rfl⟩
    · have hflushable : Flushable (raisedLine r report (s.line p)) := by
        show Flushable _
        unfold Flushable
        have hraised : (raisedLine r report (s.line p)).state = .retiring := hst
        simp [hraised]
      rw [hline, huncounted (by rw [hst]; simp),
        effectLine_retiring s.settings hk (l := raisedLine r report (s.line p)) hst]
      refine ⟨(requestedLine_state ..).trans hst, rfl, requestedLine_flush hflushable, fun hf => ?_⟩
      rw [requestedLine_start hflushable hf]
      exact ⟨rfl, rfl, rfl⟩
  · rw [decideReport_clear hs h]
    intro left
    have hdrop := State.dropCondition_line_self (s := s) (p := p) (k := r.kind)
    have hconditions : ((s.dropCondition p r.kind).line p).conditions = left := by
      rw [hdrop]
      rfl
    refine ⟨?_, fun hstay => ?_, fun hb hk hnone => ?_⟩
    · by_cases hstay : (s.line p).state ≠ .blocked ∨ r.kind = .supplyLow ∨ blockingPresent left = true
      · rw [clearCondition_stays hstay]
        exact hconditions
      · obtain ⟨hb, hk, hnone⟩ : (s.line p).state = .blocked ∧ r.kind ≠ .supplyLow ∧ blockingPresent left = false := by
          simpa only [not_or, Decidable.not_not, ne_eq, Bool.not_eq_true] using hstay
        rw [clearCondition_leaves hb hk]
        exact (State.leaveBlocked_line (by rw [hconditions]; exact hnone)).1.trans hconditions
    · rw [clearCondition_stays hstay, hdrop]
      rfl
    · have hpasses : (s.dropCondition p r.kind).passesWanted = s.passesWanted := by
        rw [State.dropCondition_signals]
        rfl
      obtain ⟨-, hstate, hmove, horigin, hwanted⟩ :=
        State.leaveBlocked_line (s := s.dropCondition p r.kind) (p := p) (by rw [hconditions]; exact hnone)
      rw [clearCondition_leaves hb hk, hwanted, hpasses]
      rw [hdrop] at hstate
      exact ⟨hstate, hmove, horigin, rfl⟩

end Sys2Proof.Machine
end

-- O51: what follows the confirmation of an entry.
section
namespace Sys2Proof.Machine

/-! ### The work of a job's record -/

/-- The record of a job but for its place: its cursors and its counts are the same, and it has not failed. -/
def SameWork (x z : Job) : Prop :=
  (z.run = .failed → x.run = .failed) ∧ z = { x with
    run := z.run, leaveTarget := z.leaveTarget, holdReason := z.holdReason, excluded := z.excluded, bound := z.bound,
    binding := z.binding, split := z.split, sheets := z.sheets }

theorem SameWork.refl (x : Job) : SameWork x x := ⟨id, rfl⟩

theorem SameWork.trans {x y z : Job} (h : SameWork x y) (g : SameWork y z) : SameWork x z := by
  refine ⟨fun hz => h.1 (g.1 hz), ?_⟩
  rw [g.2, h.2]

/-- The confirm cursor and the counts of the confirmed sheets are the same. -/
theorem SameWork.counts {x z : Job} (h : SameWork x z) : z.confirm = x.confirm ∧ z.noProgress = x.noProgress ∧
    z.chargedCost = x.chargedCost ∧ z.confirmedCopies = x.confirmedCopies ∧ z.confirmedSides = x.confirmedSides := by
  rw [h.2]
  exact ⟨rfl, rfl, rfl, rfl, rfl⟩

theorem sameWork_splitRule (x : Job) : SameWork x (splitRule x) := by
  unfold splitRule
  split <;> exact ⟨id, rfl⟩

theorem sameWork_waitingJob (x : Job) : SameWork x (waitingJob x) :=
  SameWork.trans (y := { x with run := .waiting, leaveTarget := none, holdReason := none })
    ⟨fun h => RunState.noConfusion h, rfl⟩ (sameWork_splitRule _)

theorem sameWork_unboundRecord (p : LineNo) (x : Job) : SameWork x (unboundRecord p x) := by
  unfold unboundRecord
  split
  · exact ⟨fun h => RunState.noConfusion h, rfl⟩
  · split
    · exact SameWork.trans (y := { unboundJob x with excluded := some p }) ⟨id, rfl⟩ (sameWork_waitingJob _)
    · exact SameWork.trans (y := unboundJob x) ⟨id, rfl⟩ (sameWork_waitingJob _)

theorem sameWork_afterChoice (l : List Nat) (c : Option Nat) (x : Job) : SameWork x (afterChoice l c x) := by
  unfold afterChoice
  split
  · exact ⟨fun h => RunState.noConfusion h, rfl⟩
  · split
    · exact ⟨fun h => RunState.noConfusion h, rfl⟩
    · exact .refl x

/-- If a job is still there, then its record has the same work. -/
def WorkKept (k : Nat) (s t : State) : Prop := ∀ z, t.job? k = some z → ∃ x, s.job? k = some x ∧ SameWork x z

section
variable {k : Nat} {s t u : State}

theorem WorkKept.trans (h : WorkKept k s t) (g : WorkKept k t u) : WorkKept k s u := by
  intro z hz
  obtain ⟨y, hy, hyz⟩ := g z hz
  obtain ⟨x, hx, hxy⟩ := h y hy
  exact ⟨x, hx, hxy.trans hyz⟩

theorem WorkKept.of_map {f : Job → Job} (hf : ∀ x, SameWork x (f x)) (h : t.job? k = (s.job? k).map f) :
    WorkKept k s t := by
  intro z hz
  rw [h] at hz
  obtain ⟨x, hx, rfl⟩ := Option.map_eq_some_iff.mp hz
  exact ⟨x, hx, hf x⟩

theorem WorkKept.same (h : t.job? k = s.job? k) : WorkKept k s t := fun z hz => ⟨z, h ▸ hz, .refl z⟩

theorem WorkKept.refl (k : Nat) (s : State) : WorkKept k s s := .same rfl

theorem WorkKept.none (h : t.job? k = none) : WorkKept k s t := fun z hz => absurd (h.symm.trans hz).symm (Option.some_ne_none z)

theorem WorkKept.foldl {β : Type} {f : State → β → State} (hf : ∀ s b, WorkKept k s (f s b)) (l : List β) (s : State) :
    WorkKept k s (l.foldl f s) := by
  induction l generalizing s with
  | nil => exact .refl k s
  | cons b l ih => exact (hf s b).trans (ih (f s b))

theorem SheetsOnly.work (h : SheetsOnly k s t) : WorkKept k s t := by
  intro z hz
  obtain ⟨x, hx, hxz⟩ := h.2 z hz
  refine ⟨x, hx, ?_⟩
  rw [hxz]
  exact ⟨id, rfl⟩

end

section
variable (s : State) (k : Nat)

theorem workKept_modJob (j : Nat) (f : Job → Job) (hf : ∀ x, (f x).number = x.number) (hw : ∀ x, SameWork x (f x)) :
    WorkKept k s (s.modJob j f) := by
  have hjob := s.job?_modJob j k f hf
  by_cases hk : k = j
  · rw [if_pos hk] at hjob
    exact .of_map hw hjob
  · rw [if_neg hk] at hjob
    exact .same hjob

theorem workKept_rechoose (p : LineNo) : WorkKept k s (s.rechoose p) :=
  .of_map (sameWork_afterChoice _ _) (s.rechoose_job? p k)

theorem workKept_unbind (p : LineNo) (j : Nat) : WorkKept k s (s.unbind p j) := by
  have hjob := s.unbind_job? p j k
  by_cases hk : k = j
  · rw [if_pos hk] at hjob
    exact .of_map (sameWork_unboundRecord p) hjob
  · rw [if_neg hk] at hjob
    exact .same hjob

theorem workKept_unbindAll (p : LineNo) : WorkKept k s (s.unbindAll p) := by
  rw [State.unbindAll_eq]
  exact (WorkKept.foldl (f := fun t j => t.unbind p j) (fun t j => workKept_unbind t k p j) _ s).trans
    (workKept_rechoose _ k p)

theorem workKept_enterRetired (p : LineNo) : WorkKept k s (s.enterRetired p) :=
  (workKept_unbindAll s k p).trans (.same (State.job?_congr (s.enterRetired_jobs p) k))

theorem workKept_unqueue (j : Nat) : WorkKept k s (s.unqueue j) := by
  cases h : s.job? j with
  | none =>
    rw [State.unqueue_none h]
    exact .refl k s
  | some x =>
    cases hb : x.bound with
    | none =>
      rw [State.unqueue_unbound h hb]
      exact .refl k s
    | some p =>
      rw [State.unqueue_bound h hb]
      exact (workKept_modJob (s.modLine p (withoutJob j)) k j unboundJob (fun _ => rfl) fun _ => ⟨id, rfl⟩).trans
        (workKept_rechoose _ k p)

theorem workKept_complete (j : Nat) : WorkKept k s (s.complete j) := by
  cases h : s.job? j with
  | none =>
    unfold State.complete
    rw [h]
    exact .refl k s
  | some x =>
    have hout : WorkKept k s ((s.unqueue j).leaveWaiting j) := workKept_unqueue s k j
    have hfinished : WorkKept k s (s.finished x j) :=
      (hout.trans (workKept_modJob _ k j doneJob (fun _ => rfl) fun _ => ⟨fun h => RunState.noConfusion h, rfl⟩)).trans
        (.same (State.leaveQuota_job? _ x.account j k))
    cases hr : x.retain with
    | true =>
      rw [State.complete_retained h hr]
      exact hfinished
    | false =>
      rw [State.complete_purged h hr]
      refine hfinished.trans ?_
      have hpurge := (s.finished x j).purge_job? j k
      by_cases hk : k = j
      · rw [if_pos hk] at hpurge
        exact .none hpurge
      · rw [if_neg hk] at hpurge
        exact .same hpurge

theorem workKept_endLeaving (j : Nat) : WorkKept k s (s.endLeaving j) := by
  unfold State.endLeaving
  split
  · exact .refl k s
  · split
    · split
      · exact workKept_complete s k j
      · split
        · exact (workKept_unbind s k _ j).trans (workKept_rechoose _ k _)
        · exact .refl k s
    · exact .refl k s

end

/-! ### Which jobs have entries -/

theorem State.hasEntries_iff (s : State) (j : Nat) :
    s.hasEntries j = true ↔ ∃ q, ∃ e ∈ (s.line q).inflight, e.job = j := by
  unfold State.hasEntries State.entryLine
  rw [List.find?_isSome]
  constructor
  · rintro ⟨q, -, hq⟩
    obtain ⟨e, he⟩ := List.exists_mem_of_ne_nil (s.entriesOn q j) (by simpa using hq)
    obtain ⟨hmem, hjob⟩ := List.mem_filter.mp he
    exact ⟨q, e, hmem, of_decide_eq_true hjob⟩
  · rintro ⟨q, e, he, hjob⟩
    refine ⟨q, mem_allLines q, ?_⟩
    have hmem : e ∈ s.entriesOn q j := List.mem_filter.mpr ⟨he, decide_eq_true hjob⟩
    simpa using List.ne_nil_of_mem hmem

/-! ### The follow-up of a job's run state (R54 step 6) -/

section
variable {s : State} {j : Nat} {x : Job} (h : s.job? j = some x)
include h

theorem followUp_complete (hrun : x.run = .draining) (hend : atEnd x x.confirm = true) : s.followUp j = s.complete j := by
  unfold State.followUp
  simp only [h]
  exact if_pos ⟨hrun, hend⟩

theorem followUp_leaving (hrun : x.run = .leaving) : s.followUp j = s.endLeaving j := by
  unfold State.followUp
  simp only [h]
  exact (if_neg fun hc => by rw [hrun] at hc; exact RunState.noConfusion hc.1).trans (if_pos hrun)

theorem followUp_other (hend : ¬(x.run = .draining ∧ atEnd x x.confirm = true)) (hrun : x.run ≠ .leaving) :
    s.followUp j = s.releaseIfKilled j := by
  unfold State.followUp
  simp only [h]
  exact (if_neg hend).trans (if_neg hrun)

theorem followUp_release (hk : jobKilled x = true) (he : s.hasEntries j = false) : s.followUp j = s.releaseStorage j := by
  have hrun : x.run ≠ .draining ∧ x.run ≠ .leaving := by
    unfold jobKilled at hk
    simp only [Bool.or_eq_true, decide_eq_true_eq] at hk
    obtain hk | hk := hk <;> rw [hk] <;> exact ⟨RunState.noConfusion, RunState.noConfusion⟩
  rw [followUp_other h (fun hc => hrun.1 hc.1) hrun.2]
  unfold State.releaseIfKilled
  simp only [h, hk, he]
  rfl

/-- A job that neither ends nor leaves its printer keeps its place. -/
theorem followUp_same (hend : ¬(x.run = .draining ∧ atEnd x x.confirm = true))
    (hleaving : x.run = .leaving → s.hasEntries j = true) (hkilled : jobKilled x = true → s.hasEntries j = true) :
    s.followUp j = s := by
  by_cases hrun : x.run = .leaving
  · rw [followUp_leaving h hrun, State.endLeaving_entries (hleaving hrun)]
  · rw [followUp_other h hend hrun]
    unfold State.releaseIfKilled
    simp only [h]
    refine if_neg fun hc => ?_
    simp only [Bool.and_eq_true, Bool.not_eq_true'] at hc
    obtain ⟨hk, he⟩ := hc
    rw [hkilled hk] at he
    exact Bool.noConfusion he

end

theorem State.followUp_cases (P : State → Prop) (s : State) (j : Nat) (hsame : P s) (hcomplete : P (s.complete j))
    (hleave : P (s.endLeaving j)) (hrelease : P (s.releaseStorage j)) : P (s.followUp j) := by
  unfold State.followUp
  split
  · split
    · exact hcomplete
    · split
      · exact hleave
      · exact s.releaseIfKilled_cases j P hsame hrelease
  · exact hsame

section
variable (s : State) (j : Nat)

theorem workKept_followUp : WorkKept j s (s.followUp j) :=
  State.followUp_cases (WorkKept j s) s j (.refl j s) (workKept_complete s j j) (workKept_endLeaving s j j)
    (sheetsOnly_releaseStorage s j j).work

theorem queuesOnly_followUp : QueuesOnly s (s.followUp j) :=
  State.followUp_cases (QueuesOnly s) s j (.refl s) (queuesOnly_complete s j) (queuesOnly_endLeaving s j)
    (.same (s.releaseStorage_lines j))

theorem steady_followUp : Steady s (s.followUp j) :=
  State.followUp_cases (Steady s) s j (.refl s) (steady_complete s j) (steady_endLeaving s j) (steady_releaseStorage s j)

theorem State.endLeaving_cases (P : State → Prop) (hsame : P s) (hcomplete : P (s.complete j))
    (hunbind : ∀ x q, s.job? j = some x → x.bound = some q → P ((s.unbind q j).rechoose q)) : P (s.endLeaving j) := by
  unfold State.endLeaving
  split
  · exact hsame
  · rename_i x hx
    split
    · split
      · exact hcomplete
      · split
        · rename_i q hq
          exact hunbind x q hx hq
        · exact hsame
    · exact hsame

theorem State.endLeaving_meters : (s.endLeaving j).meters = s.meters :=
  s.endLeaving_cases j (fun t => t.meters = s.meters) rfl (s.complete_meters j) fun _ q _ _ =>
    (s.unbind_lists q j).meters

theorem State.followUp_meters : (s.followUp j).meters = s.meters :=
  State.followUp_cases (fun t => t.meters = s.meters) s j rfl (s.complete_meters j) (s.endLeaving_meters j)
    (s.releaseStorage_meters j)

variable {s j} {x : Job} (h : s.job? j = some x) {q : LineNo}
include h

omit h in
theorem State.finished_line : (s.finished x j).line q = (s.unqueue j).line q := by
  rw [State.finished, State.leaveQuota_line]
  rfl

theorem State.complete_line : (s.complete j).line q =
    if x.bound = some q then { withoutJob j (s.line q) with feeding := (s.unbound q j).feedingChoice q } else s.line q := by
  have hfinished := State.finished_line (s := s) (j := j) (x := x) (q := q)
  rw [State.unqueue_line h q] at hfinished
  cases hr : x.retain with
  | true => rw [State.complete_retained h hr, hfinished]
  | false => rw [State.complete_purged h hr, State.line_congr (State.purge_lines _ j), hfinished]

theorem State.complete_queue (hb : x.bound = some q) : j ∉ ((s.complete j).line q).queue := by
  rw [State.complete_line h, if_pos hb]
  show j ∉ without j (s.line q).queue
  simp [without]

omit h in
theorem State.unbind_line_ne {r : LineNo} (hr : r ≠ q) : ((s.unbind q j).rechoose q).line r = s.line r := by
  rw [State.rechoose_line_ne _ q hr]
  have hsame := State.unbindList_line_ne s q (l := [j]) hr
  exact hsame

/-- Only the line to which the job is bound changes. -/
theorem State.followUp_line_ne (hq : x.bound ≠ some q) : (s.followUp j).line q = s.line q := by
  have hcomplete : (s.complete j).line q = s.line q := by rw [State.complete_line h, if_neg hq]
  refine State.followUp_cases (fun t => t.line q = s.line q) s j rfl hcomplete ?_
    (State.line_congr (s.releaseStorage_lines j) q)
  refine s.endLeaving_cases j (fun t => t.line q = s.line q) rfl hcomplete fun y r hy hr => ?_
  have hqr : q ≠ r := fun he => hq (by rw [he, ← hr, Option.some.inj (h.symm.trans hy)])
  exact State.unbind_line_ne hqr

end

/-! ### A line that may retire -/

/-- A RETIRING line without entries and without a flush (R73). -/
def Retires (l : Line) : Prop := l.state = .retiring ∧ l.inflight = [] ∧ flushPending l.flush = false

section
variable {s : State} {p : LineNo}

theorem retireIfEmpty_enters (h : Retires (s.line p)) : s.retireIfEmpty p = s.enterRetired p := if_pos h

theorem retireIfEmpty_stays (h : ¬Retires (s.line p)) : s.retireIfEmpty p = s := if_neg h

theorem queuesOnly_unbindAll (s : State) (p : LineNo) : QueuesOnly s (s.unbindAll p) := by
  rw [State.unbindAll_eq]
  exact (QueuesOnly.foldl (f := fun t j => t.unbind p j) (fun t j => queuesOnly_unbind t p j) _ s).trans
    (queuesOnly_rechoose _ p)

/-- What a retirement leaves of the line, but for its queue. -/
theorem retireIfEmpty_line_keeps {α : Type} (figureOf : Line → α)
    (hqueue : ∀ l a b, figureOf { l with queue := a, feeding := b } = figureOf l)
    (hretired : Retires (s.line p) → figureOf (retiredLine (s.line p)) = figureOf (s.line p)) :
    figureOf ((s.retireIfEmpty p).line p) = figureOf (s.line p) := by
  by_cases h : Retires (s.line p)
  · obtain ⟨a, b, hab⟩ := queuesOnly_unbindAll s p p
    rw [retireIfEmpty_enters h, State.enterRetired_line, if_pos rfl, hab, ← hretired h,
      ← hqueue (retiredLine (s.line p)) a b]
    rfl
  · rw [retireIfEmpty_stays h]

theorem retireIfEmpty_line_ne {q : LineNo} (hq : q ≠ p) : (s.retireIfEmpty p).line q = s.line q := by
  by_cases h : Retires (s.line p)
  · rw [retireIfEmpty_enters h, State.enterRetired_line, if_neg hq]
  · rw [retireIfEmpty_stays h]

theorem retireIfEmpty_accounts : (s.retireIfEmpty p).accounts = s.accounts := by
  by_cases h : Retires (s.line p)
  · rw [retireIfEmpty_enters h, State.enterRetired_accounts]
  · rw [retireIfEmpty_stays h]

theorem retireIfEmpty_meters : (s.retireIfEmpty p).meters = s.meters := by
  by_cases h : Retires (s.line p)
  · rw [retireIfEmpty_enters h, State.enterRetired_meters]
  · rw [retireIfEmpty_stays h]

theorem workKept_retireIfEmpty (k : Nat) : WorkKept k s (s.retireIfEmpty p) := by
  by_cases h : Retires (s.line p)
  · rw [retireIfEmpty_enters h]
    exact workKept_enterRetired s k p
  · rw [retireIfEmpty_stays h]
    exact .refl k s

end

end Sys2Proof.Machine
end

-- O51: the state that a confirmation leaves.
section
namespace Sys2Proof.Machine

/-- The line after the confirmation of its oldest entry (R105 to R111). -/
def confirmedLine (now : BitVec 32) (t : Settings) (l : Line) : Line :=
  { paceLine now t { l with inflight := l.inflight.tail } with stalled := false }

/-- A job's record after the confirmation of one of its entries; the last copy of a sheet frees it (R17). -/
def confirmedRecord (e : Entry) (frees : Bool) (x : Job) : Job :=
  { x with
    confirm := advance x x.confirm
    noProgress := 0
    binding := x.binding + 1
    chargedCost := min (2 ^ 48 - 1) (x.chargedCost + e.cost)
    confirmedCopies := x.confirmedCopies + 1
    confirmedSides := x.confirmedSides + e.sides
    sheets := if frees = true then changeSheet e.sheet (fun g => { g with chain := [] }) x.sheets else x.sheets }

/-- Whether a confirmation is the last of its sheet in a job that is not retained. -/
def lastCopy (e : Entry) (x : Job) : Bool := decide (e.copy + 1 = x.copies ∧ x.retain = false)

/-- The blocks that a confirmation frees. -/
def confirmedBlocks (e : Entry) (x : Job) (h : Sheet) : List Block := if lastCopy e x = true then h.chain else []

/-- The state after a confirmation, but for its alerts and for what follows from it. -/
def State.confirmed (s : State) (p : LineNo) (e : Entry) (x : Job) (h : Sheet) : State :=
  ((((s.modLine p (confirmedLine s.timeBase s.settings)).modAccount x.account (convert e.cost e.sides)).modMeter p
    (countSheet e.sides h)).modJob e.job (confirmedRecord e (lastCopy e x))).addFree (confirmedBlocks e x h)

/-- The counts that a conversion raises (R130). -/
def convertedJob (e : Entry) (y : Job) : Job :=
  { y with
    chargedCost := saturate max48 (y.chargedCost + e.cost)
    confirmedCopies := y.confirmedCopies + 1
    confirmedSides := y.confirmedSides + e.sides }

/-- The state in which the entry is off the list and its price is charged. -/
def State.paced (s : State) (p : LineNo) (e : Entry) (x : Job) (h : Sheet) : State :=
  (((s.modLine p (confirmedLine s.timeBase s.settings)).modAccount x.account (convert e.cost e.sides)).modMeter p
    (countSheet e.sides h)).modJob e.job (confirmedRecord e false)

theorem confirmedJob_convertedJob (e : Entry) (y : Job) :
    confirmedJob (convertedJob e y) = confirmedRecord e false y := by
  unfold confirmedJob convertedJob confirmedRecord
  rw [saturate_eq]
  rfl

theorem State.addFree_nil (s : State) : s.addFree [] = s := by
  unfold State.addFree
  rw [List.append_nil]

section
variable {s : State} {p : LineNo} {e : Entry} {x : Job} {h : Sheet}

theorem convertEntry_eq (u : State) (hx : u.job? e.job = some x) (hh : sheetOf x e.sheet = some h) :
    u.convertEntry p e =
      ((u.modAccount x.account (convert e.cost e.sides)).modJob e.job (convertedJob e)).modMeter p (countSheet e.sides h) := by
  unfold State.convertEntry
  simp only [hx, hh]
  rfl

theorem confirmed_commute (u : State) (a : AccountNo) (j : Nat) (f : Account → Account) (g g' : Job → Job)
    (m : Meter → Meter) (k : Line → Line) :
    ((((u.modAccount a f).modJob j g).modMeter p m).modJob j g').modLine p k =
      (((((u.modLine p k).modAccount a f).modMeter p m).modJob j g)).modJob j g' := rfl

theorem clearStall_paced (hx : s.job? e.job = some x) (hh : sheetOf x e.sheet = some h) :
    ((((s.modLine p fun l => { l with inflight := l.inflight.tail }).convertEntry p e).modJob e.job confirmedJob).modLine p
      (paceLine s.timeBase s.settings)).clearStall p =
        (s.paced p e x h).signalsOf (((((s.modLine p fun l => { l with inflight := l.inflight.tail }).convertEntry p
          e).modJob e.job confirmedJob).modLine p (paceLine s.timeBase s.settings)).clearStall p) := by
  refine State.signals_self (t := ((((s.modLine p fun l => { l with inflight := l.inflight.tail }).convertEntry p
          e).modJob e.job confirmedJob).modLine p (paceLine s.timeBase s.settings)).clearStall p) ?_
  have hx1 : (s.modLine p fun l => { l with inflight := l.inflight.tail }).job? e.job = some x := hx
  rw [State.clearStall_signals, convertEntry_eq _ hx1 hh, State.modLine_modLine, confirmed_commute,
    State.modJob_modJob _ _ (convertedJob e) confirmedJob fun _ => rfl, State.modLine_modLine]
  have hjob : (fun y => confirmedJob (convertedJob e y)) = confirmedRecord e false := by
    funext y
    exact confirmedJob_convertedJob e y
  rw [hjob]
  rfl

theorem confirmedRecord_frees (y : Job) :
    modSheet e.sheet (fun g => { g with chain := [] }) (confirmedRecord e false y) = confirmedRecord e true y := rfl

theorem paced_job? (hx : s.job? e.job = some x) : (s.paced p e x h).job? e.job = some (confirmedRecord e false x) :=
  State.job_modJob_self _ e.job (confirmedRecord e false) x hx fun _ => rfl

theorem freed_signals {u w : State} (hu : u = w.signalsOf u) (j : Nat) (f : Job → Job) (bs : List Block) :
    (u.modJob j f).returnBlocks bs = ((w.modJob j f).addFree bs).signalsOf ((u.modJob j f).returnBlocks bs) := by
  have hfree : (u.modJob j f).addFree bs = ((w.modJob j f).addFree bs).signalsOf u := by
    conv => lhs; rw [hu]
    rfl
  refine State.signals_self (t := (u.modJob j f).returnBlocks bs) ?_
  rw [State.returnBlocks_signals, hfree]
  rfl

/-- The last copy of a sheet frees its blocks (R17). -/
theorem freeConfirmed_eq {u : State} (hu : u = (s.paced p e x h).signalsOf u) (hx : s.job? e.job = some x)
    (hh : sheetOf x e.sheet = some h) :
    u.freeConfirmed e = (s.confirmed p e x h).signalsOf (u.freeConfirmed e) := by
  have hjob : u.job? e.job = some (confirmedRecord e false x) := by
    rw [hu, State.signalsOf_job?]
    exact paced_job? hx
  have hsheet : sheetOf (confirmedRecord e false x) e.sheet = some h := hh
  unfold State.freeConfirmed
  simp only [hjob]
  by_cases hlast : e.copy + 1 = x.copies ∧ x.retain = false
  · have hflag : lastCopy e x = true := decide_eq_true hlast
    have hfree : u.freeSheetBlocks e.job e.sheet =
        (u.modJob e.job (modSheet e.sheet fun g => { g with chain := [] })).returnBlocks h.chain := by
      unfold State.freeSheetBlocks
      simp only [hjob, hsheet]
    rw [show (confirmedRecord e false x).copies = x.copies from rfl,
      show (confirmedRecord e false x).retain = x.retain from rfl, if_pos hlast, hfree]
    have hmod : (s.paced p e x h).modJob e.job (modSheet e.sheet fun g => { g with chain := [] }) =
        (((s.modLine p (confirmedLine s.timeBase s.settings)).modAccount x.account (convert e.cost e.sides)).modMeter p
          (countSheet e.sides h)).modJob e.job (confirmedRecord e true) :=
      State.modJob_modJob _ e.job (confirmedRecord e false) _ fun _ => rfl
    rw [State.confirmed, confirmedBlocks, hflag, if_pos rfl, ← hmod]
    exact freed_signals hu e.job _ h.chain
  · have hflag : lastCopy e x = false := decide_eq_false hlast
    rw [show (confirmedRecord e false x).copies = x.copies from rfl,
      show (confirmedRecord e false x).retain = x.retain from rfl, if_neg hlast, State.confirmed, confirmedBlocks, hflag,
      if_neg Bool.false_ne_true, State.addFree_nil]
    exact hu

/-- A confirmation: the entry goes, and then its job and its line follow. -/
theorem confirm_eq (hx : s.job? e.job = some x) (hh : sheetOf x e.sheet = some h) :
    ∃ u : State, u = (s.confirmed p e x h).signalsOf u ∧ s.confirm p e = (u.followUp e.job).retireIfEmpty p :=
  ⟨_, freeConfirmed_eq (clearStall_paced hx hh) hx hh, rfl⟩

end

/-! ### The figures of that state -/

section
variable {s u : State} {p : LineNo} {e : Entry} {x : Job} {h : Sheet} (hu : u = (s.confirmed p e x h).signalsOf u)
include hu

theorem confirmed_line_self : u.line p = confirmedLine s.timeBase s.settings (s.line p) := by
  rw [hu, State.signalsOf_line]
  exact s.line_modLine_self p (confirmedLine s.timeBase s.settings)

theorem confirmed_line_ne {q : LineNo} (hq : q ≠ p) : u.line q = s.line q := by
  rw [hu, State.signalsOf_line]
  exact s.line_modLine_ne (confirmedLine s.timeBase s.settings) hq

theorem confirmed_job? (hx : s.job? e.job = some x) :
    u.job? e.job = some (confirmedRecord e (lastCopy e x) x) := by
  rw [hu, State.signalsOf_job?]
  exact State.job_modJob_self _ e.job (confirmedRecord e (lastCopy e x)) x hx fun _ => rfl

theorem confirmed_accounts : u.accounts =
    ((s.modLine p (confirmedLine s.timeBase s.settings)).modAccount x.account (convert e.cost e.sides)).accounts := by
  rw [hu, State.signalsOf_accounts]
  rfl

theorem confirmed_account_self : u.account x.account = convert e.cost e.sides (s.account x.account) := by
  rw [State.account_congr (confirmed_accounts hu)]
  exact State.account_modAccount_self (s.modLine p (confirmedLine s.timeBase s.settings)) x.account (convert e.cost e.sides)

theorem confirmed_account_ne {a : AccountNo} (ha : a ≠ x.account) : u.account a = s.account a := by
  rw [State.account_congr (confirmed_accounts hu)]
  exact State.account_modAccount_ne (s.modLine p (confirmedLine s.timeBase s.settings)) (convert e.cost e.sides) ha

theorem confirmed_meters : u.meters = (s.modMeter p (countSheet e.sides h)).meters := by
  rw [hu, State.signalsOf_meters]
  rfl

theorem confirmed_rest : u.waiting = s.waiting ∧ u.pool = s.pool ∧ u.stores = s.stores ∧
    u.free = s.free ++ confirmedBlocks e x h := by
  rw [hu]
  simp [State.confirmed, State.addFree]

/-- Which entries of the job are left (R54). -/
theorem confirmed_hasEntries {es : List Entry} (hes : (s.line p).inflight = e :: es) : u.hasEntries e.job = true ↔
    (∃ k ∈ es, k.job = e.job) ∨ ∃ q, q ≠ p ∧ ∃ k ∈ (s.line q).inflight, k.job = e.job := by
  have hline : (u.line p).inflight = es := by
    rw [confirmed_line_self hu]
    show (s.line p).inflight.tail = es
    rw [hes]
    rfl
  rw [State.hasEntries_iff]
  constructor
  · rintro ⟨q, k, hk, hjob⟩
    by_cases hq : q = p
    · rw [hq, hline] at hk
      exact .inl ⟨k, hk, hjob⟩
    · rw [confirmed_line_ne hu hq] at hk
      exact .inr ⟨q, hq, k, hk, hjob⟩
  · rintro (⟨k, hk, hjob⟩ | ⟨q, hq, k, hk, hjob⟩)
    · exact ⟨p, k, by rw [hline]; exact hk, hjob⟩
    · exact ⟨q, k, by rw [confirmed_line_ne hu hq]; exact hk, hjob⟩

end

end Sys2Proof.Machine
end

-- O51: the statement.
section
namespace Sys2Proof.Machine

/-! ### What a confirmation answers -/

section
variable {s : State} {p : LineNo} {tag : Byte}

theorem State.matching_iff (e : Entry) : s.matching p tag = some e ↔
    (s.line p).inflight.head? = some e ∧ e.tag = tag ∧ e.moved = s.entryLength e := by
  unfold State.matching
  cases hes : (s.line p).inflight with
  | nil => simp
  | cons k es =>
    simp only [List.head?_cons, Option.some.injEq]
    constructor
    · intro h
      split at h
      · rename_i hk
        obtain rfl := Option.some.inj h
        exact ⟨rfl, hk⟩
      · exact absurd h (by simp)
    · rintro ⟨rfl, hk⟩
      rw [if_pos hk]

theorem State.matching_heard : (s.modLine p heard).matching p tag = s.matching p tag := by
  have hline : ((s.modLine p heard).line p).inflight = (s.line p).inflight := by
    rw [State.line_heard]
    rfl
  unfold State.matching
  rw [hline]
  rfl

theorem sheetDone_ignored (h : (s.line p).state = .down ∨ (s.line p).state = .retired) : s.sheetDone p tag = s := by
  have htakes : takesFrames (s.line p) = false := by
    unfold takesFrames
    obtain h | h := h <;> simp [h]
  exact if_neg (by rw [htakes]; exact Bool.false_ne_true)

theorem sheetDone_taken (hdown : (s.line p).state ≠ .down) (hretired : (s.line p).state ≠ .retired) :
    s.sheetDone p tag = match s.matching p tag with
      | some e => s.confirm p e
      | none => (s.protocolFault p).requestFlush p .fault := by
  have htakes : takesFrames (s.line p) = true := by
    unfold takesFrames
    simp [hdown, hretired]
  exact (if_pos htakes).trans rfl

theorem protocolFault_eq (o : Option Entry) (h : (s.line p).inflight.head? = o) :
    s.protocolFault p = s.openAlert .protocolFault (.printer p)
      ⟨none, o.map fun e => ⟨e.job, e.sheet, e.copy⟩, none, none⟩ := by
  subst h
  rfl

end

/-! ### What it leaves -/

section
variable {s : State} {p : LineNo} {e : Entry} {es : List Entry} {x : Job} {h : Sheet}

theorem confirmedRecord_eq : confirmedRecord e (lastCopy e x) x =
    { x with
      confirm := advance x x.confirm
      noProgress := 0
      binding := x.binding + 1
      chargedCost := min (2 ^ 48 - 1) (x.chargedCost + e.cost)
      confirmedCopies := x.confirmedCopies + 1
      confirmedSides := x.confirmedSides + e.sides
      sheets := if e.copy + 1 = x.copies ∧ x.retain = false then
        changeSheet e.sheet (fun g => { g with chain := [] }) x.sheets else x.sheets } := by
  by_cases hlast : e.copy + 1 = x.copies ∧ x.retain = false
  · have hflag : lastCopy e x = true := decide_eq_true hlast
    rw [hflag, if_pos hlast]
    rfl
  · have hflag : lastCopy e x = false := decide_eq_false hlast
    rw [hflag, if_neg hlast]
    rfl

theorem confirmedRecord_sheets (f : Bool) : (confirmedRecord e f x).sheets.length = x.sheets.length := by
  cases f with
  | true => exact changeSheet_length e.sheet _ x.sheets
  | false => rfl

theorem confirmedBlocks_eq : confirmedBlocks e x h = if e.copy + 1 = x.copies ∧ x.retain = false then h.chain else [] := by
  by_cases hlast : e.copy + 1 = x.copies ∧ x.retain = false
  · rw [confirmedBlocks, show lastCopy e x = true from decide_eq_true hlast, if_pos rfl, if_pos hlast]
  · rw [confirmedBlocks, show lastCopy e x = false from decide_eq_false hlast, if_neg Bool.false_ne_true, if_neg hlast]

/-- The line's part of a confirmation's effect, but for its queue. -/
theorem confirm_line_keeps {α : Type} (figureOf : Line → α)
    (hqueue : ∀ l a b, figureOf { l with queue := a, feeding := b } = figureOf l)
    (hretired : Retires (confirmedLine s.timeBase s.settings (s.line p)) →
      figureOf (retiredLine (confirmedLine s.timeBase s.settings (s.line p))) =
        figureOf (confirmedLine s.timeBase s.settings (s.line p)))
    (hx : s.job? e.job = some x) (hh : sheetOf x e.sheet = some h) :
    figureOf ((s.confirm p e).line p) = figureOf (confirmedLine s.timeBase s.settings (s.line p)) := by
  obtain ⟨u, hu, hconfirm⟩ := confirm_eq (p := p) hx hh
  obtain ⟨a, b, hab⟩ := queuesOnly_followUp u e.job p
  rw [confirmed_line_self hu] at hab
  rw [hconfirm, retireIfEmpty_line_keeps figureOf hqueue, hab, hqueue]
  rw [hab]
  intro hretires
  have hline := hqueue (retiredLine (confirmedLine s.timeBase s.settings (s.line p))) a b
  exact (hline.trans (hretired hretires)).trans (hqueue _ a b).symm

theorem retires_iff (hes : (s.line p).inflight = e :: es) : Retires (confirmedLine s.timeBase s.settings (s.line p)) ↔
    (s.line p).state = .retiring ∧ es = [] ∧ flushPending (s.line p).flush = false := by
  have hinflight : (confirmedLine s.timeBase s.settings (s.line p)).inflight = es := by
    show (s.line p).inflight.tail = es
    rw [hes]
    rfl
  unfold Retires
  rw [hinflight]
  rfl

/-- The figures of the line that a confirmation sets (R105 to R111). -/
theorem confirm_line (hes : (s.line p).inflight = e :: es) (hx : s.job? e.job = some x)
    (hh : sheetOf x e.sheet = some h) :
    let l := s.line p
    let m := (s.confirm p e).line p
    let pace := if l.armed = true then smoothPace l.pace (paceSample s.timeBase l.lastDone) else l.pace
    m.inflight = es ∧ m.credits = l.credits ∧ m.capacity = l.capacity ∧ m.lastDone = s.timeBase ∧ m.pace = pace ∧
      m.armed = (decide (l.state = .ready) && !flushPending l.flush && !es.isEmpty) ∧
      m.stall = (if es = [] then .stopped
        else if l.state = .ready then timerStart (stallDeadline s.settings pace) else l.stall) ∧
      m.stalled = false ∧ m.fifo = l.fifo ∧ m.tagCtr = l.tagCtr ∧ m.flush = l.flush := by
  intro l m pace
  have htail : l.inflight.tail = es := by
    show (s.line p).inflight.tail = es
    rw [hes]
    rfl
  have hkeeps {α : Type} (figureOf : Line → α)
      (hqueue : ∀ l a b, figureOf { l with queue := a, feeding := b } = figureOf l)
      (hretired : Retires (confirmedLine s.timeBase s.settings l) →
        figureOf (retiredLine (confirmedLine s.timeBase s.settings l)) =
          figureOf (confirmedLine s.timeBase s.settings l)) :
      figureOf m = figureOf (confirmedLine s.timeBase s.settings l) :=
    confirm_line_keeps figureOf hqueue hretired hx hh
  have harmed : (confirmedLine s.timeBase s.settings l).armed =
      (decide (l.state = .ready) && !flushPending l.flush && !es.isEmpty) := by
    rw [← htail]
    rfl
  have hstall : (confirmedLine s.timeBase s.settings l).stall = (if es = [] then .stopped
      else if l.state = .ready then timerStart (stallDeadline s.settings pace) else l.stall) := by
    rw [← htail]
    rfl
  refine ⟨(hkeeps Line.inflight (fun _ _ _ => rfl) fun _ => rfl).trans htail,
    hkeeps Line.credits (fun _ _ _ => rfl) fun _ => rfl, hkeeps Line.capacity (fun _ _ _ => rfl) fun _ => rfl,
    hkeeps Line.lastDone (fun _ _ _ => rfl) fun _ => rfl, hkeeps Line.pace (fun _ _ _ => rfl) fun _ => rfl,
    (hkeeps Line.armed (fun _ _ _ => rfl) fun hretires => ?_).trans harmed,
    (hkeeps Line.stall (fun _ _ _ => rfl) fun hretires => ?_).trans hstall,
    hkeeps Line.stalled (fun _ _ _ => rfl) fun _ => rfl, hkeeps Line.fifo (fun _ _ _ => rfl) fun _ => rfl,
    hkeeps Line.tagCtr (fun _ _ _ => rfl) fun _ => rfl, hkeeps Line.flush (fun _ _ _ => rfl) fun _ => rfl⟩
  · obtain ⟨hstate, -, -⟩ := (retires_iff hes).mp hretires
    rw [harmed, show l.state = .retiring from hstate]
    rfl
  · obtain ⟨-, hnil, -⟩ := (retires_iff hes).mp hretires
    rw [hstall, if_pos hnil]
    rfl

end

end Sys2Proof.Machine
end

-- O51: the job that a confirmation leaves.
section
namespace Sys2Proof.Machine

section
variable {s : State} {p : LineNo} {e : Entry} {es : List Entry} {x : Job} {h : Sheet}

/-- Whether other entries of a confirmed entry's job are left. -/
def MoreEntries (s : State) (p : LineNo) (e : Entry) (es : List Entry) : Prop :=
  (∃ k ∈ es, k.job = e.job) ∨ ∃ q, q ≠ p ∧ ∃ k ∈ (s.line q).inflight, k.job = e.job

theorem waitingJob_binding (x : Job) (hb : x.binding ≠ 0) : (waitingJob x).run = .waiting ∧ (waitingJob x).leaveTarget = none ∧
    (waitingJob x).bound = x.bound ∧ (waitingJob x).binding = 0 ∧ (waitingJob x).split = min 255 (x.split + 1) := by
  have hsplit : waitingJob x = { x with
      run := .waiting, leaveTarget := none, holdReason := none, split := saturate 255 (x.split + 1), binding := 0 } :=
    if_neg hb
  rw [hsplit, saturate_eq]
  exact ⟨rfl, rfl, rfl, rfl, rfl⟩

/-- The record of a job that leaves for the waiting list after it has printed (R35). -/
theorem unboundRecord_waits (q : LineNo) (x : Job) (hb : x.binding ≠ 0)
    (hnot : ¬(x.run = .leaving ∧ x.leaveTarget = some .held)) :
    (unboundRecord q x).run = .waiting ∧ (unboundRecord q x).leaveTarget = none ∧ (unboundRecord q x).bound = none ∧
      (unboundRecord q x).binding = 0 ∧ (unboundRecord q x).split = min 255 (x.split + 1) := by
  unfold unboundRecord
  rw [if_neg hnot]
  split
  · exact waitingJob_binding { unboundJob x with excluded := some q } hb
  · exact waitingJob_binding (unboundJob x) hb

section
variable {u : State} {q : LineNo} (hu : u = (s.confirmed p e x h).signalsOf u) (hx : s.job? e.job = some x)
include hu hx

theorem followUp_retained (hrun : x.run = .draining) (hend : x.copies ≤ (advance x x.confirm).copy) (hr : x.retain = true) :
    (u.followUp e.job).job? e.job = some (doneJob (unboundJob (confirmedRecord e (lastCopy e x) x))) := by
  have hjob := confirmed_job? hu hx
  rw [followUp_complete hjob hrun (decide_eq_true hend), State.complete_job?_retained hjob hr]

theorem followUp_purged (hrun : x.run = .draining) (hend : x.copies ≤ (advance x x.confirm).copy) (hr : x.retain = false) :
    (u.followUp e.job).job? e.job = none := by
  have hjob := confirmed_job? hu hx
  rw [followUp_complete hjob hrun (decide_eq_true hend), State.complete_job?_purged hjob hr]

theorem followUp_unqueued (hrun : x.run = .draining) (hend : x.copies ≤ (advance x x.confirm).copy)
    (hb : x.bound = some q) : e.job ∉ ((u.followUp e.job).line q).queue := by
  have hjob := confirmed_job? hu hx
  rw [followUp_complete hjob hrun (decide_eq_true hend)]
  exact State.complete_queue hjob hb

theorem followUp_left_done (hrun : x.run = .leaving) (he : u.hasEntries e.job = false)
    (hend : x.copies ≤ (advance x x.confirm).copy) (hr : x.retain = true) :
    (u.followUp e.job).job? e.job = some (doneJob (unboundJob (confirmedRecord e (lastCopy e x) x))) := by
  have hjob := confirmed_job? hu hx
  rw [followUp_leaving hjob hrun, State.endLeaving_atEnd hjob hrun he (decide_eq_true hend),
    State.complete_job?_retained hjob hr]

/-- A leaving job whose last entry is confirmed leaves its printer (R33, R34). -/
theorem followUp_left (hrun : x.run = .leaving) (he : u.hasEntries e.job = false)
    (hend : (advance x x.confirm).copy < x.copies) (hb : x.bound = some q) :
    e.job ∉ ((u.followUp e.job).line q).queue ∧
      (u.followUp e.job).job? e.job = some (unboundRecord q (confirmedRecord e (lastCopy e x) x)) ∧
      (x.leaveTarget ≠ some .held → e.job ∈ (u.followUp e.job).waiting) := by
  have hjob := confirmed_job? hu hx
  have hatEnd : atEnd (confirmedRecord e (lastCopy e x) x) (confirmedRecord e (lastCopy e x) x).confirm = false :=
    decide_eq_false (Nat.not_le.mpr hend)
  obtain ⟨hqueue, hsame⟩ := State.leave_job? (p := q) hjob
  rw [followUp_leaving hjob hrun, State.endLeaving_bound hjob hrun he hatEnd hb]
  refine ⟨hqueue, ?_, fun ht => ?_⟩
  · rw [hsame, State.unbind_job?, if_pos rfl, hjob, Option.map_some]
  · exact (u.unbind_waitingList q e.job).2 _ hjob fun hc => ht hc.2

theorem followUp_killed (hk : jobKilled x = true) (he : u.hasEntries e.job = false) (hs : s.storing e.job = false) :
    (u.followUp e.job).job? e.job = some { confirmedRecord e (lastCopy e x) x with sheets := [] } ∧
      (u.followUp e.job).pool = s.pool + x.sheets.length := by
  have hjob := confirmed_job? hu hx
  obtain ⟨-, hpool, hstores, -⟩ := confirmed_rest hu
  have hstoring : u.storing e.job = false := by
    rw [State.storing_congr hstores]
    exact hs
  rw [followUp_release hjob hk he]
  refine ⟨?_, ?_⟩
  · rw [State.releaseStorage_job?, if_pos rfl, hjob, hstoring]
    rfl
  · have hlength := confirmedRecord_sheets (e := e) (x := x) (lastCopy e x)
    rw [State.releaseStorage_signals hjob, hstoring, ← hpool, ← hlength]
    rfl

theorem followUp_stays (hend : ¬(x.run = .draining ∧ x.copies ≤ (advance x x.confirm).copy))
    (hleaving : x.run = .leaving → u.hasEntries e.job = true) (hkilled : jobKilled x = true → u.hasEntries e.job = true) :
    u.followUp e.job = u :=
  followUp_same (confirmed_job? hu hx) (fun hc => hend ⟨hc.1, of_decide_eq_true hc.2⟩) hleaving hkilled

end

end

/-- Settles O51. -/
theorem sheetDoneConfirmsTheOldestEntry : Obligations.SheetDoneConfirmsTheOldestEntry := by
  refine ⟨fun s p tag hlive => ?_, fun s p => ⟨fun hnil => ?_, fun e es hes => ?_⟩, fun s p e es x h hes hx hh => ?_⟩
  · have hstate : ((s.modLine p heard).line p).state = (s.line p).state := by rw [State.line_heard, heard_state]
    refine ⟨fun hoff hw => ?_, fun hdown hretired => ?_, State.matching_iff⟩
    · exact congrArg _ (lineEvent_nothing hlive hw (sheetDone_ignored (by rw [hstate]; exact hoff)))
    · have htaken := sheetDone_taken (s := s.modLine p heard) (p := p) (tag := tag) (by rw [hstate]; exact hdown)
        (by rw [hstate]; exact hretired)
      rw [State.matching_heard] at htaken
      refine ⟨fun e hmatch => ?_, fun hnone => ?_⟩
      · rw [hmatch] at htaken
        exact congrArg _ ((lineEvent_live hlive).trans (congrArg (settleEvent s) htaken))
      · rw [hnone] at htaken
        exact congrArg _ ((lineEvent_live hlive).trans (congrArg (settleEvent s) htaken))
  · exact protocolFault_eq none (by rw [hnil]; rfl)
  · exact protocolFault_eq (some e) (by rw [hes]; rfl)
  · intro l t pace last y more retires completes
    obtain ⟨u, hu, hconfirm⟩ := confirm_eq (p := p) hx hh
    have hrecord : confirmedRecord e (lastCopy e x) x = y := confirmedRecord_eq
    have hmore : u.hasEntries e.job = true ↔ more := confirmed_hasEntries hu hes
    have hnone : ¬more → u.hasEntries e.job = false := fun hno => Bool.eq_false_iff.mpr fun hc => hno (hmore.mp hc)
    have ht : t = (u.followUp e.job).retireIfEmpty p := hconfirm
    obtain ⟨a, b, hab⟩ := queuesOnly_followUp u e.job p
    rw [confirmed_line_self hu] at hab
    have hretires : Retires ((u.followUp e.job).line p) ↔ retires := by
      rw [hab]
      exact retires_iff hes
    have hsteady := (steady_followUp u e.job).figures
    have haccounts (c : AccountNo) : sameFigures (u.account c) (t.account c) := by
      rw [ht, State.account_congr retireIfEmpty_accounts]
      exact hsteady c
    have hmeters : t.meters = (s.modMeter p (countSheet e.sides h)).meters := by
      rw [ht, retireIfEmpty_meters, State.followUp_meters, confirmed_meters hu]
    obtain ⟨h1, h2, h3, h4, h5, h6, h7, h8, h9, h10, h11⟩ := confirm_line hes hx hh
    refine ⟨h1, h2, h3, h4, h5, h6, h7, h8, h9, h10, h11, ?_, fun c hc => ?_, ?_, fun q hq => ?_, fun hb q hq => ?_,
      (follows_confirm s p e).outside, fun z hz => ?_, fun hr => ?_, fun hr => ?_⟩
    · have hself := haccounts x.account
      rw [confirmed_account_self hu] at hself
      unfold convert at hself
      rw [saturate_eq, saturate_eq] at hself
      exact hself
    · have hother := haccounts c
      rwa [confirmed_account_ne hu hc] at hother
    · rw [hmeters]
      exact s.modMeter_self p (countSheet e.sides h)
    · rw [hmeters]
      exact Vector.getElem_set_ne p.isLt q.isLt fun hc => hq (Fin.ext hc.symm)
    · rw [ht, retireIfEmpty_line_ne hq, State.followUp_line_ne (confirmed_job? hu hx) ?_, confirmed_line_ne hu hq]
      show x.bound ≠ some q
      obtain hb | hb := hb
      · rw [hb]
        exact fun hc => hq (Option.some.inj hc).symm
      · rw [hb]
        exact fun hc => absurd hc.symm (Option.some_ne_none q)
    · rw [ht] at hz
      obtain ⟨w, hw, hwork⟩ := (workKept_followUp u e.job).trans (workKept_retireIfEmpty e.job) z hz
      rw [confirmed_job? hu hx, hrecord] at hw
      obtain rfl := Option.some.inj hw
      exact hwork.counts
    · rw [ht, retireIfEmpty_enters (hretires.mpr hr), State.enterRetired_line, if_pos rfl]
      rfl
    · have htu : t = u.followUp e.job := ht.trans (retireIfEmpty_stays fun hc => hr (hretires.mp hc))
      refine ⟨?_, fun hc => ?_, fun hrun hno hend q hb => ?_, fun hrun hno hend hret => ?_, fun hk hno hs => ?_,
        fun hnc hleaving hkilled => ?_⟩
      · rw [htu, hab]
        rfl
      · obtain ⟨hrun, hend⟩ := hc
        rw [htu]
        refine ⟨fun hret => followUp_purged hu hx hrun hend hret, fun hret => ?_, fun q hb =>
          followUp_unqueued hu hx hrun hend hb⟩
        rw [followUp_retained hu hx hrun hend hret, hrecord]
        rfl
      · obtain ⟨hqueue, hjob, hwaiting⟩ := followUp_left hu hx hrun (hnone hno) hend hb
        rw [hrecord] at hjob
        rw [htu]
        refine ⟨hqueue, fun htarget => ?_, fun htarget => ⟨hwaiting htarget, ?_⟩⟩
        · rw [hjob, unboundRecord, if_pos ⟨hrun, htarget⟩]
          rfl
        · obtain ⟨w1, w2, w3, w4, w5⟩ := unboundRecord_waits q y (Nat.succ_ne_zero _) fun hc => htarget hc.2
          exact ⟨_, hjob, w1, w2, w3, w4, w5⟩
      · rw [htu]
        exact ⟨_, followUp_left_done hu hx hrun (hnone hno) hend hret, rfl, rfl⟩
      · rw [htu]
        obtain ⟨hjob, hpool⟩ := followUp_killed hu hx hk (hnone hno) hs
        rw [hrecord] at hjob
        exact ⟨hjob, hpool⟩
      · have hstays := followUp_stays hu hx hnc (fun hrun => hmore.mpr (hleaving hrun)) fun hk => hmore.mpr (hkilled hk)
        obtain ⟨hwaiting, hpool, -, hfree⟩ := confirmed_rest hu
        rw [htu, hstays]
        refine ⟨?_, ?_, hpool, hwaiting, ?_⟩
        · rw [confirmed_job? hu hx, hrecord]
        · rw [hfree, confirmedBlocks_eq]
        · rw [confirmed_line_self hu]
          rfl

end Sys2Proof.Machine
end

-- Operations that only take jobs off lists and send alerts.
section
namespace Sys2Proof.Machine

/-- No queue and no quota-held list has grown, and only alerts have been sent. -/
structure Trims (s t : State) : Prop where
  queue : ∀ q, ∀ j ∈ (t.line q).queue, j ∈ (s.line q).queue
  quota : ∀ a, ∀ j ∈ (t.account a).quotaHeld, j ∈ (s.account a).quotaHeld
  sends : AlertsOnly s t

section
variable {s t u : State}

theorem Trims.same (hl : t.lines = s.lines) (ha : t.accounts = s.accounts) (ho : t.shopOut = s.shopOut) : Trims s t :=
  ⟨fun q _ h => State.line_congr hl q ▸ h, fun a _ h => State.account_congr ha a ▸ h, .same ho⟩

theorem Trims.refl (s : State) : Trims s s := .same rfl rfl rfl

theorem Trims.trans (h : Trims s t) (g : Trims t u) : Trims s u :=
  ⟨fun q j hj => h.queue q j (g.queue q j hj), fun a j hj => h.quota a j (g.quota a j hj), h.sends.trans g.sends⟩

theorem Trims.signals (hs : t = s.signalsOf t) (ho : AlertsOnly s t) : Trims s t := by
  refine ⟨fun q j hj => ?_, fun a j hj => ?_, ho⟩
  · rw [hs, State.signalsOf_line] at hj
    exact hj
  · rw [hs, State.signalsOf_account] at hj
    exact hj

variable (s)

theorem Trims.modLine (p : LineNo) (f : Line → Line) (hf : ∀ l, ∀ j ∈ (f l).queue, j ∈ l.queue) :
    Trims s (s.modLine p f) := by
  refine ⟨fun q j hj => ?_, fun _ _ h => h, .same rfl⟩
  by_cases hq : q = p
  · subst hq
    rw [State.line_modLine_self] at hj
    exact hf _ j hj
  · rwa [State.line_modLine_ne s f hq] at hj

theorem Trims.modAccount (a : AccountNo) (f : Account → Account) (hf : ∀ x, ∀ j ∈ (f x).quotaHeld, j ∈ x.quotaHeld) :
    Trims s (s.modAccount a f) := by
  refine ⟨fun _ _ h => h, fun b j hj => ?_, .same rfl⟩
  by_cases hb : b = a
  · subst hb
    rw [State.account_modAccount_self] at hj
    exact hf _ j hj
  · rwa [State.account_modAccount_ne s f hb] at hj

theorem Trims.foldl {β : Type} {f : State → β → State} (hf : ∀ s b, Trims s (f s b)) (l : List β) (s : State) :
    Trims s (l.foldl f s) := by
  induction l generalizing s with
  | nil => exact .refl s
  | cons b l ih => exact (hf s b).trans (ih (f s b))

theorem trims_clearAlert (k : AlertKind) (subj : Subject) : Trims s (s.clearAlert k subj) :=
  .signals (s.clearAlert_signals k subj) (alertsOnly_clearAlert s k subj)

theorem trims_openAlert (k : AlertKind) (subj : Subject) (d : Detail) : Trims s (s.openAlert k subj d) :=
  .signals (s.openAlert_signals k subj d) (alertsOnly_openAlert s k subj d)

/-- A change of a line that leaves its queue as it is. -/
theorem Trims.thenLine {s t : State} (h : Trims s t) (p : LineNo) (f : Line → Line) (hf : ∀ l, (f l).queue = l.queue) :
    Trims s (t.modLine p f) := h.trans (.modLine t p f fun l _ hj => hf l ▸ hj)

theorem trims_lineAlert (p : LineNo) (f : Line → Line) (hf : ∀ l, (f l).queue = l.queue) (k : AlertKind)
    (subj : Subject) : Trims s ((s.modLine p f).clearAlert k subj) :=
  (Trims.thenLine (.refl s) p f hf).trans (trims_clearAlert _ k subj)

theorem trims_evalSpoolLow : Trims s s.evalSpoolLow := .signals s.evalSpoolLow_signals (alertsOnly_evalSpoolLow s)

/-! ### The lists of jobs -/

theorem trims_rechoose (p : LineNo) : Trims s (s.rechoose p) := by
  have hjobs : Trims s { s with jobs := s.jobs.map (afterChoice (s.line p).queue (s.feedingChoice p)) } :=
    .same rfl rfl rfl
  exact hjobs.trans (.modLine _ p (fun l => { l with feeding := s.feedingChoice p }) fun _ _ h => h)

theorem mem_of_mem_without {j k : Nat} {l : List Nat} (h : k ∈ without j l) : k ∈ l := (List.mem_filter.mp h).1

theorem trims_leaveQueue (p : LineNo) (j : Nat) : Trims s (s.leaveQueue p j) :=
  (Trims.modLine s p (fun l => { l with queue := without j l.queue }) fun _ _ => mem_of_mem_without).trans
    (trims_rechoose _ p)

theorem trims_unqueue (j : Nat) : Trims s (s.unqueue j) := by
  unfold State.unqueue
  split
  · split
    · have hunbound : Trims s (s.modJob j unboundJob) := .same rfl rfl rfl
      exact hunbound.trans (trims_leaveQueue _ _ j)
    · exact .refl s
  · exact .refl s

theorem trims_unbind (p : LineNo) (j : Nat) : Trims s (s.unbind p j) := by
  have hout : Trims s (s.unbound p j) :=
    (Trims.modLine s p (withoutJob j) fun _ _ => mem_of_mem_without).trans (.same rfl rfl rfl)
  cases h : s.job? j with
  | none =>
    rw [State.unbind_none p h]
    exact .refl s
  | some x =>
    by_cases hheld : x.run = .leaving ∧ x.leaveTarget = some .held
    · rw [State.unbind_held h hheld.1 hheld.2]
      exact hout.trans (.same rfl rfl rfl)
    · by_cases hexclude : x.run = .leaving ∧ x.leaveTarget = some .waitingExclude
      · rw [State.unbind_exclude h hexclude.1 hexclude.2]
        exact hout.trans (.same rfl rfl rfl)
      · rw [State.unbind_waiting h hheld hexclude]
        exact hout.trans (.same rfl rfl rfl)

theorem trims_unbindAll (p : LineNo) : Trims s (s.unbindAll p) := by
  rw [State.unbindAll_eq]
  exact (Trims.foldl (f := fun t j => t.unbind p j) (fun t j => trims_unbind t p j) _ s).trans (trims_rechoose _ p)

theorem trims_leaveQuota (a : AccountNo) (j : Nat) : Trims s (s.leaveQuota a j) := by
  have hleave : Trims s (s.modAccount a fun x => { x with quotaHeld := without j x.quotaHeld }) :=
    .modAccount s a _ fun _ _ => mem_of_mem_without
  unfold State.leaveQuota
  split
  · dsimp only
    split
    · exact hleave.trans (trims_clearAlert _ _ _)
    · exact hleave
  · exact .refl s

/-! ### The storage -/

theorem trims_returnBlocks (bs : List Block) : Trims s (s.returnBlocks bs) := by
  cases bs with
  | nil => exact .refl s
  | cons b bs => exact Trims.trans (t := { s with free := s.free ++ b :: bs }) (.same rfl rfl rfl) (trims_evalSpoolLow _)

theorem trims_releaseStorage (j : Nat) : Trims s (s.releaseStorage j) := by
  unfold State.releaseStorage
  split
  · refine Trims.trans ?_ (trims_returnBlocks _ _)
    exact .same rfl rfl rfl
  · exact .refl s

theorem trims_discardOpen (j : Nat) : Trims s (s.discardOpen j) := by
  unfold State.discardOpen
  split
  · split
    · refine Trims.trans ?_ (trims_returnBlocks _ _)
      exact .same rfl rfl rfl
    · exact .refl s
  · exact .refl s

theorem trims_purge (j : Nat) : Trims s (s.purge j) := by
  have hstores : Trims s { s with stores := s.stores.filter fun t => decide (t.job ≠ j) } := .same rfl rfl rfl
  exact (hstores.trans (trims_releaseStorage _ j)).trans (.same rfl rfl rfl)

/-! ### The end of a job -/

theorem trims_finished (x : Job) (j : Nat) : Trims s (s.finished x j) := by
  refine Trims.trans ((trims_unqueue s j).trans ?_) (trims_leaveQuota _ x.account j)
  exact .same rfl rfl rfl

theorem trims_complete (j : Nat) : Trims s (s.complete j) := by
  cases h : s.job? j with
  | none =>
    unfold State.complete
    rw [h]
    exact .refl s
  | some x =>
    cases hr : x.retain with
    | true =>
      rw [State.complete_retained h hr]
      exact trims_finished s x j
    | false =>
      rw [State.complete_purged h hr]
      exact (trims_finished s x j).trans (trims_purge _ j)

theorem trims_endLeaving (j : Nat) : Trims s (s.endLeaving j) :=
  s.endLeaving_cases j (Trims s) (.refl s) (trims_complete s j) fun _ q _ _ =>
    (trims_unbind s q j).trans (trims_rechoose _ q)

theorem trims_killed (x : Job) (j : Nat) (run : RunState) : Trims s (s.killed x j run) := by
  have hlists : Trims s ((s.modJob j (killedJob run)).leaveWaiting j) := .same rfl rfl rfl
  exact (hlists.trans (trims_unqueue _ j)).trans (trims_leaveQuota _ x.account j)

theorem trims_kill (j : Nat) (run : RunState) : Trims s (s.kill j run) := by
  cases h : s.job? j with
  | none =>
    rw [State.kill_none run h]
    exact .refl s
  | some x =>
    rw [State.kill_eq run h, State.discardOpenUnlessStoring]
    split
    · exact trims_killed s x j run
    · exact (trims_killed s x j run).trans (trims_discardOpen _ j)

theorem trims_releasesIfKilled (js : List Nat) : Trims s (s.releasesIfKilled js) :=
  .foldl (fun t j => t.releaseIfKilled_cases j (Trims t) (.refl t) (trims_releaseStorage t j)) js s

/-! ### The end of a line's retirement -/

theorem trims_dropCondition (p : LineNo) (k : Condition) : Trims s (s.dropCondition p k) := by
  unfold State.dropCondition
  split
  · refine trims_lineAlert s p _ ?_ _ _
    exact fun _ => rfl
  · exact .refl s

theorem trims_emptyConditions (p : LineNo) : Trims s (s.emptyConditions p) :=
  ((((trims_dropCondition s p .jam).trans (trims_dropCondition _ p .doorOpen)).trans
    (trims_dropCondition _ p .mediaOut)).trans (trims_dropCondition _ p .supplyLow)).thenLine p
      (fun l => { l with jamTag := none }) fun _ => rfl

theorem trims_enterRetired (p : LineNo) : Trims s (s.enterRetired p) := by
  have hup (v : State) : Trims v (if (v.line p).lineDown then
      (v.modLine p fun l => { l with lineDown := false }).clearAlert .lineDown (.printer p) else v) := by
    split
    · refine trims_lineAlert v p _ ?_ _ _
      exact fun _ => rfl
    · exact .refl v
  exact (((trims_unbindAll s p).trans (hup _)).trans (trims_emptyConditions _ p)).thenLine p
    (fun l => { lossFlags l with state := .retired }) fun _ => rfl

theorem trims_retireIfEmpty (p : LineNo) : Trims s (s.retireIfEmpty p) := by
  by_cases h : Retires (s.line p)
  · rw [retireIfEmpty_enters h]
    exact trims_enterRetired s p
  · rw [retireIfEmpty_stays h]
    exact .refl s

/-! ### The clearing of entries -/

theorem trims_returnEntry (e : Entry) : Trims s (s.returnEntry e) := by
  unfold State.returnEntry
  split
  · exact .modAccount s _ _ fun _ _ h => h
  · exact .refl s

theorem trims_rewind (p : LineNo) (j : Nat) : Trims s (State.rewind p s j) := by
  have hline : Trims s (s.modLine p (keepEntries fun e => decide (e.job ≠ j))) := .modLine s p _ fun _ _ h => h
  exact (hline.trans (.foldl trims_returnEntry _ _)).trans (.same rfl rfl rfl)

theorem trims_clearStall (p : LineNo) : Trims s (s.clearStall p) := by
  unfold State.clearStall
  split
  · refine trims_lineAlert s p _ ?_ _ _
    exact fun _ => rfl
  · exact .refl s

theorem trims_listEmptied (p : LineNo) : Trims s (s.listEmptied p) := by
  unfold State.listEmptied
  split
  · have hline : Trims s (s.modLine p fun l => { l with armed := false, stall := .stopped }) :=
      Trims.thenLine (.refl s) p (fun l => { l with armed := false, stall := .stopped }) fun _ => rfl
    exact hline.trans (trims_clearStall _ p)
  · exact .refl s

theorem trims_clearEntries (p : LineNo) (P : Entry → Bool) : Trims s (s.clearEntries p P) := by
  have hgone : Trims s (s.discardEntries p P) :=
    (Trims.modLine s p (keepEntries fun e => !(P e && s.entryKilled e)) fun _ _ h => h).trans
      (.foldl trims_returnEntry _ _)
  exact (hgone.trans (.foldl (fun t j => trims_rewind t p j) _ _)).trans (trims_listEmptied _ p)

end

/-! ### The lines and the other jobs, when a job is killed -/

section
variable (s : State) {j : Nat}

theorem queuesOnly_kill (j : Nat) (run : RunState) : QueuesOnly s (s.kill j run) := by
  cases h : s.job? j with
  | none =>
    rw [State.kill_none run h]
    exact .refl s
  | some x =>
    intro q
    rw [State.kill_line run h, State.killed_line run h]
    split
    · exact ⟨_, _, rfl⟩
    · exact ⟨_, _, rfl⟩

theorem spared_kill {k : Nat} (hk : k ≠ j) (run : RunState) : Spared k s (s.kill j run) := by
  cases h : s.job? j with
  | none =>
    rw [State.kill_none run h]
    exact .refl k s
  | some x =>
    have hkilled : Spared k s (s.killed x j run) :=
      (((spared_modJob s hk (killedJob run) fun _ => rfl).trans (spared_leaveWaiting _ hk)).trans
        (spared_unqueue _ hk)).trans (spared_leaveQuota _ k x.account j)
    refine hkilled.trans (.same (State.kill_job?_ne run h hk) ?_)
    rw [State.kill_waiting run h, State.killed_waiting]

end

/-! ### An event alert is always sent -/

theorem openAlert_event_sends {s : State} {k : AlertKind} (subj : Subject) (d : Detail) (hk : isCondition k = false)
    (hlaw : AlertTableLaw s) : ∃ f : AlertFrame, (s.openAlert k subj d).shopOut = s.shopOut ++ [.alert f] ∧
      f.kind = k ∧ f.subject = subj ∧ f.detail = d := by
  unfold State.openAlert
  cases hof : s.alertOf k subj with
  | some r =>
    obtain ⟨-, -, -, -, hevents⟩ := hlaw
    have hmatch := List.find?_some hof
    simp only [Bool.and_eq_true, decide_eq_true_eq] at hmatch
    obtain ⟨hkind, hsubject⟩ := hmatch
    have hcleared : r.state = .cleared := hevents r (List.mem_of_find?_eq_some hof) (by rw [hkind]; exact hk)
    dsimp only
    rw [if_pos hcleared]
    exact ⟨_, rfl, hkind, hsubject, rfl⟩
  | none =>
    cases hplace : s.alertPlace with
    | none => exact ⟨_, rfl, rfl, rfl, rfl⟩
    | some t =>
      obtain ⟨rfl, _⟩ | ⟨n, _, rfl⟩ := alertPlace_some hplace <;> dsimp only <;> split <;> exact ⟨_, rfl, rfl, rfl, rfl⟩

end Sys2Proof.Machine
end

-- O54: what follows the end of a flush.
section
namespace Sys2Proof.Machine

/-- The lines keep all but their queues, the accounts their figures, and no list grows. -/
structure Ebbs (s t : State) : Prop where
  queues : QueuesOnly s t
  steady : Steady s t
  trims : Trims s t

section
variable {s t u : State}

theorem Ebbs.refl (s : State) : Ebbs s s := ⟨.refl s, .refl s, .refl s⟩

theorem Ebbs.trans (h : Ebbs s t) (g : Ebbs t u) : Ebbs s u :=
  ⟨h.queues.trans g.queues, h.steady.trans g.steady, h.trims.trans g.trims⟩

theorem Ebbs.foldl {β : Type} {f : State → β → State} (hf : ∀ s b, Ebbs s (f s b)) (l : List β) (s : State) :
    Ebbs s (l.foldl f s) := by
  induction l generalizing s with
  | nil => exact .refl s
  | cons b l ih => exact (hf s b).trans (ih (f s b))

variable (s)

theorem ebbs_modJob (j : Nat) (f : Job → Job) : Ebbs s (s.modJob j f) :=
  ⟨.same rfl, .same rfl rfl rfl, .same rfl rfl rfl⟩

theorem ebbs_rechoose (p : LineNo) : Ebbs s (s.rechoose p) :=
  ⟨queuesOnly_rechoose s p, steady_rechoose s p, trims_rechoose s p⟩

theorem ebbs_endLeaving (j : Nat) : Ebbs s (s.endLeaving j) :=
  ⟨queuesOnly_endLeaving s j, steady_endLeaving s j, trims_endLeaving s j⟩

theorem ebbs_kill (j : Nat) (run : RunState) : Ebbs s (s.kill j run) :=
  ⟨queuesOnly_kill s j run, steady_kill s j run, trims_kill s j run⟩

theorem ebbs_openAlert (k : AlertKind) (subj : Subject) (d : Detail) : Ebbs s (s.openAlert k subj d) := by
  refine ⟨.same ?_, steady_openAlert s k subj d, trims_openAlert s k subj d⟩
  rw [State.openAlert_signals, State.signalsOf_lines]

theorem ebbs_releasesIfKilled (js : List Nat) : Ebbs s (s.releasesIfKilled js) := by
  refine ⟨.same (s.releasesIfKilled_lines js), ?_, trims_releasesIfKilled s js⟩
  exact Steady.foldl (fun t j => t.releaseIfKilled_cases j (Steady t) (.refl t) (steady_releaseStorage t j)) js s

end

/-! ### The count of attempts without progress (R149 to R151) -/

/-- The job with a new count of attempts. -/
def countedJob (n : Nat) (x : Job) : Job := { x with noProgress := n }

section
variable {s : State} {j : Nat} {x : Job}

/-- The count after one more attempt. -/
def attempts (x : Job) : Nat := min 15 (x.noProgress + 1)

theorem countNoProgress_none (h : s.job? j = none) : s.countNoProgress j = s := by
  unfold State.countNoProgress
  simp only [h]

variable (h : s.job? j = some x)
include h

theorem countNoProgress_killed (hk : jobKilled x = true) : s.countNoProgress j = s := by
  unfold State.countNoProgress
  simp only [h]
  exact if_pos hk

theorem countNoProgress_live (hk : jobKilled x = false) : s.countNoProgress j =
    if s.settings.retryLimit ≠ 0 ∧ s.settings.retryLimit ≤ attempts x then
      ((s.modJob j (countedJob (attempts x))).kill j .failed).openAlert .jobFailed (.job j)
        ⟨none, some ⟨j, x.confirm.sheet, x.confirm.copy⟩, none, none⟩
    else s.modJob j (countedJob (attempts x)) := by
  unfold State.countNoProgress
  simp only [h]
  refine (if_neg (by rw [hk]; exact Bool.false_ne_true)).trans ?_
  have hattempts : saturate 15 (x.noProgress + 1) = attempts x := saturate_eq 15 _
  have hnumber : x.number = j := job_number h
  rw [hattempts, confirmRef, hnumber]
  rfl

theorem countNoProgress_counts (hk : jobKilled x = false)
    (hlimit : s.settings.retryLimit = 0 ∨ attempts x < s.settings.retryLimit) :
    s.countNoProgress j = s.modJob j (countedJob (attempts x)) := by
  rw [countNoProgress_live h hk, if_neg]
  intro hc
  obtain ⟨hzero, hle⟩ := hc
  omega

theorem countNoProgress_fails (hk : jobKilled x = false) (hzero : s.settings.retryLimit ≠ 0)
    (hle : s.settings.retryLimit ≤ attempts x) : s.countNoProgress j =
    ((s.modJob j (countedJob (attempts x))).kill j .failed).openAlert .jobFailed (.job j)
      ⟨none, some ⟨j, x.confirm.sheet, x.confirm.copy⟩, none, none⟩ := by
  rw [countNoProgress_live h hk, if_pos ⟨hzero, hle⟩]

end

section
variable (s : State) (j : Nat)

theorem ebbs_countNoProgress : Ebbs s (s.countNoProgress j) := by
  unfold State.countNoProgress
  split
  · exact .refl s
  · split
    · exact .refl s
    · dsimp only
      split
      · exact ((ebbs_modJob s j _).trans (ebbs_kill _ j .failed)).trans (ebbs_openAlert _ _ _ _)
      · exact ebbs_modJob s j _

theorem spared_openAlert (k : Nat) (a : AlertKind) (subj : Subject) (d : Detail) : Spared k s (s.openAlert a subj d) := by
  rw [State.openAlert_signals]
  exact (Spared.refl k s).signals _

theorem spared_countNoProgress {k : Nat} (hk : k ≠ j) : Spared k s (s.countNoProgress j) := by
  unfold State.countNoProgress
  split
  · exact .refl k s
  · split
    · exact .refl k s
    · rename_i x _ _
      have hcount := spared_modJob s hk (countedJob (saturate 15 (x.noProgress + 1))) fun _ => rfl
      dsimp only
      split
      · exact (hcount.trans (spared_kill _ hk .failed)).trans (spared_openAlert _ k _ _ _)
      · exact hcount

/-- A count takes no other job out of a queue. -/
theorem countNoProgress_queue {k : Nat} (hk : k ≠ j) {q : LineNo} (hmem : k ∈ (s.line q).queue) :
    k ∈ ((s.countNoProgress j).line q).queue := by
  have hwithout (l : Line) (hl : k ∈ l.queue) : k ∈ (withoutJob j l).queue :=
    List.mem_filter.mpr ⟨hl, decide_eq_true hk⟩
  cases h : s.job? j with
  | none => rwa [countNoProgress_none h]
  | some x =>
    cases hkilled : jobKilled x with
    | true => rwa [countNoProgress_killed h hkilled]
    | false =>
      rw [countNoProgress_live h hkilled]
      have hcounted : (s.modJob j (countedJob (attempts x))).job? j = some (countedJob (attempts x) x) :=
        s.job_modJob_self j (countedJob (attempts x)) x h fun _ => rfl
      split
      · rw [State.openAlert_signals, State.signalsOf_line, State.kill_line _ hcounted, State.killed_line _ hcounted]
        split
        · exact hwithout (s.line q) hmem
        · exact hmem
      · exact hmem

end

/-! ### The jobs after their rewinding (R60) -/

section
variable (s : State) (j : Nat)

theorem ebbs_afterRewind : Ebbs s (s.afterRewind j) := by
  unfold State.afterRewind
  split
  · exact .refl s
  · split
    · exact ebbs_modJob s j _
    · split
      · exact ebbs_endLeaving s j
      · exact .refl s

/-- The job goes back into its queue. -/
def requeuedJob (x : Job) : Job := { x with run := .queued }

variable {s j} in
theorem afterRewind_feeds {x : Job} (h : s.job? j = some x) (hrun : x.run = .feeding ∨ x.run = .draining) :
    s.afterRewind j = s.modJob j requeuedJob := by
  unfold State.afterRewind
  simp only [h]
  exact if_pos hrun

variable {s j} in
theorem afterRewind_stays {x : Job} (h : s.job? j = some x) (hfeeding : x.run ≠ .feeding) (hdraining : x.run ≠ .draining)
    (hleaving : x.run ≠ .leaving) : s.afterRewind j = s := by
  unfold State.afterRewind
  simp only [h]
  exact (if_neg fun hc => hc.elim hfeeding hdraining).trans (if_neg hleaving)

theorem spared_afterRewind {k : Nat} (hk : k ≠ j) : Spared k s (s.afterRewind j) := by
  unfold State.afterRewind
  split
  · exact .refl k s
  · split
    · exact spared_modJob s hk requeuedJob fun _ => rfl
    · split
      · exact spared_endLeaving s hk
      · exact .refl k s

theorem workKept_afterRewind (k : Nat) : WorkKept k s (s.afterRewind j) := by
  unfold State.afterRewind
  split
  · exact .refl k s
  · split
    · exact workKept_modJob s k j requeuedJob (fun _ => rfl) fun _ => ⟨fun h => RunState.noConfusion h, rfl⟩
    · split
      · exact workKept_endLeaving s k j
      · exact .refl k s

end

section
variable (s : State) (p : LineNo) (js : List Nat)

/-- The jobs of the queue that a flush has rewound. -/
def State.rewoundQueue : List Nat := (s.line p).queue.filter fun j => decide (j ∈ js)

theorem State.afterRewinds_eq : s.afterRewinds p js = ((s.rewoundQueue p js).foldl State.afterRewind s).rechoose p := rfl

theorem ebbs_afterRewinds : Ebbs s (s.afterRewinds p js) := by
  rw [State.afterRewinds_eq]
  exact (Ebbs.foldl ebbs_afterRewind _ s).trans (ebbs_rechoose _ p)

theorem workKept_afterRewinds (k : Nat) : WorkKept k s (s.afterRewinds p js) := by
  rw [State.afterRewinds_eq]
  exact (WorkKept.foldl (fun t j => workKept_afterRewind t j k) _ s).trans (workKept_rechoose _ k p)

theorem spared_afterRewinds {k : Nat} (hk : k ∉ (s.line p).queue) : Spared k s (s.afterRewinds p js) := by
  rw [State.afterRewinds_eq]
  refine (Spared.foldl _ (fun j hj t => ?_) s).trans (spared_rechoose _ k p)
  refine spared_afterRewind t j fun he => hk ?_
  rw [he]
  exact (List.mem_filter.mp hj).1

/-- A job that its printer feeds, or may feed. -/
def Fed (k : Nat) (b : Option LineNo) (runs : RunState → Prop) (s : State) : Prop :=
  ∃ y, s.job? k = some y ∧ y.bound = b ∧ runs y.run

variable {s}

theorem Fed.spared {k : Nat} {b : Option LineNo} {runs : RunState → Prop} {t : State} (h : Fed k b runs s)
    (hs : Spared k s t) (hfeed : ∀ r, isFeedable r = true → runs r) : Fed k b runs t := by
  obtain ⟨y, hy, hb, hrun⟩ := h
  obtain ⟨z, hz, r, rfl, hr⟩ := hs.job y hy
  refine ⟨_, hz, hb, ?_⟩
  obtain hr | ⟨-, hr⟩ := hr
  · show runs r
    rw [hr]
    exact hrun
  · exact hfeed r hr

/-- A rewound job that was feeding or draining is queued again (R60). -/
theorem fed_afterRewind {k : Nat} {b : Option LineNo}
    (h : Fed k b (fun r => r = .feeding ∨ r = .draining ∨ r = .queued) s) :
    Fed k b (fun r => isFeedable r = true) (s.afterRewind k) := by
  obtain ⟨y, hy, hb, hrun⟩ := h
  by_cases hqueued : y.run = .queued
  · rw [afterRewind_stays hy (by rw [hqueued]; exact RunState.noConfusion) (by rw [hqueued]; exact RunState.noConfusion)
      (by rw [hqueued]; exact RunState.noConfusion)]
    exact ⟨y, hy, hb, by rw [hqueued]; rfl⟩
  · have hfeeds : y.run = .feeding ∨ y.run = .draining := (or_assoc.mpr hrun).resolve_right hqueued
    rw [afterRewind_feeds hy hfeeds]
    exact ⟨requeuedJob y, s.job_modJob_self k requeuedJob y hy fun _ => rfl, hb, rfl⟩

theorem fed_afterRewinds {k : Nat} {b : Option LineNo} (hk : k ∈ s.rewoundQueue p js)
    (h : Fed k b (fun r => r = .feeding ∨ r = .draining ∨ r = .queued) s) :
    Fed k b (fun r => isFeedable r = true) (s.afterRewinds p js) := by
  have hfeed : ∀ r : RunState, isFeedable r = true → r = .feeding ∨ r = .draining ∨ r = .queued := by
    intro r hr
    rcases isFeedable_iff.mp hr with hqueued | hfeeding
    · exact .inr (.inr hqueued)
    · exact .inl hfeeding
  have hdone (l : List Nat) (u : State) (hu : Fed k b (fun r => isFeedable r = true) u) :
      Fed k b (fun r => isFeedable r = true) (l.foldl State.afterRewind u) := by
    induction l generalizing u with
    | nil => exact hu
    | cons j l ih =>
      refine ih _ ?_
      by_cases hj : k = j
      · subst hj
        obtain ⟨y, hy, hb, hrun⟩ := hu
        exact fed_afterRewind ⟨y, hy, hb, hfeed _ hrun⟩
      · exact hu.spared (spared_afterRewind u j hj) fun _ hr => hr
  have hfold (l : List Nat) (u : State) (hl : k ∈ l) (hu : Fed k b (fun r => r = .feeding ∨ r = .draining ∨ r = .queued) u) :
      Fed k b (fun r => isFeedable r = true) (l.foldl State.afterRewind u) := by
    induction l generalizing u with
    | nil => exact absurd hl List.not_mem_nil
    | cons j l ih =>
      by_cases hj : k = j
      · subst hj
        exact hdone l _ (fed_afterRewind hu)
      · exact ih _ ((List.mem_cons.mp hl).resolve_left hj) (hu.spared (spared_afterRewind u j hj) hfeed)
  rw [State.afterRewinds_eq]
  exact (hfold _ s hk h).spared (spared_rechoose _ k p) fun _ hr => hr

/-- A job that is not leaving stays in the job table. -/
theorem stays_afterRewinds {k : Nat} (h : ∃ y, s.job? k = some y ∧ y.run ≠ .leaving) :
    ∃ y, (s.afterRewinds p js).job? k = some y ∧ y.run ≠ .leaving := by
  have hspared {u v : State} (hs : Spared k u v) (hu : ∃ y, u.job? k = some y ∧ y.run ≠ .leaving) :
      ∃ y, v.job? k = some y ∧ y.run ≠ .leaving := by
    obtain ⟨y, hy, hrun⟩ := hu
    obtain ⟨z, hz, r, rfl, hr⟩ := hs.job y hy
    refine ⟨_, hz, ?_⟩
    show r ≠ .leaving
    obtain hr | ⟨-, hr⟩ := hr
    · rw [hr]
      exact hrun
    · rintro rfl
      exact Bool.noConfusion hr
  have hfold (l : List Nat) (u : State) (hu : ∃ y, u.job? k = some y ∧ y.run ≠ .leaving) :
      ∃ y, (l.foldl State.afterRewind u).job? k = some y ∧ y.run ≠ .leaving := by
    induction l generalizing u with
    | nil => exact hu
    | cons j l ih =>
      refine ih _ ?_
      by_cases hj : k = j
      · subst hj
        obtain ⟨y, hy, hrun⟩ := hu
        by_cases hfeeds : y.run = .feeding ∨ y.run = .draining
        · rw [afterRewind_feeds hy hfeeds]
          exact ⟨requeuedJob y, u.job_modJob_self k requeuedJob y hy fun _ => rfl, RunState.noConfusion⟩
        · rw [not_or] at hfeeds
          rw [afterRewind_stays hy hfeeds.1 hfeeds.2 hrun]
          exact ⟨y, hy, hrun⟩
      · exact hspared (spared_afterRewind u j hj) hu
  rw [State.afterRewinds_eq]
  exact hspared (spared_rechoose _ k p) (hfold _ s h)

end

/-! ### The storage of the killed jobs (R17) -/

section
variable {s : State} {k : Nat} {z : Job}

theorem releaseIfKilled_live (h : s.job? k = some z) (hk : jobKilled z = false) : s.releaseIfKilled k = s := by
  unfold State.releaseIfKilled
  simp only [h, hk]
  rfl

theorem releaseIfKilled_killed (h : s.job? k = some z) (hk : jobKilled z = true) (he : s.hasEntries k = false) :
    s.releaseIfKilled k = s.releaseStorage k := by
  unfold State.releaseIfKilled
  simp only [h, hk, he]
  rfl

theorem releaseIfKilled_job?_ne (s : State) {j : Nat} (hj : k ≠ j) : (s.releaseIfKilled j).job? k = s.job? k :=
  s.releaseIfKilled_cases j (fun t => t.job? k = s.job? k) rfl ((s.releaseStorage_job? j k).trans (if_neg hj))

theorem releasesIfKilled_live (js : List Nat) (h : s.job? k = some z) (hk : jobKilled z = false) :
    (s.releasesIfKilled js).job? k = some z := by
  induction js generalizing s with
  | nil => exact h
  | cons j js ih =>
    show ((s.releaseIfKilled j).releasesIfKilled js).job? k = some z
    by_cases hj : k = j
    · subst hj
      rw [releaseIfKilled_live h hk]
      exact ih h
    · exact ih ((releaseIfKilled_job?_ne s hj).trans h)

theorem releasedJob_empty (storing : Bool) (z : Job) :
    releasedJob storing { z with sheets := [] } = { z with sheets := [] } := by
  cases storing <;> rfl

theorem releasesIfKilled_killed {js : List Nat} (hmem : k ∈ js) (h : s.job? k = some z) (hk : jobKilled z = true)
    (he : s.hasEntries k = false) (hs : s.storing k = false) :
    (s.releasesIfKilled js).job? k = some { z with sheets := [] } := by
  have hempty (l : List Nat) (u : State) (hu : u.job? k = some { z with sheets := [] }) :
      (u.releasesIfKilled l).job? k = some { z with sheets := [] } := by
    induction l generalizing u with
    | nil => exact hu
    | cons j l ih =>
      refine ih _ (u.releaseIfKilled_cases j (fun t => t.job? k = some { z with sheets := [] }) hu ?_)
      rw [State.releaseStorage_job?, hu]
      split
      · exact congrArg some (releasedJob_empty _ z)
      · rfl
  induction js generalizing s with
  | nil => exact absurd hmem List.not_mem_nil
  | cons j js ih =>
    show ((s.releaseIfKilled j).releasesIfKilled js).job? k = _
    by_cases hj : k = j
    · subst hj
      rw [releaseIfKilled_killed h hk he]
      refine hempty js _ ?_
      rw [State.releaseStorage_job?, if_pos rfl, h, hs]
      rfl
    · refine ih ((List.mem_cons.mp hmem).resolve_left hj) ((releaseIfKilled_job?_ne s hj).trans h) ?_ ?_
      · refine (State.hasEntries_congr (fun q => ?_) k).trans he
        rw [State.line_congr (s.releaseIfKilled_cases j (fun t => t.lines = s.lines) rfl (s.releaseStorage_lines j))]
      · refine (State.storing_congr ?_ k).trans hs
        exact s.releaseIfKilled_cases j (fun t => t.stores = s.stores) rfl (s.releaseStorage_stores j)

end

end Sys2Proof.Machine
end

-- O54: the end of a flush, stage by stage.
section
namespace Sys2Proof.Machine

/-- The line whose jam tag the end of a flush of purpose BLOCK has dropped (R149). -/
def untaggedLine (l : Line) : Line := { l with jamTag := none }

/-- The line without a flush. -/
def unflushedLine (l : Line) : Line := { l with flush := Purposes.none }

/-- The entry against whose job the end of a flush counts (R149, R150). -/
def flushCount (l : Line) : Option Entry := if l.flush.block = true then countedEntry l else none

/-- The state in which the flushing entries are off the list. -/
def State.flushCleared (s : State) (p : LineNo) : State := (s.modLine p flushedLine).clearEntries p isFlushing

/-- What the end of a flush makes of the line's record at once. -/
def flushTag (l : Line) : Line → Line := if l.flush.block = true then untaggedLine else id

/-- The state in which the jam tag has gone too. -/
def State.flushUntagged (s : State) (p : LineNo) : State := (s.flushCleared p).modLine p (flushTag (s.line p))

/-- The state after the count. -/
def State.flushCounted (s : State) (p : LineNo) : State :=
  match flushCount (s.line p) with
  | some e => (s.flushUntagged p).countNoProgress e.job
  | none => s.flushUntagged p

/-- The jobs of the entries that a flush takes. -/
def State.flushJobs (s : State) (p : LineNo) : List Nat := s.jobsOf p isFlushing

/-- The state in which the jobs have followed. -/
def State.flushSettled (s : State) (p : LineNo) : State :=
  ((s.flushCounted p).afterRewinds p (s.flushJobs p)).releasesIfKilled (s.flushJobs p)

section
variable (s : State) (p : LineNo)

theorem countFlush_eq : (s.flushCleared p).countFlush p (s.line p).flush.block (countedEntry (s.line p)) =
    s.flushCounted p := by
  unfold State.countFlush State.flushCounted flushCount State.flushUntagged flushTag
  cases hb : (s.line p).flush.block with
  | true =>
    rw [if_pos rfl, if_pos rfl, if_pos rfl]
    cases countedEntry (s.line p) <;> rfl
  | false =>
    rw [if_neg Bool.false_ne_true, if_neg Bool.false_ne_true, if_neg Bool.false_ne_true]
    exact ((s.flushCleared p).modLine_same p id rfl).symm

theorem endFlush_eq : s.endFlush p = ((s.flushSettled p).modLine p unflushedLine).retireIfEmpty p := by
  have hend : s.endFlush p = (((((s.flushCleared p).countFlush p (s.line p).flush.block
      (countedEntry (s.line p))).afterRewinds p (s.flushJobs p)).releasesIfKilled (s.flushJobs p)).modLine p
        unflushedLine).retireIfEmpty p := rfl
  rw [hend, countFlush_eq]
  rfl

/-! ### The lines -/

theorem ebbs_flushCounted : Ebbs (s.flushUntagged p) (s.flushCounted p) := by
  unfold State.flushCounted
  split
  · exact ebbs_countNoProgress _ _
  · exact .refl _

theorem ebbs_flushSettled : Ebbs (s.flushUntagged p) (s.flushSettled p) :=
  ((ebbs_flushCounted s p).trans (ebbs_afterRewinds _ p _)).trans (ebbs_releasesIfKilled _ _)

/-- The entries that the end of a flush leaves. -/
def State.flushStays (s : State) (p : LineNo) : Entry → Bool := (s.modLine p flushedLine).stays p isFlushing

theorem State.flushCleared_line_self :
    (s.flushCleared p).line p = emptiedList (keepEntries (s.flushStays p) (flushedLine (s.line p))) := by
  unfold State.flushCleared
  rw [State.clearEntries_line_self, State.line_modLine_self]
  rfl

theorem State.flushCleared_line_ne {q : LineNo} (hq : q ≠ p) : (s.flushCleared p).line q = s.line q := by
  unfold State.flushCleared
  rw [State.clearEntries_line_ne _ p isFlushing hq, State.line_modLine_ne _ _ hq]

theorem flushUntagged_line_self :
    (s.flushUntagged p).line p = flushTag (s.line p) ((s.flushCleared p).line p) := State.line_modLine_self ..

theorem flushUntagged_line_ne {q : LineNo} (hq : q ≠ p) : (s.flushUntagged p).line q = s.line q :=
  (State.line_modLine_ne _ _ hq).trans (s.flushCleared_line_ne p hq)

/-- The line's record at the end of a flush, but for its queue. -/
def State.flushLine (s : State) (p : LineNo) : Line := unflushedLine ((s.flushUntagged p).line p)

theorem unflushedLine_queue (l : Line) (a : List Nat) (b : Option Nat) :
    unflushedLine { l with queue := a, feeding := b } = { unflushedLine l with queue := a, feeding := b } := rfl

theorem retireIfEmpty_line_queues {u : State} {q : LineNo} {l : Line} {a : List Nat} {b : Option Nat} {α : Type}
    (figureOf : Line → α) (hqueue : ∀ l a b, figureOf { l with queue := a, feeding := b } = figureOf l)
    (hretired : Retires l → figureOf (retiredLine l) = figureOf l)
    (hline : u.line q = { l with queue := a, feeding := b }) :
    figureOf ((u.retireIfEmpty q).line q) = figureOf l := by
  rw [retireIfEmpty_line_keeps figureOf hqueue, hline, hqueue]
  rw [hline]
  intro hretires
  have hsame := hqueue (retiredLine l) a b
  exact (hsame.trans (hretired hretires)).trans (hqueue l a b).symm

theorem unflushedLine_pending (l : Line) : flushPending (unflushedLine l).flush = false := rfl

theorem retiredLine_inflight (l : Line) : (retiredLine l).inflight = l.inflight := rfl

theorem retiredLine_credits (l : Line) : (retiredLine l).credits = l.credits := rfl

theorem retiredLine_flush (l : Line) : (retiredLine l).flush = l.flush := rfl

theorem retiredLine_flushLimit (l : Line) : (retiredLine l).flushLimit = .stopped := rfl

theorem retiredLine_jamTag (l : Line) : (retiredLine l).jamTag = none := rfl

theorem endFlush_line_keeps {α : Type} (figureOf : Line → α)
    (hqueue : ∀ l a b, figureOf { l with queue := a, feeding := b } = figureOf l)
    (hretired : Retires (s.flushLine p) → figureOf (retiredLine (s.flushLine p)) = figureOf (s.flushLine p)) :
    figureOf ((s.endFlush p).line p) = figureOf (s.flushLine p) := by
  obtain ⟨a, b, hab⟩ := (ebbs_flushSettled s p).queues p
  rw [endFlush_eq]
  refine retireIfEmpty_line_queues figureOf hqueue hretired (a := a) (b := b) ?_
  rw [State.line_modLine_self, hab]
  exact unflushedLine_queue _ a b

theorem endFlush_line_ne {α : Type} (figureOf : Line → α)
    (hqueue : ∀ l a b, figureOf { l with queue := a, feeding := b } = figureOf l) {q : LineNo} (hq : q ≠ p) :
    figureOf ((s.endFlush p).line q) = figureOf (s.line q) := by
  rw [endFlush_eq, retireIfEmpty_line_ne hq, State.line_modLine_ne _ _ hq,
    (ebbs_flushSettled s p).queues.figure figureOf hqueue q, flushUntagged_line_ne s p hq]

theorem flushTag_keeps {α : Type} (figureOf : Line → α) (hf : ∀ l, figureOf (untaggedLine l) = figureOf l) (l m : Line) :
    figureOf (flushTag l m) = figureOf m := by
  unfold flushTag
  split
  · exact hf m
  · rfl

theorem flushLine_keeps {α : Type} (figureOf : Line → α) (hf : ∀ l, figureOf (untaggedLine l) = figureOf l)
    (hflush : ∀ l, figureOf (unflushedLine l) = figureOf l) :
    figureOf (s.flushLine p) = figureOf ((s.flushCleared p).line p) := by
  unfold State.flushLine
  rw [hflush, flushUntagged_line_self, flushTag_keeps figureOf hf]

theorem emptiedList_keeps {α : Type} (figureOf : Line → α)
    (hf : ∀ l, figureOf { l with armed := false, stall := .stopped, stalled := false } = figureOf l) (l : Line) :
    figureOf (emptiedList l) = figureOf l := by
  unfold emptiedList
  split
  · exact hf l
  · rfl

theorem flushLine_inflight : (s.flushLine p).inflight = (s.line p).inflight.filter (s.flushStays p) := by
  rw [flushLine_keeps s p Line.inflight (fun _ => rfl) fun _ => rfl, State.flushCleared_line_self, emptiedList_inflight]
  rfl

theorem State.flushLine_flushLimit : (s.flushLine p).flushLimit = .stopped := by
  rw [flushLine_keeps s p Line.flushLimit (fun _ => rfl) fun _ => rfl, State.flushCleared_line_self,
    emptiedList_keeps Line.flushLimit fun _ => rfl]
  rfl

theorem flushLine_credits : (s.flushLine p).credits = (s.line p).capacity := by
  rw [flushLine_keeps s p Line.credits (fun _ => rfl) fun _ => rfl, State.flushCleared_line_self,
    emptiedList_keeps Line.credits fun _ => rfl]
  rfl

theorem flushLine_state : (s.flushLine p).state = (s.line p).state := by
  rw [flushLine_keeps s p Line.state (fun _ => rfl) fun _ => rfl, State.flushCleared_line_self,
    emptiedList_keeps Line.state fun _ => rfl]
  rfl

theorem endFlush_inflight : ((s.endFlush p).line p).inflight = (s.line p).inflight.filter (s.flushStays p) := by
  rw [endFlush_line_keeps s p Line.inflight (fun _ _ _ => rfl) fun _ => retiredLine_inflight _, flushLine_inflight]

theorem endFlush_credits : ((s.endFlush p).line p).credits = (s.line p).capacity := by
  rw [endFlush_line_keeps s p Line.credits (fun _ _ _ => rfl) fun _ => retiredLine_credits _, flushLine_credits]

theorem endFlush_flush : flushPending ((s.endFlush p).line p).flush = false := by
  rw [endFlush_line_keeps s p Line.flush (fun _ _ _ => rfl) fun _ => retiredLine_flush _, State.flushLine]
  exact unflushedLine_pending _

theorem endFlush_flushLimit : ((s.endFlush p).line p).flushLimit = .stopped := by
  rw [endFlush_line_keeps s p Line.flushLimit (fun _ _ _ => rfl) fun _ =>
      (retiredLine_flushLimit _).trans (s.flushLine_flushLimit p).symm,
    State.flushLine_flushLimit]

theorem endFlush_jamTag (hb : (s.line p).flush.block = true) : ((s.endFlush p).line p).jamTag = none := by
  have htag : (s.flushLine p).jamTag = none := by
    unfold State.flushLine
    rw [flushUntagged_line_self, flushTag, if_pos hb]
    rfl
  rw [endFlush_line_keeps s p Line.jamTag (fun _ _ _ => rfl) fun _ => (retiredLine_jamTag _).trans htag.symm, htag]

/-- No flushing entry stays on the list. -/
theorem State.flushStays_not {e : Entry} (he : e ∈ (s.line p).inflight) (hf : e.flushing = true) : s.flushStays p e = false := by
  refine (s.modLine p flushedLine).stays_not p isFlushing ?_ hf
  rw [State.line_modLine_self]
  exact he

theorem endFlush_stays (e : Entry) (he : e ∈ ((s.endFlush p).line p).inflight) :
    e ∈ (s.line p).inflight ∧ e.flushing = false := by
  rw [endFlush_inflight] at he
  obtain ⟨hmem, hstays⟩ := List.mem_filter.mp he
  refine ⟨hmem, Bool.eq_false_iff.mpr fun hf => ?_⟩
  rw [s.flushStays_not p hmem hf] at hstays
  exact Bool.noConfusion hstays

theorem endFlush_empty (h : ∀ e ∈ (s.line p).inflight, e.flushing = true) : ((s.endFlush p).line p).inflight = [] := by
  rw [endFlush_inflight]
  exact List.filter_eq_nil_iff.mpr fun e he => by simp [s.flushStays_not p he (h e he)]

/-! ### The accounts -/

theorem endFlush_figures (a : AccountNo) : sameFigures ((s.flushCleared p).account a) ((s.endFlush p).account a) := by
  have huntagged := State.account_congr (State.modLine_accounts (s.flushCleared p) p (flushTag (s.line p))) a
  have hsettled := (ebbs_flushSettled s p).steady.figures a
  rw [State.flushUntagged, huntagged] at hsettled
  rw [endFlush_eq, State.account_congr retireIfEmpty_accounts,
    State.account_congr (State.modLine_accounts (s.flushSettled p) p unflushedLine)]
  exact hsettled

theorem flushCleared_account (h : ∀ e ∈ (s.line p).inflight, e.flushing = true) (a : AccountNo) :
    (s.flushCleared p).account a = s.returned (s.line p).inflight a := by
  obtain ⟨es, hgives⟩ := givesUp_clearEntries (s.modLine p flushedLine) p isFlushing
  have hline : (s.modLine p flushedLine).line p = flushedLine (s.line p) := s.line_modLine_self p _
  have hnil : (((s.modLine p flushedLine).clearEntries p isFlushing).line p).inflight = [] := by
    rw [State.clearEntries_empty _ p isFlushing (by rw [hline]; exact h)]
  have hall := hgives.all hnil a
  rw [hline] at hall
  exact hall

/-! ### The jobs right after the flush -/

theorem State.flushCleared_job? (k : Nat) : (s.flushCleared p).job? k =
    if k ∈ (s.modLine p flushedLine).rewoundJobs p isFlushing then (s.job? k).map rewound else s.job? k := by
  unfold State.flushCleared
  rw [State.clearEntries_job?]
  rfl

theorem entryKilled_flushed (e : Entry) : (s.modLine p flushedLine).entryKilled e = s.entryKilled e := rfl

theorem State.mem_flushRewound {k : Nat} : k ∈ (s.modLine p flushedLine).rewoundJobs p isFlushing ↔
    ∃ e ∈ (s.line p).inflight, e.flushing = true ∧ s.entryKilled e = false ∧ e.job = k := by
  have hline : ((s.modLine p flushedLine).line p).inflight = (s.line p).inflight := by
    rw [State.line_modLine_self]
    rfl
  rw [State.mem_rewoundJobs, hline]
  rfl

theorem State.mem_flushJobs {k : Nat} : k ∈ s.flushJobs p ↔
    ∃ e ∈ (s.line p).inflight, e.flushing = true ∧ e.job = k := by
  unfold State.flushJobs State.jobsOf entryJobs
  rw [mem_dedup]
  simp only [List.mem_map, List.mem_filter, isFlushing]
  constructor
  · rintro ⟨e, ⟨he, hf⟩, hj⟩
    exact ⟨e, he, hf, hj⟩
  · rintro ⟨e, he, hf, hj⟩
    exact ⟨e, ⟨he, hf⟩, hj⟩

variable {s p}

theorem entryKilled_job {e : Entry} {x : Job} (h : s.job? e.job = some x) : s.entryKilled e = jobKilled x := by
  unfold State.entryKilled
  simp only [h]

/-- A live job with a flushing entry is rewound, and a killed one is not. -/
theorem flushUntagged_rewound {e : Entry} {x : Job} (he : e ∈ (s.line p).inflight) (hf : e.flushing = true)
    (hx : s.job? e.job = some x) (hk : jobKilled x = false) : (s.flushUntagged p).job? e.job = some (rewound x) := by
  have hmem := (s.mem_flushRewound p).mpr ⟨e, he, hf, (entryKilled_job hx).trans hk, rfl⟩
  have hjob := s.flushCleared_job? p e.job
  rw [if_pos hmem, hx] at hjob
  exact (State.job?_congr (State.modLine_jobs ..) _).trans hjob

theorem flushUntagged_killed {k : Nat} {x : Job} (hx : s.job? k = some x) (hk : jobKilled x = true) :
    (s.flushUntagged p).job? k = some x := by
  have hnot : k ∉ (s.modLine p flushedLine).rewoundJobs p isFlushing := by
    rw [State.mem_flushRewound]
    rintro ⟨e, -, -, hlive, rfl⟩
    rw [entryKilled_job hx, hk] at hlive
    exact Bool.noConfusion hlive
  have hjob := s.flushCleared_job? p k
  rw [if_neg hnot, hx] at hjob
  exact (State.job?_congr (State.modLine_jobs ..) _).trans hjob

theorem flushUntagged_noProgress {k : Nat} {x : Job} (hx : s.job? k = some x) :
    ∃ y, (s.flushUntagged p).job? k = some y ∧ y.noProgress = x.noProgress := by
  have hjob := (State.job?_congr (State.modLine_jobs (s.flushCleared p) p (flushTag (s.line p))) k).trans
    (s.flushCleared_job? p k)
  rw [hx] at hjob
  split at hjob
  · exact ⟨_, hjob, rfl⟩
  · exact ⟨x, hjob, rfl⟩

end

end Sys2Proof.Machine
end

-- O54: the jobs at the end of a flush.
section
namespace Sys2Proof.Machine

/-! ### A line's retirement and the jobs -/

section
variable (s : State) (p : LineNo) (k : Nat)

theorem spared_retireIfEmpty (hk : k ∉ (s.line p).queue) : Spared k s (s.retireIfEmpty p) := by
  by_cases h : Retires (s.line p)
  · have hunbind : Spared k s (s.unbindAll p) := by
      rw [State.unbindAll_eq]
      exact (Spared.foldl (f := fun t j => t.unbind p j) _ (fun j hj t => spared_unbind t (ne_of_mem_of_not_mem hj hk).symm p)
        s).trans (spared_rechoose _ k p)
    rw [retireIfEmpty_enters h]
    exact hunbind.trans (.same (s.enterRetired_job? p k) (s.enterRetired_waiting p))
  · rw [retireIfEmpty_stays h]
    exact .refl k s

theorem unbindList_isSome (l : List Nat) : ((s.unbindList p l).job? k).isSome = (s.job? k).isSome := by
  induction l generalizing s with
  | nil => rfl
  | cons j l ih =>
    show (((s.unbind p j).unbindList p l).job? k).isSome = _
    rw [ih, State.unbind_job?]
    split
    · rw [Option.isSome_map]
    · rfl

theorem retireIfEmpty_isSome : ((s.retireIfEmpty p).job? k).isSome = (s.job? k).isSome := by
  by_cases h : Retires (s.line p)
  · rw [retireIfEmpty_enters h, State.enterRetired_job?, State.unbindAll_eq, State.rechoose_job?, Option.isSome_map,
      unbindList_isSome]
  · rw [retireIfEmpty_stays h]

end

/-! ### From the count to the end -/

theorem unflushedLine_state (l : Line) : (unflushedLine l).state = l.state := rfl

theorem flushUntagged_state (s : State) (p : LineNo) : ((s.flushUntagged p).line p).state = (s.line p).state :=
  (unflushedLine_state _).symm.trans (flushLine_state s p)

section
variable {s : State} {p : LineNo} {k : Nat}

theorem endFlush_counted_work : WorkKept k (s.flushCounted p) (s.endFlush p) := by
  have hreleased : WorkKept k (s.flushCounted p) (s.flushSettled p) :=
    (workKept_afterRewinds _ p _ k).trans (sheetsOnly_releasesIfKilled _ _ k).work
  have hunflushed : WorkKept k (s.flushSettled p) ((s.flushSettled p).modLine p unflushedLine) :=
    .same (State.job?_congr (State.modLine_jobs ..) k)
  rw [endFlush_eq]
  exact (hreleased.trans hunflushed).trans (workKept_retireIfEmpty k)

theorem endFlush_counted_trims : Trims (s.flushCounted p) (s.endFlush p) := by
  have hsettled : Trims (s.flushCounted p) (s.flushSettled p) :=
    ((ebbs_afterRewinds _ p _).trims).trans (trims_releasesIfKilled _ _)
  rw [endFlush_eq]
  exact (hsettled.thenLine p unflushedLine fun _ => rfl).trans (trims_retireIfEmpty _ p)

theorem flushUntagged_trims : Trims s (s.flushUntagged p) := by
  have hline : Trims s (s.modLine p flushedLine) := (Trims.refl s).thenLine p flushedLine fun _ => rfl
  refine (hline.trans (trims_clearEntries _ p isFlushing)).thenLine p (flushTag (s.line p)) fun l => ?_
  exact flushTag_keeps Line.queue (fun _ => rfl) (s.line p) l

theorem not_mem_flushCounted (hk : k ∉ (s.line p).queue) : k ∉ ((s.flushCounted p).line p).queue := fun h =>
  hk (flushUntagged_trims.queue p k ((ebbs_flushCounted s p).trims.queue p k h))

/-- The last stage leaves a job that is not in the line's queue as it is. -/
theorem endFlush_settled_job {y : Job} (hk : k ∉ ((s.flushSettled p).line p).queue)
    (hy : (s.flushSettled p).job? k = some y) (hrun : isFeedable y.run = false) : (s.endFlush p).job? k = some y := by
  have hline : (((s.flushSettled p).modLine p unflushedLine).line p).queue = ((s.flushSettled p).line p).queue := by
    rw [State.line_modLine_self]
    rfl
  have hjob : ((s.flushSettled p).modLine p unflushedLine).job? k = some y :=
    (State.job?_congr (State.modLine_jobs ..) k).trans hy
  obtain ⟨z, hz, hrerun⟩ := (spared_retireIfEmpty _ p k (by rw [hline]; exact hk)).job y hjob
  rw [endFlush_eq, hz, hrerun.unfed hrun]

theorem endFlush_job_same (h : (s.line p).state ≠ .retiring) : (s.endFlush p).job? k = (s.flushSettled p).job? k := by
  have hstate : (((s.flushSettled p).modLine p unflushedLine).line p).state = (s.line p).state := by
    rw [State.line_modLine_self]
    exact ((ebbs_flushSettled s p).queues.figure Line.state (fun _ _ _ => rfl) p).trans
      (flushUntagged_state s p)
  rw [endFlush_eq, retireIfEmpty_stays fun hc => h (hstate ▸ hc.1)]
  exact State.job?_congr (State.modLine_jobs ..) k

end

/-! ### A killed job loses its storage (R17) -/

section
variable {s : State} {p : LineNo} {k : Nat} {x : Job}

theorem isFeedable_killed {x : Job} (hk : jobKilled x = true) : isFeedable x.run = false := by
  unfold jobKilled at hk
  simp only [Bool.or_eq_true, decide_eq_true_eq] at hk
  obtain hk | hk := hk <;> rw [hk] <;> rfl

/-- A job whose record the count has left as it is, and that is out of the queue, keeps it until its storage goes. -/
theorem flushRewinds_job {z : Job} (hz : (s.flushCounted p).job? k = some z)
    (hq : k ∉ ((s.flushCounted p).line p).queue) (hrun : isFeedable z.run = false) :
    ((s.flushCounted p).afterRewinds p (s.flushJobs p)).job? k = some z := by
  obtain ⟨y, hy, hrerun⟩ := (spared_afterRewinds (s.flushCounted p) p (s.flushJobs p) hq).job z hz
  rw [hy, hrerun.unfed hrun]

/-- When no other line has entries of a job, the end of the flush leaves none. -/
theorem flushUntagged_noEntries (h : ∀ e ∈ (s.line p).inflight, e.flushing = true)
    (hothers : ∀ q, q ≠ p → s.entriesOn q k = []) : (s.flushUntagged p).hasEntries k = false := by
  refine Bool.eq_false_iff.mpr fun hc => ?_
  obtain ⟨q, e, he, hjob⟩ := (State.hasEntries_iff _ k).mp hc
  by_cases hq : q = p
  · subst hq
    rw [flushUntagged_line_self, flushTag_keeps Line.inflight fun _ => rfl, State.flushCleared_line_self,
      emptiedList_inflight] at he
    obtain ⟨hmem, hstays⟩ := List.mem_filter.mp he
    rw [s.flushStays_not q hmem (h e hmem)] at hstays
    exact Bool.noConfusion hstays
  · rw [flushUntagged_line_ne s p hq] at he
    have hmem : e ∈ s.entriesOn q k := List.mem_filter.mpr ⟨he, decide_eq_true hjob⟩
    rw [hothers q hq] at hmem
    exact List.not_mem_nil hmem

theorem storing_false_of_subset {t : State} (h : ∀ u ∈ t.stores, u ∈ s.stores) (hs : s.storing k = false) :
    t.storing k = false := by
  unfold State.storing at hs ⊢
  rw [List.any_eq_false] at hs ⊢
  exact fun u hu => hs u (h u hu)

theorem GivesUp.stores {q : LineNo} {es : List Entry} {t u : State} (h : GivesUp q es t u) : u.stores = t.stores := by
  rw [h.rest]
  rfl

theorem GivesUp.settings {q : LineNo} {es : List Entry} {t u : State} (h : GivesUp q es t u) :
    u.settings = t.settings := by
  rw [h.rest]
  rfl

theorem flushUntagged_stores : (s.flushUntagged p).stores = s.stores := by
  obtain ⟨es, hgives⟩ := givesUp_clearEntries (s.modLine p flushedLine) p isFlushing
  have hcleared : (s.flushCleared p).stores = (s.modLine p flushedLine).stores := hgives.stores
  rw [State.flushUntagged, State.modLine_stores, hcleared, State.modLine_stores]

/-- The storage of a killed job that the flush has freed of its entries. -/
theorem flushSettled_killed {z : Job} (h : ∀ e ∈ (s.line p).inflight, e.flushing = true) (hmem : k ∈ s.flushJobs p)
    (hothers : ∀ q, q ≠ p → s.entriesOn q k = []) (hs : s.storing k = false)
    (hz : (s.flushCounted p).job? k = some z) (hq : k ∉ ((s.flushCounted p).line p).queue) (hk : jobKilled z = true) :
    (s.endFlush p).job? k = some { z with sheets := [] } := by
  have hrun := isFeedable_killed hk
  have hrewinds := ebbs_afterRewinds (s.flushCounted p) p (s.flushJobs p)
  have hcounted := (ebbs_flushCounted s p).trans hrewinds
  have hentries : ((s.flushCounted p).afterRewinds p (s.flushJobs p)).hasEntries k = false :=
    (hcounted.queues.hasEntries k).trans (flushUntagged_noEntries h hothers)
  have hstoring : ((s.flushCounted p).afterRewinds p (s.flushJobs p)).storing k = false :=
    storing_false_of_subset (fun u hu => flushUntagged_stores (s := s) (p := p) ▸ hcounted.steady.stores u hu) hs
  have hout : k ∉ ((s.flushSettled p).line p).queue := fun hc =>
    hq ((hrewinds.trims.trans (trims_releasesIfKilled _ (s.flushJobs p))).queue p k hc)
  exact endFlush_settled_job hout (releasesIfKilled_killed hmem (flushRewinds_job hz hq hrun) hk hentries hstoring) hrun

end

end Sys2Proof.Machine
end

-- O54: the job that the end of a flush counts against.
section
namespace Sys2Proof.Machine

/-! ### The counted entry -/

section
variable {l : Line} {e : Entry}

theorem flushCount_mem (h : flushCount l = some e) : e ∈ l.inflight ∧ e.flushing = true := by
  have hfilter {f : Entry} (hf : f ∈ l.inflight.filter isFlushing) : f ∈ l.inflight ∧ f.flushing = true :=
    List.mem_filter.mp hf
  unfold flushCount at h
  split at h
  · unfold countedEntry at h
    dsimp only at h
    split at h
    · rename_i f hnamed
      obtain rfl := Option.some.inj h
      split at hnamed
      · exact hfilter (List.mem_of_find?_eq_some hnamed)
      · exact absurd hnamed.symm (Option.some_ne_none _)
    · exact hfilter (List.mem_of_head? h)
  · exact absurd h.symm (Option.some_ne_none _)

theorem flushCount_all (h : ∀ e ∈ l.inflight, e.flushing = true) : flushCount l =
    if l.flush.block = true then (match (match l.jamTag with
      | some g => l.inflight.find? fun e => decide (e.tag = g)
      | none => none) with
      | some e => some e
      | none => l.inflight.head?) else none := by
  have hall : l.inflight.filter isFlushing = l.inflight := List.filter_eq_self.mpr h
  unfold flushCount countedEntry
  rw [hall] <;> rfl

end

/-! ### The count's effect on its job -/

section
variable {s : State} {j : Nat} {x : Job}

/-- The record of a job that fails at the retry limit (R150, R151). -/
def failedRecord (storing : Bool) (n : Nat) (x : Job) : Job :=
  { unboundJob (killedJob .failed (countedJob n x)) with sheets := killedSheets storing x }

theorem jobKilled_failedRecord (storing : Bool) (n : Nat) (x : Job) : jobKilled (failedRecord storing n x) = true := rfl

/-- What the failure leaves of the record. -/
theorem failedRecord_facts (storing : Bool) (n : Nat) (x : Job) :
    (failedRecord storing n x).run = .failed ∧ (failedRecord storing n x).noProgress = n ∧
      (failedRecord storing n x).bound = none ∧ (failedRecord storing n x).leaveTarget = none ∧
      (failedRecord storing n x).holdReason = none ∧ (failedRecord storing n x).chargedCost = x.chargedCost := by
  simp [failedRecord, unboundJob, killedJob, countedJob]

variable (h : s.job? j = some x) (hk : jobKilled x = false)
include h

theorem modJob_counted (n : Nat) : (s.modJob j (countedJob n)).job? j = some (countedJob n x) :=
  s.job_modJob_self j (countedJob n) x h fun _ => rfl

include hk

theorem countNoProgress_counted (hlimit : s.settings.retryLimit = 0 ∨ attempts x < s.settings.retryLimit) :
    (s.countNoProgress j).job? j = some (countedJob (attempts x) x) := by
  rw [countNoProgress_counts h hk hlimit]
  exact modJob_counted h _

section
variable (hzero : s.settings.retryLimit ≠ 0) (hle : s.settings.retryLimit ≤ attempts x)
include hzero hle

theorem countNoProgress_failed :
    (s.countNoProgress j).job? j = some (failedRecord (s.storing j) (attempts x) x) := by
  rw [countNoProgress_fails h hk hzero hle, State.openAlert_signals, State.signalsOf_job?,
    State.kill_job? .failed (modJob_counted h _)]
  rfl

theorem countNoProgress_unqueued {p : LineNo} (hb : x.bound = some p) : j ∉ ((s.countNoProgress j).line p).queue := by
  have hcounted := modJob_counted h (attempts x)
  have hbound : (countedJob (attempts x) x).bound = some p := hb
  rw [countNoProgress_fails h hk hzero hle, State.openAlert_signals, State.signalsOf_line, State.kill_line _ hcounted,
    State.killed_line _ hcounted, if_pos hbound]
  show j ∉ without j _
  simp [without]

theorem countNoProgress_unheld : j ∉ ((s.countNoProgress j).account x.account).quotaHeld := by
  have hcounted := modJob_counted h (attempts x)
  have haccount : (countedJob (attempts x) x).account = x.account := rfl
  rw [countNoProgress_fails h hk hzero hle, State.openAlert_signals, State.signalsOf_account,
    State.kill_account _ hcounted, State.killed_account, if_pos haccount.symm]
  simp [without]

/-- A job that fails at the retry limit is reported (R151). -/
theorem countNoProgress_sends (hlaw : AlertTableLaw s) : ∃ (o : List ShopOut) (f : AlertFrame),
    (s.countNoProgress j).shopOut = s.shopOut ++ o ∧ .alert f ∈ o ∧ f.kind = .jobFailed ∧ f.subject = .job j ∧
      f.detail = ⟨none, some ⟨j, x.confirm.sheet, x.confirm.copy⟩, none, none⟩ := by
  have hcounted : AlertTableLaw (s.modJob j (countedJob (attempts x))) := hlaw
  have hkilled : AlertTableLaw ((s.modJob j (countedJob (attempts x))).kill j .failed) :=
    (follows_kill _ j .failed).moves.keeps Move.alert_law hcounted
  obtain ⟨o, ho, -⟩ := (trims_kill (s.modJob j (countedJob (attempts x))) j .failed).sends
  obtain ⟨f, hf, hkind, hsubject, hdetail⟩ := openAlert_event_sends (.job j)
    ⟨none, some ⟨j, x.confirm.sheet, x.confirm.copy⟩, none, none⟩ (k := .jobFailed) rfl hkilled
  rw [countNoProgress_fails h hk hzero hle]
  refine ⟨o ++ [.alert f], f, ?_, by simp, hkind, hsubject, hdetail⟩
  rw [hf, ho, List.append_assoc]
  rfl

end

/-- A count changes neither cursor. -/
theorem countNoProgress_cursors :
    ∃ y, (s.countNoProgress j).job? j = some y ∧ y.dispatch = x.dispatch ∧ y.confirm = x.confirm := by
  by_cases hlimit : s.settings.retryLimit = 0 ∨ attempts x < s.settings.retryLimit
  · exact ⟨_, countNoProgress_counted h hk hlimit, rfl, rfl⟩
  · rw [not_or, Nat.not_lt] at hlimit
    exact ⟨_, countNoProgress_failed h hk hlimit.1 hlimit.2, rfl, rfl⟩

end

/-! ### The counted state -/

section
variable {s : State} {p : LineNo} {c : Entry}

theorem flushCounted_some (h : flushCount (s.line p) = some c) :
    s.flushCounted p = (s.flushUntagged p).countNoProgress c.job := by
  unfold State.flushCounted
  rw [h]

theorem flushCounted_spared {k : Nat} (h : ∀ c, flushCount (s.line p) = some c → c.job ≠ k) :
    Spared k (s.flushUntagged p) (s.flushCounted p) := by
  cases hc : flushCount (s.line p) with
  | none =>
    unfold State.flushCounted
    rw [hc]
    exact .refl k _
  | some c =>
    rw [flushCounted_some hc]
    exact spared_countNoProgress _ _ (h c hc).symm

theorem flushCounted_queue {k : Nat} (h : ∀ c, flushCount (s.line p) = some c → c.job ≠ k)
    (hk : k ∈ (s.line p).queue) : k ∈ ((s.flushCounted p).line p).queue := by
  have huntagged : k ∈ ((s.flushUntagged p).line p).queue := by
    rw [flushUntagged_line_self, flushTag_keeps Line.queue fun _ => rfl, State.flushCleared_line_self,
      emptiedList_keeps Line.queue fun _ => rfl]
    exact hk
  cases hc : flushCount (s.line p) with
  | none =>
    unfold State.flushCounted
    rw [hc]
    exact huntagged
  | some c =>
    rw [flushCounted_some hc]
    exact countNoProgress_queue _ _ (h c hc).symm huntagged

theorem flushUntagged_settings : (s.flushUntagged p).settings = s.settings := by
  obtain ⟨es, hgives⟩ := givesUp_clearEntries (s.modLine p flushedLine) p isFlushing
  have hcleared : (s.flushCleared p).settings = (s.modLine p flushedLine).settings := hgives.settings
  rw [State.flushUntagged, State.modLine_settings, hcleared, State.modLine_settings]

theorem alertLaw_modLine {u : State} {q : LineNo} {f : Line → Line} (h : AlertTableLaw u) : AlertTableLaw (u.modLine q f) := h

theorem flushUntagged_alertLaw (h : AlertTableLaw s) : AlertTableLaw (s.flushUntagged p) := by
  have hcleared : AlertTableLaw (s.flushCleared p) :=
    (follows_clearEntries (s.modLine p flushedLine) p isFlushing).moves.keeps Move.alert_law (alertLaw_modLine h)
  exact alertLaw_modLine hcleared

/-- A rewound job is counted by its attempts before the flush. -/
theorem attempts_rewound (x : Job) : attempts (rewound x) = attempts x := rfl

/-- The two cursors of a live job are at its confirm cursor once the flush has ended (R60). -/
theorem flushCounted_cursors {e : Entry} {x : Job} (he : e ∈ (s.line p).inflight) (hf : e.flushing = true)
    (hx : s.job? e.job = some x) (hk : jobKilled x = false) :
    ∃ y, (s.flushCounted p).job? e.job = some y ∧ y.dispatch = x.confirm ∧ y.confirm = x.confirm := by
  have hrewound := flushUntagged_rewound he hf hx hk
  by_cases hsame : ∃ c, flushCount (s.line p) = some c ∧ c.job = e.job
  · obtain ⟨c, hc, hjob⟩ := hsame
    rw [flushCounted_some hc, hjob]
    exact countNoProgress_cursors hrewound hk
  · obtain ⟨y, hy, r, rfl, -⟩ := (flushCounted_spared (k := e.job) fun c hc hjob => hsame ⟨c, hc, hjob⟩).job _ hrewound
    exact ⟨_, hy, rfl, rfl⟩

/-- A killed job keeps its record through the count. -/
theorem flushCounted_killed {k : Nat} {x : Job} (hx : s.job? k = some x) (hk : jobKilled x = true) :
    (s.flushCounted p).job? k = some x := by
  have huntagged := flushUntagged_killed (p := p) hx hk
  by_cases hsame : ∃ c, flushCount (s.line p) = some c ∧ c.job = k
  · obtain ⟨c, hc, rfl⟩ := hsame
    rw [flushCounted_some hc, countNoProgress_killed huntagged hk]
    exact huntagged
  · obtain ⟨y, hy, hrerun⟩ := (flushCounted_spared (k := k) fun c hc hjob => hsame ⟨c, hc, hjob⟩).job _ huntagged
    rw [hy, hrerun.unfed (isFeedable_killed hk)]

end

end Sys2Proof.Machine
end

-- O54: the statement.
section
namespace Sys2Proof.Machine

section
variable {s : State} {p : LineNo}

/-! ### The figures of the accounts -/

theorem endFlush_returned (h : ∀ e ∈ (s.line p).inflight, e.flushing = true) (a : AccountNo) :
    sameFigures (s.returned (s.line p).inflight a) ((s.endFlush p).account a) :=
  flushCleared_account s p h a ▸ endFlush_figures s p a

theorem sameFigures_costs {a b : Account} (h : sameFigures a b) :
    b.reservedCost = a.reservedCost ∧ b.chargedCost = a.chargedCost := by
  have hrecords : { b with quotaHeld := [] } = { a with quotaHeld := [] } := h
  have hreserved := congrArg Account.reservedCost hrecords
  have hcharged := congrArg Account.chargedCost hrecords
  exact ⟨hreserved, hcharged⟩

/-- The entries of one job all stand on its account. -/
theorem returned_one {x : Job} {es : List Entry} (hx : s.job? x.number = some x) (h : ∀ e ∈ es, e.job = x.number) :
    s.returned es x.account =
      unreserve (es.map fun e => e.cost).sum (es.map fun e => e.sides).sum (s.account x.account) := by
  have hall : es.filter (s.ownedBy x.account) = es := by
    refine List.filter_eq_self.mpr fun e he => ?_
    unfold State.ownedBy
    rw [h e he, hx]
    exact decide_eq_true rfl
  unfold State.returned
  rw [hall]

/-! ### The jobs -/

section
variable {e : Entry} {x : Job}

theorem endFlush_cursors (he : e ∈ (s.line p).inflight) (hf : e.flushing = true) (hx : s.job? e.job = some x)
    (hk : jobKilled x = false) (y : Job) (hy : (s.endFlush p).job? e.job = some y) :
    y.dispatch = x.confirm ∧ y.confirm = x.confirm := by
  obtain ⟨w, hw, hwork⟩ := endFlush_counted_work y hy
  obtain ⟨z, hz, hdispatch, hconfirm⟩ := flushCounted_cursors he hf hx hk
  obtain rfl := Option.some.inj (hw.symm.trans hz)
  rw [hwork.2]
  exact ⟨hdispatch, hconfirm⟩

theorem endFlush_killed (h : ∀ e ∈ (s.line p).inflight, e.flushing = true) (he : e ∈ (s.line p).inflight)
    (hx : s.job? e.job = some x) (hk : jobKilled x = true) (hq : e.job ∉ (s.line p).queue)
    (hothers : ∀ q, q ≠ p → s.entriesOn q e.job = []) (hs : s.storing e.job = false) :
    (s.endFlush p).job? e.job = some { x with sheets := [] } :=
  flushSettled_killed h ((s.mem_flushJobs p).mpr ⟨e, he, h e he, rfl⟩) hothers hs (flushCounted_killed hx hk)
    (not_mem_flushCounted hq) hk

/-- A job that its printer was feeding or draining is back in its queue. -/
theorem endFlush_fed (he : e ∈ (s.line p).inflight) (hf : e.flushing = true) (hx : s.job? e.job = some x)
    (hcount : ∀ c, flushCount (s.line p) = some c → c.job ≠ e.job) (hrun : x.run = .feeding ∨ x.run = .draining)
    (hq : e.job ∈ (s.line p).queue) (hstate : (s.line p).state ≠ .retiring) :
    ∃ y, (s.endFlush p).job? e.job = some y ∧ (y.run = .queued ∨ y.run = .feeding) ∧ y.bound = x.bound := by
  have hk : jobKilled x = false := by
    obtain hrun | hrun := hrun <;> simp [jobKilled, hrun]
  have hrewound := flushUntagged_rewound he hf hx hk
  have hfed : Fed e.job x.bound (fun r => r = .feeding ∨ r = .draining ∨ r = .queued) (s.flushCounted p) := by
    obtain ⟨y, hy, r, rfl, hr⟩ := (flushCounted_spared hcount).job _ hrewound
    refine ⟨_, hy, rfl, ?_⟩
    obtain hr | ⟨-, hr⟩ := hr
    · rw [hr]
      exact hrun.imp id .inl
    · rw [isFeedable_iff] at hr
      exact hr.elim (fun hqueued => .inr (.inr hqueued)) .inl
  have hmem : e.job ∈ (s.flushCounted p).rewoundQueue p (s.flushJobs p) :=
    List.mem_filter.mpr ⟨flushCounted_queue hcount hq, decide_eq_true ((s.mem_flushJobs p).mpr ⟨e, he, hf, rfl⟩)⟩
  obtain ⟨y, hy, hb, hfeedable⟩ := fed_afterRewinds p (s.flushJobs p) hmem hfed
  have hlive : jobKilled y = false := by
    obtain hr | hr := isFeedable_iff.mp hfeedable <;> simp [jobKilled, hr]
  refine ⟨y, ?_, isFeedable_iff.mp hfeedable, hb⟩
  rw [endFlush_job_same hstate]
  exact releasesIfKilled_live _ hy hlive

theorem endFlush_noProgress {k : Nat} {y : Job} (hcount : ∀ c, flushCount (s.line p) = some c → c.job ≠ k)
    (hx : s.job? k = some x) (hy : (s.endFlush p).job? k = some y) : y.noProgress = x.noProgress := by
  obtain ⟨w, hw, hwork⟩ := endFlush_counted_work y hy
  obtain ⟨u, hu, hprogress⟩ := flushUntagged_noProgress (p := p) hx
  obtain ⟨v, hv, r, rfl, -⟩ := (flushCounted_spared hcount).job u hu
  obtain rfl := Option.some.inj (hw.symm.trans hv)
  rw [hwork.2]
  exact hprogress

end

/-! ### The job that is counted against -/

section
variable {c : Entry} {x : Job} (hc : flushCount (s.line p) = some c) (hx : s.job? c.job = some x)
  (hk : jobKilled x = false)
include hc hx hk

theorem counted_rewound : (s.flushUntagged p).job? c.job = some (rewound x) := by
  obtain ⟨hmem, hf⟩ := flushCount_mem hc
  exact flushUntagged_rewound hmem hf hx hk

/-- Below the retry limit the job lives on. -/
theorem endFlush_counts (hlimit : s.settings.retryLimit = 0 ∨ attempts x < s.settings.retryLimit) :
    (∀ y, (s.endFlush p).job? c.job = some y → y.noProgress = attempts x ∧ y.run ≠ .failed) ∧
      (x.run ≠ .leaving → ∃ y, (s.endFlush p).job? c.job = some y) := by
  have hrewound := counted_rewound hc hx hk
  have hcounted : (s.flushCounted p).job? c.job = some (countedJob (attempts x) (rewound x)) := by
    rw [flushCounted_some hc]
    exact countNoProgress_counted hrewound hk (by rw [flushUntagged_settings]; exact hlimit)
  refine ⟨fun y hy => ?_, fun hrun => ?_⟩
  · obtain ⟨w, hw, hfailed, hwork⟩ := endFlush_counted_work y hy
    obtain rfl := Option.some.inj (hw.symm.trans hcounted)
    refine ⟨?_, fun hc => ?_⟩
    · rw [hwork]
      rfl
    · have hrun : x.run = .failed := hfailed hc
      rw [jobKilled, hrun] at hk
      exact Bool.noConfusion hk
  · obtain ⟨y, hy, -⟩ := stays_afterRewinds p (s.flushJobs p) ⟨_, hcounted, hrun⟩
    obtain ⟨hnone, -⟩ := sheetsOnly_releasesIfKilled ((s.flushCounted p).afterRewinds p (s.flushJobs p)) (s.flushJobs p) c.job
    have hsettled : ((s.flushSettled p).job? c.job).isSome = true := by
      refine Option.isSome_iff_ne_none.mpr fun hno => ?_
      exact absurd (hy.symm.trans (hnone.mp hno)) (Option.some_ne_none y)
    have hunflushed : ((s.flushSettled p).modLine p unflushedLine).job? c.job = (s.flushSettled p).job? c.job :=
      State.job?_congr (State.modLine_jobs ..) _
    refine Option.isSome_iff_exists.mp ?_
    rw [endFlush_eq, retireIfEmpty_isSome, hunflushed]
    exact hsettled

section
variable (hzero : s.settings.retryLimit ≠ 0) (hle : s.settings.retryLimit ≤ attempts x)
include hzero hle

/-- At the retry limit the job fails and leaves its printer (R150, R151, R17). -/
theorem endFlush_fails (h : ∀ e ∈ (s.line p).inflight, e.flushing = true) (hb : x.bound = some p)
    (hothers : ∀ q, q ≠ p → s.entriesOn q c.job = []) :
    ∃ y, (s.endFlush p).job? c.job = some y ∧ y.run = .failed ∧ y.noProgress = attempts x ∧ y.bound = none ∧
      y.leaveTarget = none ∧ y.holdReason = none ∧ y.chargedCost = x.chargedCost ∧
      (s.storing c.job = false → y.sheets = []) ∧ c.job ∉ ((s.endFlush p).line p).queue ∧
      c.job ∉ ((s.endFlush p).account x.account).quotaHeld := by
  obtain ⟨hmem, hf⟩ := flushCount_mem hc
  have hrewound := counted_rewound hc hx hk
  have hzero' : (s.flushUntagged p).settings.retryLimit ≠ 0 := by
    rw [flushUntagged_settings]
    exact hzero
  have hle' : (s.flushUntagged p).settings.retryLimit ≤ attempts (rewound x) := by
    rw [flushUntagged_settings]
    exact hle
  have hfailed := countNoProgress_failed hrewound hk hzero' hle'
  have hunqueued := countNoProgress_unqueued hrewound hk hzero' hle' (p := p) hb
  have hunheld := countNoProgress_unheld hrewound hk hzero' hle'
  rw [← flushCounted_some hc] at hfailed hunqueued hunheld
  have htrims := endFlush_counted_trims (s := s) (p := p)
  have hqueue : c.job ∉ ((s.endFlush p).line p).queue := fun hin => hunqueued (htrims.queue p c.job hin)
  have hquota : c.job ∉ ((s.endFlush p).account x.account).quotaHeld := fun hin =>
    hunheld (htrims.quota x.account c.job hin)
  generalize hflag : (s.flushUntagged p).storing c.job = storing at hfailed
  obtain ⟨f1, f2, f3, f4, f5, f6⟩ := failedRecord_facts storing (attempts x) (rewound x)
  cases hs : s.storing c.job with
  | false =>
    have hjobs : c.job ∈ s.flushJobs p := (s.mem_flushJobs p).mpr ⟨c, hmem, hf, rfl⟩
    have hkilled := flushSettled_killed h hjobs hothers hs hfailed hunqueued (jobKilled_failedRecord ..)
    exact ⟨_, hkilled, f1, f2, f3, f4, f5, f6, fun _ => rfl, hqueue, hquota⟩
  | true =>
    have hrewinds := flushRewinds_job hfailed hunqueued rfl
    obtain ⟨hnone, hsome⟩ :=
      sheetsOnly_releasesIfKilled ((s.flushCounted p).afterRewinds p (s.flushJobs p)) (s.flushJobs p) c.job
    obtain ⟨y, hy⟩ : ∃ y, (s.flushSettled p).job? c.job = some y := by
      refine Option.ne_none_iff_exists'.mp fun hno => ?_
      exact absurd (hrewinds.symm.trans (hnone.mp hno)) (Option.some_ne_none _)
    obtain ⟨z, hz, hyz⟩ := hsome y hy
    obtain rfl := Option.some.inj (hz.symm.trans hrewinds)
    have hout : c.job ∉ ((s.flushSettled p).line p).queue := fun hin => hunqueued
      (((ebbs_afterRewinds _ p (s.flushJobs p)).trims.trans (trims_releasesIfKilled _ (s.flushJobs p))).queue p _ hin)
    refine ⟨y, endFlush_settled_job hout hy (by rw [hyz]; rfl), ?_⟩
    rw [hyz]
    exact ⟨f1, f2, f3, f4, f5, f6, fun hno => Bool.noConfusion hno, hqueue, hquota⟩

/-- The failure is reported among the alerts that the end of the flush sends. -/
theorem endFlush_reports (hlaw : AlertTableLaw s) : ∃ (o : List ShopOut) (f : AlertFrame),
    (s.endFlush p).shopOut = s.shopOut ++ o ∧ .alert f ∈ o ∧ f.kind = .jobFailed ∧ f.subject = .job c.job ∧
      f.detail = ⟨none, some ⟨c.job, x.confirm.sheet, x.confirm.copy⟩, none, none⟩ := by
  have hrewound := counted_rewound hc hx hk
  obtain ⟨o, f, hf, hmem, hkind, hsubject, hdetail⟩ := countNoProgress_sends hrewound hk
    (by rw [flushUntagged_settings]; exact hzero) (by rw [flushUntagged_settings]; exact hle)
    (flushUntagged_alertLaw hlaw)
  rw [← flushCounted_some hc] at hf
  obtain ⟨before, hbefore, -⟩ := (flushUntagged_trims (s := s) (p := p)).sends
  obtain ⟨after, hafter, -⟩ := (endFlush_counted_trims (s := s) (p := p)).sends
  refine ⟨before ++ o ++ after, f, ?_, ?_, hkind, hsubject, hdetail⟩
  · rw [hafter, hf, hbefore, List.append_assoc, List.append_assoc, List.append_assoc]
  · exact List.mem_append_left _ (List.mem_append_right _ hmem)

end

end

end

/-! ### The events -/

section
variable {s : State} {p : LineNo}

theorem flushedFrame_ignored (h : (s.line p).state = .down ∨ (s.line p).state = .retired) : s.flushedFrame p = s := by
  have htakes : takesFrames (s.line p) = false := by
    unfold takesFrames
    obtain h | h := h <;> simp [h]
  exact if_neg (by rw [htakes]; exact Bool.false_ne_true)

theorem flushedFrame_taken (hdown : (s.line p).state ≠ .down) (hretired : (s.line p).state ≠ .retired) :
    s.flushedFrame p = if flushPending (s.line p).flush = true then s.endFlush p else s.protocolFault p := by
  have htakes : takesFrames (s.line p) = true := by
    unfold takesFrames
    simp [hdown, hretired]
  exact if_pos htakes

end

/-- Settles O54. -/
theorem flushedEndsTheFlush : Obligations.FlushedEndsTheFlush := by
  refine ⟨fun s p hlive => ?_, fun s p => rfl, fun s j x hx => ?_, fun s p => ?_, fun s p hall => ?_⟩
  · have hstate : ((s.modLine p heard).line p).state = (s.line p).state := by rw [State.line_heard, heard_state]
    have hflush : ((s.modLine p heard).line p).flush = (s.line p).flush := by
      rw [State.line_heard]
      rfl
    refine ⟨fun hoff hw => ?_, fun hdown hretired => ?_⟩
    · exact congrArg _ (lineEvent_nothing hlive hw (flushedFrame_ignored (by rw [hstate]; exact hoff)))
    · have htaken := flushedFrame_taken (s := s.modLine p heard) (p := p) (by rw [hstate]; exact hdown)
        (by rw [hstate]; exact hretired)
      rw [hflush] at htaken
      refine ⟨fun hno hw => ?_, fun hpending => ?_⟩
      · rw [if_neg (by rw [hno]; exact Bool.false_ne_true)] at htaken
        have hsteady : Steady s ((s.modLine p heard).protocolFault p) :=
          (Steady.modLine s p heard fun _ => ⟨heard_state _, rfl⟩).trans (steady_openAlert _ _ _ _)
        refine congrArg _ ((lineEvent_live hlive).trans ?_)
        rw [htaken]
        refine hsteady.settled ?_
        show ((s.modLine p heard).protocolFault p).passesWanted = 0
        unfold State.protocolFault
        rw [State.openAlert_signals]
        exact hw
      · rw [if_pos hpending] at htaken
        exact congrArg _ ((lineEvent_live hlive).trans (congrArg (settleEvent s) htaken))
  · exact ⟨fun hk => countNoProgress_killed hx hk, fun hk hlimit => countNoProgress_counts hx hk hlimit,
      fun hk hzero hle => countNoProgress_fails hx hk hzero hle⟩
  · refine ⟨endFlush_flush s p, endFlush_credits s p, endFlush_flushLimit s p, endFlush_stays s p, fun q hq =>
      ⟨endFlush_line_ne s p Line.inflight (fun _ _ _ => rfl) hq, endFlush_line_ne s p Line.credits (fun _ _ _ => rfl) hq,
        endFlush_line_ne s p Line.state (fun _ _ _ => rfl) hq, endFlush_line_ne s p Line.fifo (fun _ _ _ => rfl) hq⟩,
      fun x hx hk hb hne hall => ?_⟩
    have hflushing : ∀ e ∈ (s.line p).inflight, e.flushing = true := fun e he => (hall e he).1
    have hfigures := endFlush_returned hflushing x.account
    rw [returned_one hx fun e he => (hall e he).2] at hfigures
    obtain ⟨hreserved, hcharged⟩ := sameFigures_costs hfigures
    refine ⟨endFlush_empty s p hflushing, hreserved, hcharged, fun y hy => ?_⟩
    obtain ⟨e, he⟩ := List.exists_mem_of_ne_nil _ hne
    obtain ⟨hf, hjob⟩ := hall e he
    rw [← hjob] at hx hy
    exact endFlush_cursors he hf hx hk y hy
  · intro t es ofAccount tagged counted
    have hcounted : counted = flushCount (s.line p) := (flushCount_all hall).symm
    refine ⟨endFlush_empty s p hall, fun a => endFlush_returned hall a, fun e he x hx => ⟨fun hk y hy =>
      endFlush_cursors he (hall e he) hx hk y hy, fun hk hq hothers hs => endFlush_killed hall he hx hk hq hothers hs,
      fun hcount hrun hq hstate => endFlush_fed he (hall e he) hx (hcounted ▸ hcount) hrun hq hstate⟩,
      endFlush_jamTag s p, fun j x y hcount hx hy => endFlush_noProgress (hcounted ▸ hcount) hx hy,
      fun c x hc hx hk hb => ?_⟩
    have hc' : flushCount (s.line p) = some c := hcounted ▸ hc
    exact ⟨fun hlimit => endFlush_counts hc' hx hk hlimit, fun hzero hle hothers =>
      endFlush_fails hc' hx hk hzero hle hall hb hothers, fun hzero hle hlaw => endFlush_reports hc' hx hk hzero hle hlaw⟩

end Sys2Proof.Machine
end

-- O39: the refutation.
section
namespace Sys2Proof.Machine

/-! ### A purge that waits on a store, of a job with a sheet-copy in flight

PURGE JOB is refused BUSY while the job has an entry (R41), so no run of the part marks such a store. The
scheduler's law does not say it: of a store marked with a purge it asks that the job is CANCELLED or FAILED, not
that the job has no entry. The end of the store then frees the record, and the entry is of no job. -/

/-- The frame whose segment the store writes. -/
def purgeFrame : ShopFrame :=
  { dst := 0x02524E000000#48
    src := 0x020000000001#48
    etherType := 0x8A5C#16
    fcsGood := true
    version := 1
    tag := 7
    job := 1
    sheet := 1
    offset := 0
    length := 2
    rest := [0x41, 0x42] }

/-- A CANCELLED job with a complete sheet, whose copy is in flight, and an open one, which a store writes. -/
def purgeJob : Job :=
  { newJob 1 purgeFrame.src (openFields [0, 9, 2, 1, 2, 2, 0, 1, 3]) RouteRow.reset with
    run := .cancelled
    sheets := [{ freshSheet 1 0 with state := .complete, received := 300, chain := [4] },
      { freshSheet 1 1 with received := 2, chain := [5] }]
    dispatch := ⟨0, 1⟩ }

/-- The sheet-copy in flight, flushing since the cancel. -/
def purgeEntry : Entry :=
  { job := 1, copy := 0, sheet := 0, tag := 0, cost := 0, sides := 1, moved := 300, flushing := true }

/-- The part with that job: printer 3 flushes its entry, its store is marked with a purge, and the store's end
is the next command. -/
def purgeDuringFlush : State :=
  { State.reset.modLine 3 fun l =>
      { l with
        state := .ready
        flush := { Purposes.none with cancel := true }
        inflight := [purgeEntry]
        tagCtr := 1 } with
    pending := [.sheetDataStoreEnd 1]
    live := .live
    free := [6, 7]
    spoolLow := true
    jobs := [purgeJob]
    stores := [⟨1, 1, 0, [0x41, 0x42], purgeFrame, true⟩] }

theorem purgeDuringFlush_listLaw : ListLaw purgeDuringFlush := by decide +kernel

/-- Of an ended job the law asks only that its entries lie on one line. -/
theorem jobEntryLaw_of_killed {s : State} {x : Job} (hkilled : jobKilled x = true)
    (hone : ∀ p q, s.entriesOn p x.number ≠ [] → s.entriesOn q x.number ≠ [] → p = q) : JobEntryLaw s x :=
  ⟨hone, fun hlive => absurd (hkilled.symm.trans hlive) Bool.noConfusion,
    fun hlive => absurd (hkilled.symm.trans hlive) Bool.noConfusion⟩

theorem purgeDuringFlush_entryLaw : EntryLaw purgeDuringFlush := by
  refine ⟨by decide +kernel, fun x hx => ?_⟩
  obtain rfl := List.mem_singleton.mp hx
  exact jobEntryLaw_of_killed rfl (by decide +kernel)

theorem purgeDuringFlush_law : SchedulerLaw purgeDuringFlush :=
  ⟨by decide +kernel, by decide +kernel, by decide +kernel, purgeDuringFlush_listLaw, purgeDuringFlush_entryLaw⟩

theorem step_purgeDuringFlush :
    step purgeDuringFlush = .next (storeEnd 1 (purgeDuringFlush.withPending [])) := rfl

/-- The entry is still in flight at the end of the store, and its job's record is free. -/
theorem storeEnd_purgeDuringFlush :
    let t := storeEnd 1 (purgeDuringFlush.withPending [])
    (t.line 3).inflight = [purgeEntry] ∧ t.job? purgeEntry.job = none := by decide +kernel

theorem not_entryLaw_of_orphan {s : State} {p : LineNo} {e : Entry} (hentry : e ∈ (s.line p).inflight)
    (hnone : s.job? e.job = none) : ¬ EntryLaw s := by
  intro hlaw
  obtain ⟨hlines, -⟩ := hlaw
  obtain ⟨-, hjobs⟩ := hlines p
  simpa [hnone] using hjobs e hentry

/-- Refutes O39: the law lets a store be marked with a purge while its CANCELLED job has an entry in flight, and
the end of that store leaves the entry without a job record. -/
theorem not_stepKeepsQueuesEntriesAndAccounts : ¬ Obligations.StepKeepsQueuesEntriesAndAccounts := by
  unfold Obligations.StepKeepsQueuesEntriesAndAccounts
  intro hkeeps
  obtain ⟨hscheduler, -⟩ := hkeeps
  obtain ⟨hentries, hjob⟩ := storeEnd_purgeDuringFlush
  obtain ⟨-, -, -, -, hentryLaw⟩ := hscheduler _ _ purgeDuringFlush_law step_purgeDuringFlush
  refine not_entryLaw_of_orphan (p := 3) (e := purgeEntry) ?_ hjob hentryLaw
  rw [hentries]
  exact List.mem_singleton_self purgeEntry

end Sys2Proof.Machine
end
